-- ==== Sys2Proof/Word.lean ====
section
/-! DEFINITION. The words of the CX4: bytes, 32-bit and 64-bit words, and the names of its operand spaces (R64, R71, R73). -/

namespace Sys2Proof

/-- One byte of memory, the smallest addressable unit (R2). -/
abbrev Byte := BitVec 8

/-- A vector register's lane, or a parcel: 32 bits (R60, R71). -/
abbrev W32 := BitVec 32

/-- A scalar register, a program counter or a virtual address: 64 bits (R71, R153). -/
abbrev W64 := BitVec 64

/-- A predicate's number, `p0` to `p7` (R73). -/
abbrev Pred := BitVec 3

/-- A task-relative tile number, `t0` to `t63` (R73). -/
abbrev Tile := BitVec 6

/-- A task-relative ring number, `ring0` to `ring15` (R73). -/
abbrev Ring := BitVec 4

/-- A task-relative queue number, `q0` to `q7` (R73). -/
abbrev QueueN := BitVec 3

/-- An access handle's number, `h0` to `h15` (R73). -/
abbrev HandleN := BitVec 4

/-- A task-relative accumulator bank number, `a0` to `a63` (R73). -/
abbrev BankN := BitVec 6

/-- A register named by an 8-bit code: codes 0x00 to 0xBF are `v0` to `v191`,
codes 0xC0 to 0xFF are `s0` to `s63` (R71). -/
inductive Reg where
  | v (n : Fin 192)
  | s (n : Fin 64)
  deriving DecidableEq, Repr

/-- Every bit of a 32-bit word set, the value of `%iter` and `%age` outside a grant (R175). -/
def ones32 : W32 := 0xFFFFFFFF#32

end Sys2Proof
end

