-- ==== Sys2Proof/Config.lean ====
section
/-! DEFINITION. What the spec leaves to one implementation, and the free values: constants with no body, so that no
proof can see a number in them. -/

namespace Sys2Proof.Config

/-- Free value: a count of queue cycles that a record or a counter holds (R396, R402: the spec gives no rate or delay of the
paths). The argument is the state's count of free values drawn (DESIGN CHOICE, assumption log 3). -/
opaque queueCycles : Nat → Nat

/-- Free value: which pair of positions stands for a group of 2:4 data whose kept values are not two (R266 gives no layout for
a box that cuts a group, or for elements out of range). The arguments are the number drawn for the copy and the group
(DESIGN CHOICE, assumption log 10). -/
opaque groupPair : Nat → Nat → Nat

/-- Free value: a byte that the spec does not give of the header of a slot whose fill ended on a data fault (R277). The
arguments are the number drawn for the copy and the byte's offset (DESIGN CHOICE, assumption log 11). -/
opaque faultedByte : Nat → Nat → Byte

/-- Free value: the idle cycles that the device inserts after an issue at its power or temperature limit (R424 gives no number).
The argument is the step's number (DESIGN CHOICE, assumption log 3). -/
opaque idleCycles : Nat → Nat

/-- Outside algorithm: SHAKE256 of some bytes with an output of n bytes (R397 and R423 name the algorithm and give no definition of
it; DESIGN CHOICE, assumption log 4). -/
opaque shake256 : Nat → List Byte → List Byte

/-- Outside format: the Bynel route table that a configuration image holds, as (target, port mask) pairs (R423; the spec gives the
image no layout; DESIGN CHOICE, assumption log 4). -/
opaque imageRoutes : List Byte → List (Nat × BitVec 16)

/-- Outside format: the residency defaults that a configuration image holds, as (register, RESID_BASE, RESID_LIM, RESID_CTL)
(R423; the spec gives the image no layout; DESIGN CHOICE, assumption log 4). -/
opaque imageResid : List Byte → List (Nat × W64 × W64 × W32)

/-- Outside algorithm: whether the Ed448 signature of a boot image verifies (R423 names the algorithm and gives no definition of
it, and no place of the signature). The arguments are the image's digest and the image (DESIGN CHOICE, assumption log 4). -/
opaque ed448Verifies : List Byte → List Byte → Bool

/-- Outside algorithm: the identity key that a die derives from its seed (R423; DESIGN CHOICE, assumption log 4). -/
opaque identityKey : Nat → List Byte

end Sys2Proof.Config
end

