-- ==== Sys2Proof/Syntax.lean ====
section
/-! DEFINITION. The instructions of the CX4 and the events of its agents: one constructor for each row of the opcode
table. The first part lists the modifiers an instruction's entry assigns, then come the operand forms, then `Instr`. -/

namespace Sys2Proof

/-- Rounding modifier (R93). -/
inductive Rm where
  | rn | rz | ru | rd
  deriving DecidableEq, Repr

/-- Condition of CMP (R190). -/
inductive Cond where
  | eq | ne | lt | le | gt | ge
  deriving DecidableEq, Repr

/-- Condition of FCMP (R198). -/
inductive FCond where
  | eq | ne | lt | le | gt | ge | num | nan
  deriving DecidableEq, Repr

/-- Two-source operation of PSET (R191). -/
inductive PsetOp where
  | and | or | xor | andn
  deriving DecidableEq, Repr

/-- Source of PSET: two predicates, or a lane mask in a register under `.m` (R191). -/
inductive PsetSrc where
  | bin (op : PsetOp) (a b : Pred)
  | mask (a : Reg)
  deriving DecidableEq, Repr

/-- Mode of SHFL (R192). -/
inductive ShflMode where
  | idx | up | down | xor
  deriving DecidableEq, Repr

/-- Mode of VOTE (R193). -/
inductive VoteMode where
  | ballot | any | all | eq
  deriving DecidableEq, Repr

/-- Operation of RDUC and SCAN (R194). -/
inductive RedOp where
  | add | min | max | and | or | xor | fadd | fmin | fmax
  deriving DecidableEq, Repr

/-- The form in which source b of a packed instruction enters the two halves (R201). -/
inductive BSrc where
  | none | bswap | blo | bhi | bneg
  deriving DecidableEq, Repr

/-- Type code of CVT (R202). -/
inductive CvtTy where
  | f32 | f16 | bf16 | e4m3 | s32 | s8 | s4 | z32 | z8
  deriving DecidableEq, Repr

/-- Type of PACK (R203). -/
inductive PackTy where
  | f16 | bf16 | e4m3 | s8
  deriving DecidableEq, Repr

/-- Type of UNPK (R204). -/
inductive UnpkTy where
  | f16 | bf16 | e4m3 | s8 | z8 | s4
  deriving DecidableEq, Repr

/-- Access size of a load (R216). A store takes `b32`, `s8`, `s16`, `b64` and `b128` only. -/
inductive Size where
  | b32 | s8 | z8 | s16 | z16 | b64 | b128
  deriving DecidableEq, Repr

/-- Operation of ATOM (R228). -/
inductive AtomOp where
  | add | min | max | and | or | xor | xchg
  deriving DecidableEq, Repr

/-- Operation of ATOMF (R228). -/
inductive AtomFOp where
  | fadd | fmin | fmax
  deriving DecidableEq, Repr

/-- Selector of AHQ (R303). -/
inductive AhqSel where
  | lim | base | ctl
  deriving DecidableEq, Repr

/-- Combination of SCT (R312). -/
inductive Comb where
  | st | fadd | iadd
  deriving DecidableEq, Repr

/-- Block length of MHAD (R362). -/
inductive HadP where
  | p16 | p32 | p64
  deriving DecidableEq, Repr

/-- Destination kind of ACST (R370). -/
inductive DrainKind where
  | bf16 | fp16 | fp32 | e4m3 | int8 | int32
  deriving DecidableEq, Repr

/-- Selector of MSTAT with the bank it names (R371). -/
inductive MstatSel where
  | plane
  | bank (a : BankN)
  | mark (a : BankN)
  | busy
  deriving DecidableEq, Repr

/-- The fields every instruction carries: STALL, PRED and PNEG (R64, R65). -/
structure Hdr where
  stall : BitVec 4
  pred : Pred
  pneg : Bool
  deriving DecidableEq, Repr

/-- Source B of an instruction marked BI: a register, the 8-bit immediate in SC, or IMM32 (R179). -/
inductive SrcB where
  | reg (r : Reg)
  | imm8 (i : BitVec 8)
  | imm32 (i : W32)
  deriving DecidableEq, Repr

/-- A displacement: SC in the 64-bit form, IMM32 in the 96-bit form (R69, R215). -/
inductive Disp where
  | d8 (i : BitVec 8)
  | d32 (i : W32)
  deriving DecidableEq, Repr

/-- The tile, or the ring written in a tile's place, that a copy instruction names (R270). -/
inductive TileRef where
  | tile (t : Tile)
  | ring (r : Ring)
  deriving DecidableEq, Repr

/-- Iteration source of RFLI: a scalar register that holds a range, or a queue (R165, R210). -/
inductive IterSrc where
  | range (s : Fin 64)
  | queue (q : QueueN)
  deriving DecidableEq, Repr

/-- The lengths of a refill loop's sections, in parcels (R210). -/
structure LoopLens where
  plen : BitVec 8
  blen : BitVec 12
  tlen : BitVec 8
  dlen : BitVec 7
  deriving DecidableEq, Repr

/-- The registers the resident kernel writes that have no behaviour of their own at a write (the row
REGISTER_WRITE); each argument names the instance (DESIGN CHOICE, assumption log 59). -/
inductive KReg where
  | residBase (part n : Nat)
  | residLim (part n : Nat)
  | preempt (core : Nat)
  | hang (core : Nat)
  | trace (core : Nat)
  | bpAddr (core n : Nat)
  | bpCtl (core n : Nat)
  | arena (part off : Nat)
  | homeMap (die granule : Nat)
  | tableDesc (asn size : Nat)
  | lostMap (pkg : Nat)
  | routeMask (pkg : Nat)
  | staging (die : Nat)
  deriving DecidableEq, Repr

/-- A Bynel message (R417): source and target package, tag, address, byte mask and payload. -/
structure Flit where
  src : Nat
  dst : Nat
  tag : Nat
  addr : Nat
  mask : BitVec 128
  payload : List Byte
  last : Bool
  err : Bool
  deriving DecidableEq, Repr

/-- One instruction as its decoded form, or one event of the device, of the resident kernel, of the host or of a link.
The constructors stand in the order of the opcode table; the rule each follows is cited at its meaning. -/
inductive Instr where
  | pad32
  | nop (h : Hdr)
  | mov (h : Hdr) (d a : Reg)
  | movi (h : Hdr) (z : Bool) (d : Reg) (imm : W32)
  | moviHi (h : Hdr) (d : Reg) (imm : W32)
  | add (h : Hdr) (z sat : Bool) (d a : Reg) (b : SrcB)
  | sub (h : Hdr) (z sat : Bool) (d a : Reg) (b : SrcB)
  | mul (h : Hdr) (z sat : Bool) (d a : Reg) (b : SrcB)
  | mulh (h : Hdr) (z : Bool) (d a : Reg) (b : SrcB)
  | mad (h : Hdr) (z sat : Bool) (d a b c : Reg)
  | lea (h : Hdr) (d a b : Reg) (n : BitVec 8)
  | min (h : Hdr) (z : Bool) (d a : Reg) (b : SrcB)
  | max (h : Hdr) (z : Bool) (d a : Reg) (b : SrcB)
  | abs (h : Hdr) (sat : Bool) (d a : Reg)
  | neg (h : Hdr) (sat : Bool) (d a : Reg)
  | sat (h : Hdr) (z : Bool) (d a : Reg) (n : BitVec 8)
  | and (h : Hdr) (d a : Reg) (b : SrcB)
  | or (h : Hdr) (d a : Reg) (b : SrcB)
  | xor (h : Hdr) (d a : Reg) (b : SrcB)
  | andn (h : Hdr) (d a : Reg) (b : SrcB)
  | not (h : Hdr) (d a : Reg)
  | shl (h : Hdr) (d a : Reg) (b : SrcB)
  | shr (h : Hdr) (d a : Reg) (b : SrcB)
  | sha (h : Hdr) (d a : Reg) (b : SrcB)
  | rot (h : Hdr) (d a : Reg) (b : SrcB)
  | clz (h : Hdr) (d a : Reg)
  | popc (h : Hdr) (d a : Reg)
  | brev (h : Hdr) (d a : Reg)
  | bfx (h : Hdr) (z : Bool) (d a b : Reg)
  | bfi (h : Hdr) (d a b c : Reg)
  | bytx (h : Hdr) (d a b c : Reg)
  | sel (h : Hdr) (d a b : Reg) (p : BitVec 8)
  | cmp (h : Hdr) (cond : Cond) (z : Bool) (p : Pred) (a : Reg) (b : SrcB)
  | pset (h : Hdr) (p : Pred) (src : PsetSrc)
  | shfl (h : Hdr) (mode : ShflMode) (d a : Reg) (b : SrcB)
  | vote (h : Hdr) (mode : VoteMode) (d : BitVec 8) (p : BitVec 8)
  | rduc (h : Hdr) (op : RedOp) (rm : Rm) (z : Bool) (d a : Reg)
  | scan (h : Hdr) (op : RedOp) (rm : Rm) (z excl : Bool) (d a : Reg)
  | mfs (h : Hdr) (hi : Bool) (d : Reg) (x : BitVec 8)
  | mts (h : Hdr) (hi : Bool) (a : Reg) (x : BitVec 8)
  | fadd (h : Hdr) (rm : Rm) (d a : Reg) (b : SrcB)
  | fsub (h : Hdr) (rm : Rm) (d a : Reg) (b : SrcB)
  | fmul (h : Hdr) (rm : Rm) (d a : Reg) (b : SrcB)
  | ffma (h : Hdr) (rm : Rm) (d a b c : Reg)
  | fdiv (h : Hdr) (rm : Rm) (d a : Reg) (b : SrcB)
  | frcp (h : Hdr) (rm : Rm) (d a : Reg)
  | fsqrt (h : Hdr) (rm : Rm) (d a : Reg)
  | frsq (h : Hdr) (rm : Rm) (d a : Reg)
  | frnd (h : Hdr) (rm : Rm) (d a : Reg)
  | fscl (h : Hdr) (rm : Rm) (d a : Reg) (b : SrcB)
  | fmin (h : Hdr) (d a : Reg) (b : SrcB)
  | fmax (h : Hdr) (d a : Reg) (b : SrcB)
  | fcmp (h : Hdr) (cond : FCond) (p : Pred) (a : Reg) (b : SrcB)
  | fcls (h : Hdr) (p : Pred) (a : Reg) (mask : BitVec 8)
  | fexp2 (h : Hdr) (d a : Reg)
  | flog2 (h : Hdr) (d a : Reg)
  | hxadd (h : Hdr) (rm : Rm) (bs : BSrc) (d a b : Reg)
  | hxmul (h : Hdr) (rm : Rm) (bs : BSrc) (d a b : Reg)
  | hxfma (h : Hdr) (rm : Rm) (bs : BSrc) (d a b c : Reg)
  | bxadd (h : Hdr) (rm : Rm) (bs : BSrc) (d a b : Reg)
  | bxmul (h : Hdr) (rm : Rm) (bs : BSrc) (d a b : Reg)
  | bxfma (h : Hdr) (rm : Rm) (bs : BSrc) (d a b c : Reg)
  | cvt (h : Hdr) (dt st : CvtTy) (rm : Rm) (sat ovfnan : Bool) (d a : Reg)
  | pack (h : Hdr) (ty : PackTy) (rm : Rm) (sat ovfnan hi : Bool) (d a b c : Reg)
  | unpk (h : Hdr) (ty : UnpkTy) (d a : Reg) (k : BitVec 8)
  | bra (h : Hdr) (bp : BitVec 2) (disp : BitVec 24)
  | jmp (h : Hdr) (bp : BitVec 2) (a : Reg)
  | jmpIndexed (h : Hdr) (bp : BitVec 2) (a b : Reg)
  | call (h : Hdr) (bp : BitVec 2) (link : Reg) (disp : BitVec 24)
  | callR (h : Hdr) (bp : BitVec 2) (link a : Reg)
  | ret (h : Hdr) (bp : BitVec 2) (link : Reg)
  | brk (h : Hdr) (code : BitVec 8)
  | rfli (h : Hdr) (src : IterSrc) (lens : LoopLens)
  | rfliOrd (h : Hdr) (src : IterSrc) (lens : LoopLens)
  | rfl (h : Hdr) (bp : BitVec 2)
  | rflOrd (h : Hdr) (bp : BitVec 2)
  | syng (h : Hdr)
  | ld (h : Hdr) (size : Size) (d a : Reg) (off : Option Reg) (disp : Disp)
  | st (h : Hdr) (size : Size) (d a : Reg) (off : Option Reg) (disp : Disp)
  | lds (h : Hdr) (size : Size) (d a : Reg) (off : Option Reg) (disp : Disp)
  | sts (h : Hdr) (size : Size) (d a : Reg) (off : Option Reg) (disp : Disp)
  | ldt (h : Hdr) (size : Size) (d a : Reg) (t : Tile) (imm : W32)
  | stt (h : Hdr) (size : Size) (d a : Reg) (t : Tile) (imm : W32)
  | atom (h : Hdr) (op : AtomOp) (z pub sub wide : Bool) (d a b : Reg) (disp : Disp)
  | atomf (h : Hdr) (op : AtomFOp) (pub sub : Bool) (d a b : Reg) (disp : Disp)
  | cas (h : Hdr) (pub sub wide : Bool) (d a b : Reg) (disp : Disp)
  | pref (h : Hdr) (l2 : Bool) (a : Reg) (off : Option Reg) (disp : Disp)
  | qpop (h : Hdr) (d : Reg) (q : QueueN) (tag : Option Reg)
  | qpush (h : Hdr) (fin : Bool) (a : Reg) (q : QueueN) (tag : Option Reg)
  | qsta (h : Hdr) (d : Reg) (q : QueueN)
  | spawn (h : Hdr) (a b : Reg)
  | spawnU (h : Hdr) (a b : Reg)
  | await (h : Hdr)
  | exit (h : Hdr)
  | exitS (h : Hdr) (a b : Reg)
  | exitJ (h : Hdr) (a b : Reg)
  | rgrow (h : Hdr) (d : Reg) (n : BitVec 8)
  | rshrk (h : Hdr) (n : BitVec 8)
  | yield (h : Hdr)
  | trap (h : Hdr) (code : BitVec 8) (info : Option Reg)
  | trapK (h : Hdr) (code : BitVec 8) (info : Option Reg)
  | tret (h : Hdr)
  | tretSkip (h : Hdr)
  | tmark (h : Hdr) (id : BitVec 8) (val : Option Reg)
  | ald (h : Hdr) (size : Size) (d : Reg) (hn : HandleN) (off : Option Reg) (disp : Disp)
  | ast (h : Hdr) (size : Size) (d : Reg) (hn : HandleN) (off : Option Reg) (disp : Disp)
  | aprf (h : Hdr) (l2 : Bool) (hn : HandleN) (off : Option Reg) (disp : Disp)
  | ahq (h : Hdr) (sel : AhqSel) (d : Reg) (hn : HandleN)
  | strm (h : Hdr) (size : Size) (q : QueueN) (hn : HandleN) (a b c : Reg)
  | gth (h : Hdr) (sx : Bool) (q : QueueN) (hn : HandleN) (a b c : Reg) (e : BitVec 9)
  | gthQ (h : Hdr) (sx : Bool) (q : QueueN) (hn : HandleN) (a : Reg) (qs : QueueN) (e : BitVec 9)
  | sct (h : Hdr) (comb : Comb) (hn : HandleN) (a : Reg) (qv qi : QueueN)
  | hprb (h : Hdr) (d : Reg) (q : QueueN) (hn : HandleN) (a b : Reg) (qk : QueueN) (bits : BitVec 6)
  | isct (h : Hdr) (d : Reg) (q : QueueN) (hn : HandleN) (a b c : Reg)
  | walk (h : Hdr) (q : QueueN) (hn : HandleN) (a b : Reg) (rows : BitVec 16) (depth : BitVec 4)
  | qput (h : Hdr) (fin : Bool) (q : QueueN) (a b : Reg)
  | qtake (h : Hdr) (pop : Bool) (d : Reg) (q : QueueN) (a : Reg)
  | qend (h : Hdr) (q : QueueN)
  | qendX (h : Hdr) (q : Option QueueN)
  | qclr (h : Hdr) (q : QueueN)
  | mlds (h : Hdr) (t : Tile)
  | mldsK1 (h : Hdr) (t : Tile)
  | mswp (h : Hdr)
  | mma (h : Hdr) (set : Bool) (bank : BankN) (t : Tile) (m : BitVec 8)
  | mmas (h : Hdr) (set : Bool) (bank : BankN) (t : Tile) (m : BitVec 8)
  | mbmp (h : Hdr) (set : Bool) (bank : BankN) (ta tb : Tile) (m : BitVec 8)
  | mhad (h : Hdr) (p : HadP) (t : Tile)
  | mprn (h : Hdr) (n : BitVec 4) (m : BitVec 2) (tr : Bool) (td ts : Tile)
  | acal (h : Hdr) (i32 : Bool) (bank : BankN) (n1 : BitVec 6)
  | acfr (h : Hdr) (bank : BankN) (n1 : BitVec 6)
  | acclm (h : Hdr) (pair : Bool) (bank : BankN) (first : BitVec 5) (count : BitVec 6)
  | acz (h : Hdr) (bank : BankN)
  | acrdVector (h : Hdr) (c : BitVec 2) (d : Fin 192) (bank : BankN)
  | acrdScalar (h : Hdr) (d : Fin 64) (bank : BankN) (row : BitVec 5) (col : BitVec 6)
  | acst (h : Hdr) (kind : DrainKind) (sat tr : Bool) (cnt : Option Reg) (rm : Rm) (t : Tile) (bank : BankN) (first : BitVec 5) (rows : BitVec 6) (cols : BitVec 7)
  | mstat (h : Hdr) (sel : MstatSel) (d : Reg)
  | mwait (h : Hdr)
  | cpl (h : Hdr) (aon dsp : Bool) (ext : Option Reg) (dest : TileRef) (a b : Reg)
  | cps (h : Hdr) (keep aon dsp : Bool) (src : TileRef) (a b : Reg)
  | cpf (h : Hdr) (dest : TileRef) (a b : Reg) (kindw : W32)
  | cpx (h : Hdr) (tr : Bool) (dest : TileRef) (src : Tile)
  | cpw (h : Hdr)
  | rini (h : Hdr) (r : Ring) (t : Tile) (count : BitVec 5)
  | awf (h : Hdr) (d : Option Reg) (r : Ring)
  | rlsRing (h : Hdr) (r : Ring)
  | rlsTile (h : Hdr) (t : Tile)
  | rsta (h : Hdr) (d : Reg) (r : Ring)
  | tsta (h : Hdr) (sel : BitVec 3) (d : Reg) (t : Tile)
  | tbindSp (h : Hdr) (t : Tile) (a : Reg) (cap : W32)
  | tbindRd (h : Hdr) (t : Tile) (r : Ring)
  | tbindWr (h : Hdr) (t : Tile) (r : Ring)
  | tbindSelf (h : Hdr) (t : Tile)
  | outgoingEdge (unit lane : Nat)
  | runAheadEnd (unit : Nat)
  | pageFaultService (unit : Nat) (undeliverable : List Nat)
  | coalescerRecordClose (core : Nat)
  | faultRingWrite (core : Nat)
  | hangReport (task : Nat)
  | waitCycleReport (unit : Nat)
  | hostLaunch (part asn proc : Nat) (record : W64)
  | distributorEmit (die part : Nat)
  | blockMove (level idx part : Nat)
  | stealMessage (die thief part : Nat)
  | stealReply (die donor part : Nat)
  | runDry (die part : Nat)
  | placement (core : Nat)
  | spillRestore (task : Nat)
  | childCompletion (task : Nat)
  | taskCompletion (task : Nat)
  | inheritanceSpill (task : Nat)
  | park (task : Nat)
  | parkResume (task : Nat)
  | rgrowGrant (core : Nat)
  | rgrowDenial (core : Nat)
  | refillGrant (unit : Nat)
  | agedEntry (unit : Nat)
  | breakpointStop (unit lane : Nat)
  | resume (unit lane : Nat)
  | step (unit lane : Nat)
  | sample (core : Nat)
  | copyCompletion (core op : Nat)
  | copyDataFault (core op : Nat)
  | copyPageFaultService (core op : Nat) (undeliverable : List Nat)
  | aonVersionWait (core op : Nat)
  | streamingOperationCompletion (unit slot : Nat)
  | accessStrandFault (unit : Nat)
  | matrixAcceptance (core : Nat)
  | matrixOperationCompletion (core op : Nat)
  | coreSramSplitWrite (core : Nat) (v : W32)
  | sramSplitChange (core : Nat)
  | residCtlWrite (part n : Nat) (v : W32)
  | prefetchFillDrop (slice : Nat)
  | load (core : Nat)
  | clear (core : Nat)
  | soft (core : Nat)
  | force (core : Nat)
  | swap (core : Nat)
  | fillCompletion (core : Nat)
  | spillCompletion (core : Nat)
  | reset (core : Nat)
  | matrixResetCompletion (core : Nat)
  | invalidatePage (part asn size : Nat) (va : W64)
  | invalidateAddressSpace (part asn : Nat)
  | invalidatePartition (part : Nat)
  | invalidateRemoteTarget (part pkg : Nat)
  | invalidateCompletion (part : Nat)
  | heartwoodFrozenClear (die : Nat)
  | registerWrite (r : KReg) (v : W64)
  | segmentClose (die : Nat)
  | segmentSubmit (die : Nat)
  | migrationCommand (asn size : Nat) (va : W64) (pfn : Nat)
  | processEnd (proc : Nat)
  | partitionMake (part : Nat) (clusters granules : List (Nat × Nat)) (arena : List (Nat × W64))
  | partitionTeardown (part : Nat)
  | checkpoint
  | restore
  | hostBar2Read (pa n : Nat)
  | hostBar2Write (pa : Nat) (data : List Byte)
  | read (port : Nat) (m : Flit)
  | readData (port : Nat) (m : Flit)
  | write (port : Nat) (m : Flit)
  | atomic (port : Nat) (m : Flit)
  | atomicResult (port : Nat) (m : Flit)
  | acknowledgement (port : Nat) (m : Flit)
  | lossNotice (port : Nat) (m : Flit)
  | checkpointData (port : Nat) (m : Flit)
  | idle (port : Nat)
  | idleFlitTimer (port : Nat)
  | flitCrcFailure (port : Nat)
  | portDown (port : Nat)
  | linkDownTimeout (core req : Nat)
  | powerOn (images : List (List Byte × List Byte)) (pkg : Nat)
  | packageReset (images : List (List Byte × List Byte)) (pkg : Nat)
  | memoryResponse (core req : Nat)
  | engineLineRelease (line : Nat)
  | accessPageFaultService (unit : Nat) (undeliverable : List Nat)
  | routeReturn (pkg : Nat)
  | powerLoss
  | powerOrTemperatureLimit (on : Bool)
  | segmentWriteCompletion (die : Nat)
  | migrationCompletion
  deriving DecidableEq, Repr

end Sys2Proof
end

