-- ==== Sys2Proof/WellFormed.lean ====
section
/-! DEFINITION. Which instructions an encoding can name. `Instr.wf` holds of exactly the instructions that the decoder
can answer: the checks of R83 up to WHY 0x06, and those of WHY 0x08 that no decoded form can break, have
passed; a wrong register class, a footprint or a limit is refused when the instruction issues. An event of the device is well formed
when its numbers lie in their spaces. -/

namespace Sys2Proof

/-- PRED 7 with PNEG 1 names no guard (R65). -/
def Hdr.wf (h : Hdr) : Bool := !(h.pred == 7#3 && h.pneg)

/-- RFLI, RFL and SYNG act on the whole mask: PRED is 7 and PNEG 0 (R164). -/
def Hdr.whole (h : Hdr) : Bool := h.pred == 7#3 && !h.pneg

/-- Source B of a floating-point instruction is a register or IMM32 (R179). -/
def SrcB.fp : SrcB → Bool
  | .imm8 _ => false
  | _ => true

/-- Source B of a 64-bit-only instruction marked BI is a register or the immediate in SC (R179, R80). -/
def SrcB.short : SrcB → Bool
  | .imm32 _ => false
  | _ => true

/-- A store's sizes (R216). -/
def Size.store : Size → Bool
  | .z8 | .z16 => false
  | _ => true

/-- RM is given with `.fadd` only, and Z with `.add`, `.min` and `.max` only (R194). -/
def RedOp.modOk (op : RedOp) (rm : Rm) (z : Bool) : Bool :=
  (rm == .rn || op == .fadd) && (!z || op == .add || op == .min || op == .max)

/-- The special registers of 64 bits (R74). -/
def wideSpecial (x : BitVec 8) : Bool := x == 0x0A#8 || x == 0x0C#8 || x == 0x0D#8

/-- `.hi` names a 64-bit special register (R235); a number that R74 leaves unassigned is refused by another check. -/
def hiOk (hi : Bool) (x : BitVec 8) : Bool := !hi || wideSpecial x || (0x0E#8).ult x

/-- The modifiers that each type of PACK admits (R203). -/
def PackTy.modOk (ty : PackTy) (sat ovfnan hi : Bool) : Bool :=
  match ty with
  | .f16 | .bf16 => !ovfnan && !hi
  | .e4m3 => !sat
  | .s8 => !sat && !ovfnan

/-- Source c of PACK is used by the 8-bit types; otherwise SC is zero (R203). -/
def PackTy.cOk (ty : PackTy) (c : Reg) : Bool :=
  match ty with
  | .f16 | .bf16 => c == .v 0
  | _ => true

/-- Well-formedness of an instruction: what its encoding can hold. -/
def Instr.wf : Instr → Bool
  | .pad32 => true
  | .nop h | .await h | .exit h | .yield h | .tret h | .tretSkip h | .mswp h | .mwait h | .cpw h => h.wf
  | .mov h .. | .movi h .. | .moviHi h .. | .mad h .. | .lea h .. | .abs h .. | .neg h .. | .sat h ..
  | .not h .. | .clz h .. | .popc h .. | .brev h .. | .bfx h .. | .bfi h .. | .bytx h ..
  | .sel h .. | .pset h .. | .vote h .. => h.wf
  | .add h .. | .sub h .. | .mul h .. | .mulh h .. | .min h .. | .max h ..
  | .and h .. | .or h .. | .xor h .. | .andn h .. | .shl h .. | .shr h .. | .sha h .. | .rot h ..
  | .cmp h .. => h.wf
  | .shfl h _ _ _ b => h.wf && b.short
  | .rduc h op rm z _ _ => h.wf && op.modOk rm z
  | .scan h op rm z _ _ _ => h.wf && op.modOk rm z
  | .mfs h hi _ x => h.wf && hiOk hi x
  | .mts h hi _ x => h.wf && hiOk hi x
  | .fadd h _ _ _ b | .fsub h _ _ _ b | .fmul h _ _ _ b | .fdiv h _ _ _ b | .fmin h _ _ b | .fmax h _ _ b
  | .fcmp h _ _ _ b => h.wf && b.fp
  | .ffma h .. | .frcp h .. | .fsqrt h .. | .frsq h .. | .frnd h .. | .fcls h .. | .fexp2 h ..
  | .flog2 h .. => h.wf
  | .fscl h _ _ _ b => h.wf && b.short
  | .hxadd h .. | .hxmul h .. | .hxfma h .. | .bxadd h .. | .bxmul h ..
  | .bxfma h .. => h.wf
  | .cvt h dt _ _ clamp ov _ _ => h.wf && (!ov || (dt == .e4m3 && !clamp))
  | .pack h ty _ clamp ov hi _ _ _ c => h.wf && ty.modOk clamp ov hi && ty.cOk c
  | .unpk h .. => h.wf
  | .bra h .. | .jmp h .. | .jmpIndexed h .. | .call h .. | .callR h .. | .ret h .. | .brk h .. => h.wf
  | .rfli h .. | .rfliOrd h .. => h.whole
  | .rfl h .. | .rflOrd h .. | .syng h => h.whole
  | .ld h .. | .lds h .. | .ldt h .. => h.wf
  | .st h sz _ _ _ _ | .sts h sz _ _ _ _ | .stt h sz _ _ _ _ => h.wf && sz.store
  | .atom h op z _ _ _ _ _ _ _ => h.wf && (!z || op == .min || op == .max)
  | .atomf h .. | .cas h .. | .pref h .. => h.wf
  | .qpop h .. | .qpush h .. | .qsta h .. => h.wf
  | .spawn h .. | .spawnU h .. | .exitS h .. | .exitJ h .. | .rgrow h .. | .rshrk h .. => h.wf
  | .trap h .. | .tmark h .. => h.wf
  | .trapK h code info => h.wf && !(code == 0#8 && info.isSome)
  | .ald h .. => h.wf
  | .ast h sz _ _ _ _ => h.wf && sz.store
  | .aprf h .. | .ahq h .. => h.wf
  | .strm h sz _ _ _ _ _ => h.wf && sz != .b128
  | .gth h sx _ _ _ _ _ e => h.wf && (!sx || e.ult 4#9)
  | .gthQ h sx _ _ _ _ e => h.wf && (!sx || e.ult 4#9)
  | .sct h .. | .hprb h .. | .isct h .. | .walk h .. => h.wf
  | .qput h .. | .qtake h .. | .qend h .. | .qendX h .. | .qclr h .. => h.wf
  | .mlds h .. | .mldsK1 h .. | .mma h .. | .mmas h .. | .mbmp h .. | .mhad h .. | .mprn h ..
  | .acal h .. | .acfr h .. | .acclm h .. | .acz h .. | .acrdVector h .. | .acrdScalar h ..
  | .acst h .. | .mstat h .. => h.wf
  | .cpl h .. => h.wf
  | .cps h keep _ _ src _ _ => h.wf && (!keep || match src with
    | .tile _ => true
    | .ring _ => false)
  | .rini h _ t c => h.wf && (c != 0#5 || t == 0#6)
  | .cpf h .. | .cpx h .. |  .awf h .. | .rlsRing h .. | .rlsTile h .. | .rsta h .. | .tsta h ..
  | .tbindSp h .. | .tbindRd h .. | .tbindWr h .. | .tbindSelf h .. => h.wf
  | .placement core | .coalescerRecordClose core | .faultRingWrite core | .rgrowGrant core | .rgrowDenial core
  | .sample core | .matrixAcceptance core | .coreSramSplitWrite core _ | .sramSplitChange core | .load core | .clear core
  | .soft core | .force core | .swap core | .fillCompletion core | .spillCompletion core | .reset core
  | .matrixResetCompletion core => decide (core < 256)
  | .copyCompletion core _ | .copyDataFault core _ | .copyPageFaultService core _ _ | .aonVersionWait core _
  | .matrixOperationCompletion core _ | .linkDownTimeout core _ | .memoryResponse core _ => decide (core < 256)
  | .distributorEmit die _ | .stealMessage die _ _ | .stealReply die _ _ | .runDry die _ | .segmentClose die
  | .segmentSubmit die | .segmentWriteCompletion die | .heartwoodFrozenClear die => decide (die < 4)
  | .residCtlWrite _ n _ => decide (n < 8)
  | .invalidatePage _ asn size _ => decide (asn < 1024) && decide (size < 3)
  | .invalidateAddressSpace _ asn => decide (asn < 1024)
  | .invalidateRemoteTarget _ pkg | .routeReturn pkg => decide (pkg < 4096)
  | .migrationCommand asn size _ _ => decide (asn < 1024) && decide (size < 3)
  | .read port _ | .readData port _ | .write port _ | .atomic port _ | .atomicResult port _ | .acknowledgement port _
  | .lossNotice port _ | .checkpointData port _ => decide (port < 16)
  | .idle port | .idleFlitTimer port | .flitCrcFailure port | .portDown port => decide (port < 16)
  | .outgoingEdge _ _ | .runAheadEnd _ | .pageFaultService _ _ | .hangReport _ | .waitCycleReport _ | .hostLaunch _ _ _ _
  | .blockMove _ _ _ | .spillRestore _ | .childCompletion _ | .taskCompletion _ | .inheritanceSpill _ | .park _
  | .parkResume _ | .refillGrant _ | .agedEntry _ | .breakpointStop _ _ | .resume _ _ | .step _ _
  | .streamingOperationCompletion _ _ | .accessStrandFault _ | .prefetchFillDrop _ | .invalidatePartition _
  | .invalidateCompletion _ | .registerWrite _ _ | .processEnd _ | .partitionMake _ _ _ _ | .partitionTeardown _
  | .checkpoint | .restore | .hostBar2Read _ _ | .hostBar2Write _ _ | .powerOn _ _ | .packageReset _ _
  | .engineLineRelease _ | .accessPageFaultService _ _ | .powerLoss | .powerOrTemperatureLimit _
  | .migrationCompletion => true

end Sys2Proof
end

