-- ==== Sys2Proof/Decode.lean ====
section
/-! DEFINITION. The decoder and the encoder (R60 to R84). Bytes are framed into a raw word of the fields of R64, R69 and
R70; one table, `row`, gives for each opcode the legal lengths, the fields in use, the register operands and the checks
of R83, and makes the instruction. The encoder fills the same fields from the instruction. -/

namespace Sys2Proof

/-- A decode fault of cause ILLEGAL_OP: WHY and BIT of R84. -/
structure DFault where
  why : Nat
  bit : Nat
  deriving DecidableEq, Repr

/-- An instruction word as its fields: the base word of R64 and, in `ext`, bits [127:64] (R69, R70). -/
structure Raw where
  len : BitVec 2
  stall : BitVec 4
  opc : BitVec 8
  pred : BitVec 3
  pneg : Bool
  dst : BitVec 8
  sa : BitVec 8
  sb : BitVec 8
  sc : BitVec 8
  bp : BitVec 2
  mod : BitVec 12
  ext : BitVec 64
  deriving DecidableEq, Repr

/-- IMM32 of the 96-bit form and XIMM of the 128-bit form, bits [95:64]. -/
def Raw.ximm (r : Raw) : W32 := r.ext.extractLsb' 0 32
/-- XAB, bits [103:98] (R70). -/
def Raw.xab (r : Raw) : BankN := r.ext.extractLsb' 34 6
/-- XH, bits [107:104] (R70). -/
def Raw.xh (r : Raw) : HandleN := r.ext.extractLsb' 40 4
/-- XQ, bits [111:109] (R70). -/
def Raw.xq (r : Raw) : QueueN := r.ext.extractLsb' 45 3
/-- XRG, bits [115:112] (R70). -/
def Raw.xrg (r : Raw) : Ring := r.ext.extractLsb' 48 4
/-- XTB, bits [121:116] (R70). -/
def Raw.xtb (r : Raw) : Tile := r.ext.extractLsb' 52 6
/-- XTA, bits [127:122] (R70). -/
def Raw.xta (r : Raw) : Tile := r.ext.extractLsb' 58 6

/-- One bit of MOD. -/
def Raw.m (r : Raw) (n : Nat) : Bool := r.mod.getLsbD n

/-- Bits [127:64] from the fields of R70; bits [108] and [97:96] are zero. -/
def extWord (xta xtb : Tile) (xrg : Ring) (xq : QueueN) (xh : HandleN) (xab : BankN) (ximm : W32) : BitVec 64 :=
  xta ++ xtb ++ xrg ++ xq ++ 0#1 ++ xh ++ xab ++ 0#2 ++ ximm

/-- Register code to register (R71). -/
def Reg.ofCode (c : BitVec 8) : Reg :=
  if h : c.toNat < 192 then .v ⟨c.toNat, h⟩ else .s ⟨c.toNat - 192, by have := c.isLt; omega⟩

/-- Register to register code (R71). -/
def Reg.code : Reg → BitVec 8
  | .v n => BitVec.ofNat 8 n.val
  | .s n => BitVec.ofNat 8 (192 + n.val)

/-- Scalar code to its number; a vector code gives an arbitrary one and is refused before use. -/
def scalarOf (c : BitVec 8) : Fin 64 := ⟨(c.toNat - 192) % 64, Nat.mod_lt _ (by decide)⟩

/-- The code of a scalar register. -/
def scalarCode (n : Fin 64) : BitVec 8 := BitVec.ofNat 8 (192 + n.val)

/-- A check of R83 that failed: its WHY and BIT, and the register code it is made on where it is a class check on one
(R83 makes none on a code that the unit lacks). -/
structure Chk where
  why : Nat
  bit : Nat
  code : Option (BitVec 8) := none
  deriving DecidableEq, Repr

/-- The place of a WHY in the order of R83. -/
def stepOf (why : Nat) : Nat :=
  match why with
  | 0x04 => 0
  | 0x05 => 1
  | 0x07 => 2
  | 0x06 => 3
  | 0x08 => 4
  | 0x0A => 5
  | _ => 6

/-- The first of two failed checks under R83: the earlier step, then the lower bit, then the one stated first. -/
def Chk.first (a b : Chk) : Chk :=
  if stepOf b.why < stepOf a.why || (stepOf b.why == stepOf a.why && decide (b.bit < a.bit)) then b else a

/-- The check that R83 reports, of a list of failed checks (DEDUCED, assumption log 14). -/
def firstChk : List Chk → Option Chk
  | [] => none
  | c :: cs => some (cs.foldl Chk.first c)

/-- One failed check when the condition holds. -/
def chk (bad : Bool) (why bit : Nat) : List Chk := if bad then [⟨why, bit, none⟩] else []

/-- One failed class check on a register code when the condition holds. -/
def chkCode (bad : Bool) (why bit : Nat) (code : BitVec 8) : List Chk := if bad then [⟨why, bit, some code⟩] else []

/-- The class that an entry asks of a register operand. -/
inductive Cls where
  | any | vec | sca
  deriving DecidableEq, Repr

/-- A register operand: the lowest bit of its field, its code, the class asked for, the registers it names when it is a
vector code with their alignment, the alignment of a scalar code, and whether the instruction writes it (R71, R72). -/
structure Opnd where
  lo : Nat
  code : BitVec 8
  cls : Cls := .any
  n : Nat := 1
  al : Nat := 1
  als : Nat := 1
  dst : Bool := false
  deriving DecidableEq, Repr

/-- Lowest bit of DST. -/
def bD : Nat := 18
/-- Lowest bit of SA. -/
def bA : Nat := 26
/-- Lowest bit of SB. -/
def bB : Nat := 34
/-- Lowest bit of SC. -/
def bC : Nat := 42

/-- A field that may go unused (R67). -/
inductive Fld where
  | dst | sa | sb | sc | ximm | res96 | xab | xh | res108 | xq | xrg | xtb | xta
  deriving DecidableEq, Repr

/-- Whether a field is not zero. -/
def Raw.nz (r : Raw) : Fld → Bool
  | .dst => r.dst != 0#8
  | .sa => r.sa != 0#8
  | .sb => r.sb != 0#8
  | .sc => r.sc != 0#8
  | .ximm => r.ximm != 0#32
  | .res96 => r.ext.extractLsb' 32 2 != 0#2
  | .xab => r.xab != 0#6
  | .xh => r.xh != 0#4
  | .res108 => r.ext.extractLsb' 44 1 != 0#1
  | .xq => r.xq != 0#3
  | .xrg => r.xrg != 0#4
  | .xtb => r.xtb != 0#6
  | .xta => r.xta != 0#6

/-- Lowest bit of a field (R64, R70) (DEDUCED, assumption log 13). -/
def Fld.lo : Fld → Nat
  | .dst => 18
  | .sa => 26
  | .sb => 34
  | .sc => 42
  | .ximm => 64
  | .res96 => 96
  | .xab => 98
  | .xh => 104
  | .res108 => 108
  | .xq => 109
  | .xrg => 112
  | .xtb => 116
  | .xta => 122

/-- Every field of R64 and R70 that an entry may leave unused, in bit order. -/
def allFlds : List Fld := [.dst, .sa, .sb, .sc, .ximm, .res96, .xab, .xh, .res108, .xq, .xrg, .xtb, .xta]

/-- The unused fields of a word that are not zero (R67, WHY 0x06). -/
def unusedChks (r : Raw) (used : List Fld) : List Chk :=
  (allFlds.filter fun f => !used.contains f && r.nz f).map fun f => ⟨0x06, f.lo, none⟩

/-- The set bits of MOD that a mask does not assign (R68, WHY 0x07). -/
def modChks (r : Raw) (mask : BitVec 12) : List Chk :=
  ((List.range 12).filter fun n => !mask.getLsbD n && r.m n).map fun n => ⟨0x07, 52 + n, none⟩

/-- What the table says of one opcode. -/
structure Row where
  l64 : Bool
  l96 : Bool
  l128 : Bool
  br : Bool := false
  whole : Bool := false
  mods : Raw → BitVec 12
  used : Raw → List Fld
  regs : Raw → List Opnd
  more : Raw → List Chk := fun _ => []
  nine : Bool := true
  make : Raw → Option Instr

/-- Whether the length is one that R80 gives the opcode. -/
def Row.lenOk (w : Row) (len : BitVec 2) : Bool :=
  if len == 0#2 then w.l64 else if len == 1#2 then w.l96 else w.l128 && len == 2#2

/-- Every failed check of R83 that the word alone decides, past its length: steps 4 to 9, without the class and
footprint checks on registers. -/
def Row.checks (w : Row) (r : Raw) : List Chk :=
  chk (r.pred == 7#3 && r.pneg) 0x04 17
  ++ chk (!w.br && r.bp != 0#2) 0x05 50
  ++ modChks r (w.mods r)
  ++ chk (w.whole && r.pred != 7#3) 0x06 14
  ++ unusedChks r (if r.len == 1#2 then Fld.ximm :: w.used r else w.used r)
  ++ w.more r

/-! ### Field readers -/

/-- The header of an instruction. -/
def Raw.hdr (r : Raw) : Hdr := { stall := r.stall, pred := r.pred, pneg := r.pneg }
/-- DST as a register. -/
def Raw.d (r : Raw) : Reg := Reg.ofCode r.dst
/-- SA as a register. -/
def Raw.a (r : Raw) : Reg := Reg.ofCode r.sa
/-- SB as a register. -/
def Raw.b (r : Raw) : Reg := Reg.ofCode r.sb
/-- SC as a register. -/
def Raw.c (r : Raw) : Reg := Reg.ofCode r.sc

/-- Source B of an instruction marked BI (R179). -/
def Raw.srcB (r : Raw) : SrcB :=
  if r.len == 1#2 then .imm32 r.ximm else if r.m 11 then .imm8 r.sc else .reg r.b

/-- Source B of a two-source floating-point instruction (R179). -/
def Raw.srcF (r : Raw) : SrcB := if r.len == 1#2 then .imm32 r.ximm else .reg r.b

/-- The displacement of a memory access (R215). -/
def Raw.disp (r : Raw) : Disp := if r.len == 1#2 then .d32 r.ximm else .d8 r.sc

/-- The offset register of a memory access, present under OFS (R215). -/
def Raw.ofsB (r : Raw) : Option Reg := if r.m 3 then some r.b else none
/-- The offset register of ALD, AST and APRF, in SA under OFS (R300). -/
def Raw.ofsA (r : Raw) : Option Reg := if r.m 3 then some r.a else none

/-- The displacement D of BRA and CALL, bits [49:26] (R205). -/
def Raw.disp24 (r : Raw) : BitVec 24 := r.sc ++ r.sb ++ r.sa

/-- A tile, or a ring in its place under RNG (R270). -/
def Raw.dest (r : Raw) : TileRef := if r.m 1 then .ring r.xrg else .tile r.xta

/-- RM in two bits of MOD (R93). -/
def rmOf (b : BitVec 2) : Rm := if b == 0#2 then .rn else if b == 1#2 then .rz else if b == 2#2 then .ru else .rd
/-- The code of RM (R93). -/
def Rm.code : Rm → BitVec 2
  | .rn => 0#2
  | .rz => 1#2
  | .ru => 2#2
  | .rd => 3#2

/-- COND of CMP (R190). -/
def condOf (b : BitVec 3) : Option Cond :=
  match b.toNat with
  | 0 => some .eq
  | 1 => some .ne
  | 2 => some .lt
  | 3 => some .le
  | 4 => some .gt
  | 5 => some .ge
  | _ => none
/-- The code of COND (R190). -/
def Cond.code : Cond → BitVec 3
  | .eq => 0#3
  | .ne => 1#3
  | .lt => 2#3
  | .le => 3#3
  | .gt => 4#3
  | .ge => 5#3

/-- COND of FCMP (R198). -/
def fcondOf (b : BitVec 3) : FCond :=
  match b.toNat with
  | 0 => .eq
  | 1 => .ne
  | 2 => .lt
  | 3 => .le
  | 4 => .gt
  | 5 => .ge
  | 6 => .num
  | _ => .nan
/-- The code of COND in FCMP (R198). -/
def FCond.code : FCond → BitVec 3
  | .eq => 0#3
  | .ne => 1#3
  | .lt => 2#3
  | .le => 3#3
  | .gt => 4#3
  | .ge => 5#3
  | .num => 6#3
  | .nan => 7#3

/-- BSRC (R201). -/
def bsrcOf (b : BitVec 3) : Option BSrc :=
  match b.toNat with
  | 0 => some .none
  | 1 => some .bswap
  | 2 => some .blo
  | 3 => some .bhi
  | 4 => some .bneg
  | _ => none
/-- The code of BSRC (R201). -/
def BSrc.code : BSrc → BitVec 3
  | .none => 0#3
  | .bswap => 1#3
  | .blo => 2#3
  | .bhi => 3#3
  | .bneg => 4#3

/-- Type code of CVT (R202). -/
def cvtTyOf (b : BitVec 4) : Option CvtTy :=
  match b.toNat with
  | 0 => some .f32
  | 1 => some .f16
  | 2 => some .bf16
  | 3 => some .e4m3
  | 4 => some .s32
  | 5 => some .s8
  | 6 => some .s4
  | 7 => some .z32
  | 8 => some .z8
  | _ => none
/-- The code of a CVT type (R202). -/
def CvtTy.code : CvtTy → BitVec 4
  | .f32 => 0#4
  | .f16 => 1#4
  | .bf16 => 2#4
  | .e4m3 => 3#4
  | .s32 => 4#4
  | .s8 => 5#4
  | .s4 => 6#4
  | .z32 => 7#4
  | .z8 => 8#4

/-- TYPE of PACK (R203). -/
def packTyOf (b : BitVec 2) : PackTy :=
  if b == 0#2 then .f16 else if b == 1#2 then .bf16 else if b == 2#2 then .e4m3 else .s8
/-- The code of TYPE in PACK (R203). -/
def PackTy.code : PackTy → BitVec 2
  | .f16 => 0#2
  | .bf16 => 1#2
  | .e4m3 => 2#2
  | .s8 => 3#2

/-- TYPE of UNPK (R204). -/
def unpkTyOf (b : BitVec 3) : Option UnpkTy :=
  match b.toNat with
  | 0 => some .f16
  | 1 => some .bf16
  | 2 => some .e4m3
  | 3 => some .s8
  | 4 => some .z8
  | 5 => some .s4
  | _ => none
/-- The code of TYPE in UNPK (R204). -/
def UnpkTy.code : UnpkTy → BitVec 3
  | .f16 => 0#3
  | .bf16 => 1#3
  | .e4m3 => 2#3
  | .s8 => 3#3
  | .z8 => 4#3
  | .s4 => 5#3

/-- SIZE of a load (R216). -/
def sizeOf3 (b : BitVec 3) : Option Size :=
  match b.toNat with
  | 0 => some .b32
  | 1 => some .s8
  | 2 => some .z8
  | 3 => some .s16
  | 4 => some .z16
  | 5 => some .b64
  | 6 => some .b128
  | _ => none
/-- The code of SIZE (R216). -/
def Size.code : Size → BitVec 3
  | .b32 => 0#3
  | .s8 => 1#3
  | .z8 => 2#3
  | .s16 => 3#3
  | .z16 => 4#3
  | .b64 => 5#3
  | .b128 => 6#3

/-- The bytes of an access (R216). -/
def Size.bytes : Size → Nat
  | .b32 => 4
  | .s8 | .z8 => 1
  | .s16 | .z16 => 2
  | .b64 => 8
  | .b128 => 16

/-- OP of RDUC and SCAN (R194). -/
def redOf (b : BitVec 4) : Option RedOp :=
  match b.toNat with
  | 0 => some .add
  | 1 => some .min
  | 2 => some .max
  | 3 => some .and
  | 4 => some .or
  | 5 => some .xor
  | 8 => some .fadd
  | 9 => some .fmin
  | 10 => some .fmax
  | _ => none
/-- The code of OP in RDUC and SCAN (R194). -/
def RedOp.code : RedOp → BitVec 4
  | .add => 0#4
  | .min => 1#4
  | .max => 2#4
  | .and => 3#4
  | .or => 4#4
  | .xor => 5#4
  | .fadd => 8#4
  | .fmin => 9#4
  | .fmax => 10#4

/-- OP of ATOM (R228). -/
def atomOpOf (b : BitVec 3) : Option AtomOp :=
  match b.toNat with
  | 0 => some .add
  | 1 => some .min
  | 2 => some .max
  | 3 => some .and
  | 4 => some .or
  | 5 => some .xor
  | 6 => some .xchg
  | _ => none
/-- The code of OP in ATOM (R228). -/
def AtomOp.code : AtomOp → BitVec 3
  | .add => 0#3
  | .min => 1#3
  | .max => 2#3
  | .and => 3#3
  | .or => 4#3
  | .xor => 5#3
  | .xchg => 6#3

/-- OP of ATOMF (R228). -/
def atomFOpOf (b : BitVec 3) : Option AtomFOp :=
  match b.toNat with
  | 0 => some .fadd
  | 1 => some .fmin
  | 2 => some .fmax
  | _ => none
/-- The code of OP in ATOMF (R228). -/
def AtomFOp.code : AtomFOp → BitVec 3
  | .fadd => 0#3
  | .fmin => 1#3
  | .fmax => 2#3

/-- Mode of SHFL (R192). -/
def shflOf (b : BitVec 2) : ShflMode :=
  if b == 0#2 then .idx else if b == 1#2 then .up else if b == 2#2 then .down else .xor
/-- The code of a mode of SHFL (R192). -/
def ShflMode.code : ShflMode → BitVec 2
  | .idx => 0#2
  | .up => 1#2
  | .down => 2#2
  | .xor => 3#2

/-- Mode of VOTE (R193). -/
def voteOf (b : BitVec 2) : VoteMode :=
  if b == 0#2 then .ballot else if b == 1#2 then .any else if b == 2#2 then .all else .eq
/-- The code of a mode of VOTE (R193). -/
def VoteMode.code : VoteMode → BitVec 2
  | .ballot => 0#2
  | .any => 1#2
  | .all => 2#2
  | .eq => 3#2

/-- SEL of AHQ (R303). -/
def ahqOf (b : BitVec 2) : Option AhqSel :=
  if b == 0#2 then some .lim else if b == 1#2 then some .base else if b == 2#2 then some .ctl else none
/-- The code of SEL in AHQ (R303). -/
def AhqSel.code : AhqSel → BitVec 2
  | .lim => 0#2
  | .base => 1#2
  | .ctl => 2#2

/-- COMB of SCT (R312). -/
def combOf (b : BitVec 2) : Option Comb :=
  if b == 0#2 then some .st else if b == 1#2 then some .fadd else if b == 2#2 then some .iadd else none
/-- The code of COMB (R312). -/
def Comb.code : Comb → BitVec 2
  | .st => 0#2
  | .fadd => 1#2
  | .iadd => 2#2

/-- P of MHAD (R362). -/
def hadOf (b : BitVec 2) : Option HadP :=
  if b == 0#2 then some .p16 else if b == 1#2 then some .p32 else if b == 2#2 then some .p64 else none
/-- The code of P in MHAD (R362). -/
def HadP.code : HadP → BitVec 2
  | .p16 => 0#2
  | .p32 => 1#2
  | .p64 => 2#2

/-- KIND of ACST (R370). -/
def drainOf (b : BitVec 4) : Option DrainKind :=
  match b.toNat with
  | 1 => some .bf16
  | 2 => some .fp16
  | 3 => some .fp32
  | 4 => some .e4m3
  | 5 => some .int8
  | 7 => some .int32
  | _ => none
/-- The code of KIND in ACST (R370). -/
def DrainKind.code : DrainKind → BitVec 4
  | .bf16 => 1#4
  | .fp16 => 2#4
  | .fp32 => 3#4
  | .e4m3 => 4#4
  | .int8 => 5#4
  | .int32 => 7#4

/-- Operation of PSET on two predicates (R191). -/
def psetOf (b : BitVec 3) (r : Raw) : Option PsetSrc :=
  match b.toNat with
  | 0 => some (.bin .and (r.sa.extractLsb' 0 3) (r.sb.extractLsb' 0 3))
  | 1 => some (.bin .or (r.sa.extractLsb' 0 3) (r.sb.extractLsb' 0 3))
  | 2 => some (.bin .xor (r.sa.extractLsb' 0 3) (r.sb.extractLsb' 0 3))
  | 3 => some (.bin .andn (r.sa.extractLsb' 0 3) (r.sb.extractLsb' 0 3))
  | 4 => some (.mask r.a)
  | _ => none
/-- The code of an operation of PSET (R191). -/
def PsetOp.code : PsetOp → BitVec 3
  | .and => 0#3
  | .or => 1#3
  | .xor => 2#3
  | .andn => 3#3

/-! ### The registers of a word -/

/-- DST written, of any class. -/
def opD (r : Raw) : Opnd := { lo := bD, code := r.dst, dst := true }
/-- DST written, a scalar register. -/
def opDs (r : Raw) : Opnd := { lo := bD, code := r.dst, cls := .sca, dst := true }
/-- DST written, a vector register. -/
def opDv (r : Raw) : Opnd := { lo := bD, code := r.dst, cls := .vec, dst := true }
/-- SA read, of any class. -/
def opA (r : Raw) : Opnd := { lo := bA, code := r.sa }
/-- SA read, a scalar register. -/
def opAs (r : Raw) : Opnd := { lo := bA, code := r.sa, cls := .sca }
/-- SB read, of any class. -/
def opB (r : Raw) : Opnd := { lo := bB, code := r.sb }
/-- SB read, a scalar register. -/
def opBs (r : Raw) : Opnd := { lo := bB, code := r.sb, cls := .sca }
/-- SC read, of any class. -/
def opC (r : Raw) : Opnd := { lo := bC, code := r.sc }
/-- SC read, a scalar register. -/
def opCs (r : Raw) : Opnd := { lo := bC, code := r.sc, cls := .sca }

/-- Source B of an instruction marked BI, when it is a register (R179). -/
def opBI (r : Raw) : List Opnd := if r.len == 1#2 || r.m 11 then [] else [opB r]
/-- Source B of a floating-point instruction, when it is a register (R179). -/
def opBF (r : Raw) : List Opnd := if r.len == 1#2 then [] else [opB r]

/-- How many vector registers an access of this size names (R216). -/
def vecCount (sz : BitVec 3) : Nat := if sz == 5#3 then 2 else if sz == 6#3 then 4 else 1

/-- The data register of an access (R216). -/
def opData (r : Raw) (dst : Bool) : Opnd :=
  let n := vecCount (r.mod.extractLsb' 0 3)
  { lo := bD, code := r.dst, n := n, al := n, als := if n == 4 then 2 else 1, dst := dst }

/-- Whether the operation that a word names is a vector one: some register operand is a vector code (R72). -/
def vecOp (os : List Opnd) : Bool := os.any fun o => o.code.ult 0xC0#8

/-! ### Row builders -/

/-- The fields that source B of a BI instruction uses (R179). -/
def usedBI (r : Raw) : List Fld := if r.len == 1#2 then [] else if r.m 11 then [.sc] else [.sb]

/-- A BI in the 96-bit form (R179). -/
def biLong (r : Raw) : List Chk := chk (r.len == 1#2 && r.m 11) 0x07 63

/-- An integer or logic instruction marked BI: `d, a, b` at both lengths (R181). -/
def rowBI (mask : BitVec 12) (mk : Raw → Option Instr) : Row :=
  { l64 := true, l96 := true, l128 := false, mods := fun _ => mask ||| 0x800#12,
    used := fun r => .dst :: .sa :: usedBI r, regs := fun r => opD r :: opA r :: opBI r, more := biLong, make := mk }

/-- A 64-bit instruction `d, a`. -/
def rowDA (mask : BitVec 12) (mk : Raw → Option Instr) : Row :=
  { l64 := true, l96 := false, l128 := false, mods := fun _ => mask, used := fun _ => [.dst, .sa],
    regs := fun r => [opD r, opA r], make := mk }

/-- A 64-bit instruction `d, a, b`. -/
def rowDAB (mask : BitVec 12) (more : Raw → List Chk) (mk : Raw → Option Instr) : Row :=
  { l64 := true, l96 := false, l128 := false, mods := fun _ => mask, used := fun _ => [.dst, .sa, .sb],
    regs := fun r => [opD r, opA r, opB r], more := more, make := mk }

/-- A 64-bit instruction `d, a, b, c`. -/
def rowDABC (mask : BitVec 12) (more : Raw → List Chk) (mk : Raw → Option Instr) : Row :=
  { l64 := true, l96 := false, l128 := false, mods := fun _ => mask, used := fun _ => [.dst, .sa, .sb, .sc],
    regs := fun r => [opD r, opA r, opB r, opC r], more := more, make := mk }

/-- A two-source floating-point instruction at both lengths (R179, R195). -/
def rowF2 (mask : BitVec 12) (mk : Raw → Option Instr) : Row :=
  { l64 := true, l96 := true, l128 := false, mods := fun _ => mask,
    used := fun r => if r.len == 1#2 then [.dst, .sa] else [.dst, .sa, .sb],
    regs := fun r => opD r :: opA r :: opBF r, make := mk }

/-- A 64-bit instruction with no operand. -/
def row0 (mask : BitVec 12) (mk : Raw → Option Instr) : Row :=
  { l64 := true, l96 := false, l128 := false, mods := fun _ => mask, used := fun _ => [], regs := fun _ => [], make := mk }

/-- BSRC values 5 to 7 (R201). -/
def badBsrc (r : Raw) : List Chk := chk (bsrcOf (r.mod.extractLsb' 2 3)).isNone 0x07 54

/-- A packed instruction `d, a, b` (R201). -/
def rowP2 (mk : Hdr → Rm → BSrc → Reg → Reg → Reg → Instr) : Row :=
  rowDAB 0x01F#12 badBsrc fun r =>
    (bsrcOf (r.mod.extractLsb' 2 3)).map fun bs => mk r.hdr (rmOf (r.mod.extractLsb' 0 2)) bs r.d r.a r.b

/-- A packed instruction `d, a, b, c` (R201). -/
def rowP3 (mk : Hdr → Rm → BSrc → Reg → Reg → Reg → Reg → Instr) : Row :=
  rowDABC 0x01F#12 badBsrc fun r =>
    (bsrcOf (r.mod.extractLsb' 2 3)).map fun bs => mk r.hdr (rmOf (r.mod.extractLsb' 0 2)) bs r.d r.a r.b r.c

/-- A one-source floating-point instruction with RM (R195). -/
def rowF1 (mk : Hdr → Rm → Reg → Reg → Instr) : Row :=
  rowDA 0x003#12 fun r => some (mk r.hdr (rmOf (r.mod.extractLsb' 0 2)) r.d r.a)

/-- OP values that R194 does not assign, and RM and Z out of place. -/
def badRed (r : Raw) : List Chk :=
  chk (redOf (r.mod.extractLsb' 0 4)).isNone 0x07 52
  ++ chk (r.m 4 && (3#4).ule (r.mod.extractLsb' 0 4)) 0x07 56
  ++ chk (r.mod.extractLsb' 5 2 != 0#2 && r.mod.extractLsb' 0 4 != 8#4) 0x07 57

/-- A load or a store, global or scratchpad (R215, R218, R221). -/
def rowMem (store glob : Bool) (mk : Hdr → Size → Reg → Reg → Option Reg → Disp → Instr) : Row :=
  { l64 := true, l96 := true, l128 := false, mods := fun _ => 0x00F#12,
    used := fun r => [.dst, .sa] ++ (if r.m 3 then [.sb] else []) ++ (if r.len == 1#2 then [] else [.sc]),
    regs := fun r => opData r (!store) :: (if glob then opAs r else opA r) :: (if r.m 3 then [opB r] else []),
    more := fun r => chk (match sizeOf3 (r.mod.extractLsb' 0 3) with
      | some sz => store && !sz.store
      | none => true) 0x07 52,
    make := fun r => (sizeOf3 (r.mod.extractLsb' 0 3)).map fun sz => mk r.hdr sz r.d r.a r.ofsB r.disp }

/-- LDT and STT (R223). -/
def rowTile (store : Bool) (mk : Hdr → Size → Reg → Reg → Tile → W32 → Instr) : Row :=
  { l64 := false, l96 := false, l128 := true, mods := fun _ => 0x007#12,
    used := fun _ => [.dst, .sa, .xta, .ximm], regs := fun r => [opData r (!store), opA r],
    more := fun r => chk (match sizeOf3 (r.mod.extractLsb' 0 3) with
      | some sz => store && !sz.store
      | none => true) 0x07 52,
    make := fun r => (sizeOf3 (r.mod.extractLsb' 0 3)).map fun sz => mk r.hdr sz r.d r.a r.xta r.ximm }

/-- An atomic (R227). `ops` tells the OP values that the entry assigns. -/
def rowAtom (mask : BitVec 12) (wideOk : Bool) (opOk : BitVec 3 → Bool) (mk : Raw → Option Instr) : Row :=
  { l64 := true, l96 := true, l128 := false, mods := fun _ => mask,
    used := fun r => if r.len == 1#2 then [.dst, .sa, .sb] else [.dst, .sa, .sb, .sc],
    regs := fun r =>
      let k := if r.mod.extractLsb' 0 3 == 5#3 then 2 else 1
      [{ lo := bD, code := r.dst, n := k, al := k, dst := true }, { lo := bA, code := r.sa, n := 2, al := 2 },
        { lo := bB, code := r.sb, n := k, al := k }],
    more := fun r =>
      chk (r.mod.extractLsb' 0 3 != 0#3 && !(wideOk && r.mod.extractLsb' 0 3 == 5#3)) 0x07 52
      ++ chk (!opOk (r.mod.extractLsb' 4 3)) 0x07 56
      ++ chk (r.m 7 && r.mod.extractLsb' 4 3 != 1#3 && r.mod.extractLsb' 4 3 != 2#3) 0x07 59,
    make := mk }

/-- An instruction on a queue in SC[2:0] with SC[7:3] zero, whose breach is `why` (R231, R304). -/
def badSc3 (why : Nat) (r : Raw) : List Chk := chk (r.sc.extractLsb' 3 5 != 0#5) why bC

/-- The queue in SC[2:0]. -/
def Raw.scq (r : Raw) : QueueN := r.sc.extractLsb' 0 3
/-- The ring in SC[3:0]. -/
def Raw.scr (r : Raw) : Ring := r.sc.extractLsb' 0 4
/-- The tile or the bank in SC[5:0]. -/
def Raw.sc6 (r : Raw) : BitVec 6 := r.sc.extractLsb' 0 6
/-- The second queue, XIMM[14:12] (R309). -/
def Raw.xq2 (r : Raw) : QueueN := r.ximm.extractLsb' 12 3

/-- SC[7:4] set in an instruction on a ring. -/
def badSc4 (r : Raw) : List Chk := chk (r.sc.extractLsb' 4 4 != 0#4) 0x08 bC
/-- SC[7:6] set in an instruction on a tile or a bank. -/
def badSc6 (r : Raw) : List Chk := chk (r.sc.extractLsb' 6 2 != 0#2) 0x08 bC

/-- A queue instruction of 64 bits (R231). -/
def rowQ (mask : BitVec 12) (used : Raw → List Fld) (regs : Raw → List Opnd) (why : Nat) (mk : Raw → Option Instr) : Row :=
  { l64 := true, l96 := false, l128 := false, mods := fun _ => mask, used := fun r => .sc :: used r, regs := regs,
    more := badSc3 why, make := fun r => if r.sc.extractLsb' 3 5 == 0#5 then mk r else none }

/-- A streaming instruction of 128 bits (R309). -/
def rowS (mask : BitVec 12) (used : Raw → List Fld) (regs : Raw → List Opnd) (xmask : Raw → W32)
    (more : Raw → List Chk) (mk : Raw → Option Instr) : Row :=
  { l64 := false, l96 := false, l128 := true, mods := fun _ => mask, used := fun r => .xq :: .xh :: .ximm :: used r,
    regs := regs, more := fun r => chk (r.ximm &&& ~~~(xmask r) != 0#32) 0x06 64 ++ more r, make := mk }

/-- A matrix instruction of 128 bits (R356). -/
def rowM (mask : BitVec 12) (used : List Fld) (regs : Raw → List Opnd) (more : Raw → List Chk) (mk : Raw → Option Instr) :
    Row :=
  { l64 := false, l96 := false, l128 := true, mods := fun _ => mask, used := fun _ => used, regs := regs, more := more,
    make := mk }

/-- A pass (R356): the mask register in SB is checked against the issuing unit when the instruction issues. -/
def rowPass (two : Bool) (mk : Raw → Option Instr) : Row :=
  rowM 0x001#12 (if two then [.sb, .xta, .xtb, .xab] else [.sb, .xta, .xab]) (fun _ => []) (fun _ => []) mk

/-- A bank instruction of 64 bits (R356). -/
def rowBank (mask : BitVec 12) (more : Raw → List Chk) (mk : Raw → Option Instr) : Row :=
  { l64 := true, l96 := false, l128 := false, mods := fun _ => mask, used := fun _ => [.sc], regs := fun _ => [],
    more := fun r => badSc6 r ++ more r, make := fun r => if r.sc.extractLsb' 6 2 == 0#2 then mk r else none }

/-- A copy instruction (R270). -/
def rowCopy (mask : Raw → BitVec 12) (used : Raw → List Fld) (regs : Raw → List Opnd) (more : Raw → List Chk)
    (mk : Raw → Option Instr) : Row :=
  { l64 := false, l96 := false, l128 := true, mods := mask,
    used := fun r => (if r.m 1 then [Fld.xrg] else [Fld.xta]) ++ used r, regs := regs, more := more, make := mk }

/-! ### The rows, sixteen opcodes at a time (R79, R80) -/

/-- Opcodes 0x00 to 0x0F. -/
def rows0 : Nat → Option Row
  | 0x0 => some (row0 0#12 fun r => some (.nop r.hdr))
  | 0x2 => some (rowDA 0#12 fun r => some (.mov r.hdr r.d r.a))
  | 0x3 => some
      { l64 := false, l96 := true, l128 := false, mods := fun _ => 0x003#12, used := fun _ => [.dst],
        regs := fun r => [opD r],
        more := fun r => chk (r.m 1 && r.m 0) 0x07 53 ++ chkCode (r.m 1 && r.dst.ult 0xC0#8) 0x07 53 r.dst,
        make := fun r => some (if r.m 1 then .moviHi r.hdr r.d r.ximm else .movi r.hdr (r.m 0) r.d r.ximm) }
  | 0x4 => some (rowBI 0x003#12 fun r => some (.add r.hdr (r.m 0) (r.m 1) r.d r.a r.srcB))
  | 0x5 => some (rowBI 0x003#12 fun r => some (.sub r.hdr (r.m 0) (r.m 1) r.d r.a r.srcB))
  | 0x6 => some (rowBI 0x003#12 fun r => some (.mul r.hdr (r.m 0) (r.m 1) r.d r.a r.srcB))
  | 0x7 => some (rowBI 0x001#12 fun r => some (.mulh r.hdr (r.m 0) r.d r.a r.srcB))
  | 0x8 => some (rowDABC 0x003#12 (fun _ => []) fun r => some (.mad r.hdr (r.m 0) (r.m 1) r.d r.a r.b r.c))
  | 0x9 => some
      { l64 := true, l96 := false, l128 := false, mods := fun _ => 0#12, used := fun _ => [.dst, .sa, .sb, .sc],
        regs := fun r => [opD r, opA r, opB r],
        more := fun r => chk (decide ((if vecOp [opD r, opA r, opB r] then 31 else 63) < r.sc.toNat)) 0x08 bC,
        make := fun r => some (.lea r.hdr r.d r.a r.b r.sc) }
  | 0xA => some (rowBI 0x001#12 fun r => some (.min r.hdr (r.m 0) r.d r.a r.srcB))
  | 0xB => some (rowBI 0x001#12 fun r => some (.max r.hdr (r.m 0) r.d r.a r.srcB))
  | 0xC => some (rowDA 0x002#12 fun r => some (.abs r.hdr (r.m 1) r.d r.a))
  | 0xD => some (rowDA 0x002#12 fun r => some (.neg r.hdr (r.m 1) r.d r.a))
  | 0xE => some
      { l64 := true, l96 := false, l128 := false, mods := fun _ => 0x001#12, used := fun _ => [.dst, .sa, .sc],
        regs := fun r => [opD r, opA r],
        more := fun r => chk (r.sc == 0#8 || decide ((if vecOp [opD r, opA r] then 32 else 64) < r.sc.toNat)) 0x08 bC,
        make := fun r => some (.sat r.hdr (r.m 0) r.d r.a r.sc) }
  | _ => none

/-- Opcodes 0x10 to 0x1F. -/
def rows1 : Nat → Option Row
  | 0x0 => some (rowBI 0#12 fun r => some (.and r.hdr r.d r.a r.srcB))
  | 0x1 => some (rowBI 0#12 fun r => some (.or r.hdr r.d r.a r.srcB))
  | 0x2 => some (rowBI 0#12 fun r => some (.xor r.hdr r.d r.a r.srcB))
  | 0x3 => some (rowBI 0#12 fun r => some (.andn r.hdr r.d r.a r.srcB))
  | 0x4 => some (rowDA 0#12 fun r => some (.not r.hdr r.d r.a))
  | 0x5 => some (rowBI 0#12 fun r => some (.shl r.hdr r.d r.a r.srcB))
  | 0x6 => some (rowBI 0#12 fun r => some (.shr r.hdr r.d r.a r.srcB))
  | 0x7 => some (rowBI 0#12 fun r => some (.sha r.hdr r.d r.a r.srcB))
  | 0x8 => some (rowBI 0#12 fun r => some (.rot r.hdr r.d r.a r.srcB))
  | 0x9 => some (rowDA 0#12 fun r => some (.clz r.hdr r.d r.a))
  | 0xA => some (rowDA 0#12 fun r => some (.popc r.hdr r.d r.a))
  | 0xB => some (rowDA 0#12 fun r => some (.brev r.hdr r.d r.a))
  | 0xC => some (rowDAB 0x001#12 (fun _ => []) fun r => some (.bfx r.hdr (r.m 0) r.d r.a r.b))
  | 0xD => some (rowDABC 0#12 (fun _ => []) fun r => some (.bfi r.hdr r.d r.a r.b r.c))
  | 0xE => some (rowDABC 0#12 (fun _ => []) fun r => some (.bytx r.hdr r.d r.a r.b r.c))
  | 0xF => some
      { l64 := true, l96 := false, l128 := false, mods := fun _ => 0#12, used := fun _ => [.dst, .sa, .sb, .sc],
        regs := fun r => [opD r, opA r, opB r], more := fun r => chk (r.sc.extractLsb' 3 5 != 0#5) 0x08 bC,
        make := fun r => some (.sel r.hdr r.d r.a r.b r.sc) }
  | _ => none

/-- Opcodes 0x20 to 0x2F. -/
def rows2 : Nat → Option Row
  | 0x0 => some
      { l64 := true, l96 := true, l128 := false, mods := fun _ => 0x81D#12, used := fun r => .dst :: .sa :: usedBI r,
        regs := fun r => opA r :: opBI r,
        more := fun r => biLong r ++ chk (r.dst.extractLsb' 3 5 != 0#5) 0x07 bD
          ++ chk (condOf (r.mod.extractLsb' 2 3)).isNone 0x07 54,
        make := fun r => (condOf (r.mod.extractLsb' 2 3)).map fun c =>
          .cmp r.hdr c (r.m 0) (r.dst.extractLsb' 0 3) r.a r.srcB }
  | 0x1 => some
      { l64 := true, l96 := false, l128 := false, mods := fun _ => 0x007#12,
        used := fun r => if r.mod.extractLsb' 0 3 == 4#3 then [.dst, .sa] else [.dst, .sa, .sb],
        regs := fun r => if r.mod.extractLsb' 0 3 == 4#3 then [opAs r] else [],
        more := fun r => chk ((5#3).ule (r.mod.extractLsb' 0 3)) 0x07 52
          ++ chk (r.dst.extractLsb' 3 5 != 0#5) 0x08 bD
          ++ chk (r.mod.extractLsb' 0 3 != 4#3 && r.sa.extractLsb' 3 5 != 0#5) 0x08 bA
          ++ chk (r.mod.extractLsb' 0 3 != 4#3 && r.sb.extractLsb' 3 5 != 0#5) 0x08 bB,
        make := fun r =>
          if r.dst.extractLsb' 3 5 != 0#5 || (r.mod.extractLsb' 0 3 != 4#3
            && (r.sa.extractLsb' 3 5 != 0#5 || r.sb.extractLsb' 3 5 != 0#5)) then none
          else (psetOf (r.mod.extractLsb' 0 3) r).map fun src => .pset r.hdr (r.dst.extractLsb' 0 3) src }
  | 0x2 => some
      { l64 := true, l96 := false, l128 := false, mods := fun _ => 0x803#12, used := fun r => .dst :: .sa :: usedBI r,
        regs := fun r => opDv r :: opA r :: opBI r,
        make := fun r => some (.shfl r.hdr (shflOf (r.mod.extractLsb' 0 2)) r.d r.a r.srcB) }
  | 0x3 => some
      { l64 := true, l96 := false, l128 := false, mods := fun _ => 0x003#12, used := fun _ => [.dst, .sa],
        regs := fun r => if r.mod.extractLsb' 0 2 == 0#2 then [opDs r] else [],
        more := fun r => chk (r.mod.extractLsb' 0 2 != 0#2 && r.dst.extractLsb' 3 5 != 0#5) 0x08 bD
          ++ chk (r.sa.extractLsb' 3 5 != 0#5) 0x08 bA,
        nine := false,
        make := fun r => some (.vote r.hdr (voteOf (r.mod.extractLsb' 0 2)) r.dst r.sa) }
  | 0x4 => some
      { l64 := true, l96 := false, l128 := false, mods := fun _ => 0x07F#12, used := fun _ => [.dst, .sa],
        regs := fun r => [opD r, opA r], more := badRed, nine := false,
        make := fun r => (redOf (r.mod.extractLsb' 0 4)).map fun op =>
          .rduc r.hdr op (rmOf (r.mod.extractLsb' 5 2)) (r.m 4) r.d r.a }
  | 0x5 => some
      { l64 := true, l96 := false, l128 := false, mods := fun _ => 0x0FF#12, used := fun _ => [.dst, .sa],
        regs := fun r => [opDv r, opA r], more := badRed, nine := false,
        make := fun r => (redOf (r.mod.extractLsb' 0 4)).map fun op =>
          .scan r.hdr op (rmOf (r.mod.extractLsb' 5 2)) (r.m 4) (r.m 7) r.d r.a }
  | 0x6 => some
      { l64 := true, l96 := false, l128 := false, mods := fun _ => 0x001#12, used := fun _ => [.dst, .sc],
        regs := fun r => [opD r],
        more := fun r => chk (!hiOk (r.m 0) r.sc) 0x07 52 ++ chkCode (r.m 0 && (0xC0#8).ule r.dst) 0x07 52 r.dst
          ++ chk ((0x0E#8).ult r.sc) 0x0A bC,
        make := fun r => some (.mfs r.hdr (r.m 0) r.d r.sc) }
  | 0x7 => some
      { l64 := true, l96 := false, l128 := false, mods := fun _ => 0x001#12, used := fun _ => [.sa, .sc],
        regs := fun r => [opA r],
        more := fun r => chk (!hiOk (r.m 0) r.sc) 0x07 52 ++ chkCode (r.m 0 && (0xC0#8).ule r.sa) 0x07 52 r.sa
          ++ chk ((0x0E#8).ult r.sc) 0x0A bC,
        make := fun r => some (.mts r.hdr (r.m 0) r.a r.sc) }
  | _ => none

/-- Opcodes 0x40 to 0x4F. -/
def rows4 : Nat → Option Row
  | 0x0 => some (rowF2 0x003#12 fun r => some (.fadd r.hdr (rmOf (r.mod.extractLsb' 0 2)) r.d r.a r.srcF))
  | 0x1 => some (rowF2 0x003#12 fun r => some (.fsub r.hdr (rmOf (r.mod.extractLsb' 0 2)) r.d r.a r.srcF))
  | 0x2 => some (rowF2 0x003#12 fun r => some (.fmul r.hdr (rmOf (r.mod.extractLsb' 0 2)) r.d r.a r.srcF))
  | 0x3 => some (rowDABC 0x003#12 (fun _ => []) fun r => some (.ffma r.hdr (rmOf (r.mod.extractLsb' 0 2)) r.d r.a r.b r.c))
  | 0x4 => some (rowF2 0#12 fun r => some (.fmin r.hdr r.d r.a r.srcF))
  | 0x5 => some (rowF2 0#12 fun r => some (.fmax r.hdr r.d r.a r.srcF))
  | 0x6 => some
      { l64 := true, l96 := true, l128 := false, mods := fun _ => 0x01C#12,
        used := fun r => if r.len == 1#2 then [.dst, .sa] else [.dst, .sa, .sb], regs := fun r => opA r :: opBF r,
        more := fun r => chk (r.dst.extractLsb' 3 5 != 0#5) 0x08 bD,
        make := fun r => if r.dst.extractLsb' 3 5 != 0#5 then none
          else some (.fcmp r.hdr (fcondOf (r.mod.extractLsb' 2 3)) (r.dst.extractLsb' 0 3) r.a r.srcF) }
  | 0x7 => some
      { l64 := true, l96 := false, l128 := false, mods := fun _ => 0#12, used := fun _ => [.dst, .sa, .sc],
        regs := fun r => [opA r], more := fun r => chk (r.dst.extractLsb' 3 5 != 0#5) 0x08 bD,
        make := fun r => if r.dst.extractLsb' 3 5 != 0#5 then none
          else some (.fcls r.hdr (r.dst.extractLsb' 0 3) r.a r.sc) }
  | 0x8 => some (rowF1 .frnd)
  | 0x9 => some
      { l64 := true, l96 := false, l128 := false, mods := fun _ => 0x803#12, used := fun r => .dst :: .sa :: usedBI r,
        regs := fun r => opD r :: opA r :: opBI r,
        make := fun r => some (.fscl r.hdr (rmOf (r.mod.extractLsb' 0 2)) r.d r.a r.srcB) }
  | 0xA => some (rowF1 .frcp)
  | 0xB => some (rowF1 .fsqrt)
  | 0xC => some (rowF1 .frsq)
  | 0xD => some (rowDA 0#12 fun r => some (.fexp2 r.hdr r.d r.a))
  | 0xE => some (rowDA 0#12 fun r => some (.flog2 r.hdr r.d r.a))
  | 0xF => some (rowF2 0x003#12 fun r => some (.fdiv r.hdr (rmOf (r.mod.extractLsb' 0 2)) r.d r.a r.srcF))
  | _ => none

/-- Opcodes 0x50 to 0x5F. -/
def rows5 : Nat → Option Row
  | 0x0 => some (rowP2 .hxadd)
  | 0x1 => some (rowP2 .hxmul)
  | 0x2 => some (rowP3 .hxfma)
  | 0x3 => some (rowP2 .bxadd)
  | 0x4 => some (rowP2 .bxmul)
  | 0x5 => some (rowP3 .bxfma)
  | 0x6 => some
      { rowDA 0xFFF#12 fun r => match cvtTyOf (r.mod.extractLsb' 0 4), cvtTyOf (r.mod.extractLsb' 4 4) with
          | some dt, some st => some (.cvt r.hdr dt st (rmOf (r.mod.extractLsb' 8 2)) (r.m 10) (r.m 11) r.d r.a)
          | _, _ => none with
        more := fun r => chk (cvtTyOf (r.mod.extractLsb' 0 4)).isNone 0x07 52
          ++ chk (cvtTyOf (r.mod.extractLsb' 4 4)).isNone 0x07 56
          ++ chk (r.m 11 && r.m 10) 0x07 62 ++ chk (r.m 11 && r.mod.extractLsb' 0 4 != 3#4) 0x07 63 }
  | 0x7 => some
      { l64 := true, l96 := false, l128 := false, mods := fun _ => 0x07F#12,
        used := fun r => if (2#2).ule (r.mod.extractLsb' 0 2) then [.dst, .sa, .sb, .sc] else [.dst, .sa, .sb],
        regs := fun r => [opD r, opA r, opB r] ++ if (2#2).ule (r.mod.extractLsb' 0 2) then [opC r] else [],
        more := fun r => chk (r.m 4 && (2#2).ule (r.mod.extractLsb' 0 2)) 0x07 56
          ++ chk (r.m 5 && r.mod.extractLsb' 0 2 != 2#2) 0x07 57
          ++ chk (r.m 6 && (r.mod.extractLsb' 0 2).ult 2#2) 0x07 58,
        make := fun r => some (.pack r.hdr (packTyOf (r.mod.extractLsb' 0 2)) (rmOf (r.mod.extractLsb' 2 2)) (r.m 4) (r.m 5)
          (r.m 6) r.d r.a r.b r.c) }
  | 0x8 => some
      { l64 := true, l96 := false, l128 := false, mods := fun _ => 0x007#12, used := fun _ => [.dst, .sa, .sc],
        regs := fun r => [opD r, opA r],
        more := fun r => chk (unpkTyOf (r.mod.extractLsb' 0 3)).isNone 0x07 52
          ++ chk (match unpkTyOf (r.mod.extractLsb' 0 3) with
            | some .f16 | some .bf16 => (2#8).ule r.sc
            | some .e4m3 | some .s8 | some .z8 => (4#8).ule r.sc
            | some .s4 => (8#8).ule r.sc
            | none => false) 0x08 bC,
        make := fun r => (unpkTyOf (r.mod.extractLsb' 0 3)).map fun ty => .unpk r.hdr ty r.d r.a r.sc }
  | _ => none

/-- Opcodes 0x70 to 0x7F. -/
def rows7 : Nat → Option Row
  | 0x0 => some
      { l64 := true, l96 := false, l128 := false, br := true, mods := fun _ => 0#12, used := fun _ => [.sa, .sb, .sc],
        regs := fun _ => [], make := fun r => some (.bra r.hdr r.bp r.disp24) }
  | 0x1 => some
      { l64 := true, l96 := false, l128 := false, br := true, mods := fun _ => 0x001#12,
        used := fun r => if r.m 0 then [.sa, .sb] else [.sa],
        regs := fun r => opAs r :: if r.m 0 then [{ lo := bB, code := r.sb, cls := .vec }] else [],
        make := fun r => some (if r.m 0 then .jmpIndexed r.hdr r.bp r.a r.b else .jmp r.hdr r.bp r.a) }
  | 0x2 => some
      { l64 := true, l96 := false, l128 := false, br := true, mods := fun _ => 0x001#12,
        used := fun r => if r.m 0 then [.dst, .sa] else [.dst, .sa, .sb, .sc],
        regs := fun r => { lo := bD, code := r.dst, n := 2, al := 2, dst := true } :: if r.m 0 then [opAs r] else [],
        make := fun r => some (if r.m 0 then .callR r.hdr r.bp r.d r.a else .call r.hdr r.bp r.d r.disp24) }
  | 0x3 => some
      { l64 := true, l96 := false, l128 := false, br := true, mods := fun _ => 0#12, used := fun _ => [.sa],
        regs := fun r => [{ lo := bA, code := r.sa, n := 2, al := 2 }], make := fun r => some (.ret r.hdr r.bp r.a) }
  | 0x4 => some
      { l64 := true, l96 := false, l128 := false, mods := fun _ => 0#12, used := fun _ => [.sc], regs := fun _ => [],
        make := fun r => some (.brk r.hdr r.sc) }
  | 0x5 => some
      { l64 := true, l96 := false, l128 := false, whole := true, mods := fun _ => 0xFFF#12,
        used := fun _ => [.dst, .sa, .sb, .sc],
        regs := fun r => if (0xC0#8).ule r.sa then [opAs r] else [],
        more := fun r => chk (r.dst.ult 2#8) 0x08 bD ++ chk ((8#8).ule r.sa && r.sa.ult 0xC0#8) 0x08 bA
          ++ chk (r.sc.ult 2#8) 0x08 bC,
        make := fun r =>
          let lens : LoopLens := ⟨r.dst, r.mod.extractLsb' 8 4 ++ r.sb, r.sc, r.mod.extractLsb' 1 7⟩
          if (8#8).ule r.sa && r.sa.ult 0xC0#8 then none
          else
            let src : IterSrc := if r.sa.ult 8#8 then .queue (r.sa.extractLsb' 0 3) else .range (scalarOf r.sa)
            some (if r.m 0 then .rfliOrd r.hdr src lens else .rfli r.hdr src lens) }
  | 0x6 => some
      { row0 0x001#12 fun r => some (if r.m 0 then .rflOrd r.hdr r.bp else .rfl r.hdr r.bp) with
        br := true, whole := true }
  | 0x7 => some { row0 0#12 fun r => some (.syng r.hdr) with whole := true }
  | _ => none

/-- Opcodes 0x80 to 0x8F. -/
def rows8 : Nat → Option Row
  | 0x0 => some (rowMem false true .ld)
  | 0x1 => some (rowMem true true .st)
  | 0x2 => some (rowMem false false .lds)
  | 0x3 => some (rowMem true false .sts)
  | 0x4 => some (rowTile false .ldt)
  | 0x5 => some (rowTile true .stt)
  | 0x6 => some (rowAtom 0x3F7#12 true (fun b => (atomOpOf b).isSome) fun r =>
      (atomOpOf (r.mod.extractLsb' 4 3)).map fun op =>
        .atom r.hdr op (r.m 7) (r.m 8) (r.m 9) (r.m 0) r.d r.a r.b r.disp)
  | 0x7 => some (rowAtom 0x377#12 false (fun b => (atomFOpOf b).isSome) fun r =>
      (atomFOpOf (r.mod.extractLsb' 4 3)).map fun op => .atomf r.hdr op (r.m 8) (r.m 9) r.d r.a r.b r.disp)
  | 0x8 => some (rowAtom 0x307#12 true (fun _ => true) fun r =>
      some (.cas r.hdr (r.m 8) (r.m 9) (r.m 0) r.d r.a r.b r.disp))
  | 0x9 => some
      { l64 := true, l96 := true, l128 := false, mods := fun _ => 0x018#12,
        used := fun r => [.sa] ++ (if r.m 3 then [.sb] else []) ++ (if r.len == 1#2 then [] else [.sc]),
        regs := fun r => opAs r :: if r.m 3 then [opB r] else [],
        make := fun r => some (.pref r.hdr (r.m 4) r.a r.ofsB r.disp) }
  | 0xA => some (rowQ 0x001#12 (fun r => if r.m 0 then [.dst, .sb] else [.dst])
      (fun r => opDv r :: if r.m 0 then [{ lo := bB, code := r.sb, cls := .sca, dst := true }] else []) 0x07
      fun r => some (.qpop r.hdr r.d r.scq (if r.m 0 then some r.b else none)))
  | 0xB => some (rowQ 0x003#12 (fun r => if r.m 0 then [.sa, .sb] else [.sa])
      (fun r => opA r :: if r.m 0 then [opBs r] else []) 0x07
      fun r => some (.qpush r.hdr (r.m 1) r.a r.scq (if r.m 0 then some r.b else none)))
  | 0xC => some (rowQ 0#12 (fun _ => [.dst]) (fun r => [opDs r]) 0x07 fun r => some (.qsta r.hdr r.d r.scq))
  | _ => none

/-- Opcodes 0xA0 to 0xAF (R139). -/
def rowsA : Nat → Option Row
  | 0x0 => some
      { l64 := true, l96 := false, l128 := false, mods := fun _ => 0x001#12, used := fun _ => [.sa, .sb],
        regs := fun r => [opAs r, if r.m 0 then opBs r else opB r],
        make := fun r => some (if r.m 0 then .spawnU r.hdr r.a r.b else .spawn r.hdr r.a r.b) }
  | 0x1 => some (row0 0#12 fun r => some (.await r.hdr))
  | 0x2 => some
      { l64 := true, l96 := false, l128 := false, mods := fun _ => 0x001#12,
        used := fun r => if r.m 0 then [.sa, .sb] else [], regs := fun r => if r.m 0 then [opAs r, opBs r] else [],
        make := fun r => some (if r.m 0 then .exitS r.hdr r.a r.b else .exit r.hdr) }
  | 0x3 => some
      { l64 := true, l96 := false, l128 := false, mods := fun _ => 0#12, used := fun _ => [.sa, .sb],
        regs := fun r => [opAs r, opBs r], make := fun r => some (.exitJ r.hdr r.a r.b) }
  | 0x4 => some
      { l64 := true, l96 := false, l128 := false, mods := fun _ => 0#12, used := fun _ => [.dst, .sc],
        regs := fun r => [opDs r], more := fun r => chk (r.sc == 0#8 || (192#8).ult r.sc) 0x08 bC,
        make := fun r => some (.rgrow r.hdr r.d r.sc) }
  | 0x5 => some
      { l64 := true, l96 := false, l128 := false, mods := fun _ => 0#12, used := fun _ => [.sc], regs := fun _ => [],
        more := fun r => chk (r.sc == 0#8 || (192#8).ult r.sc) 0x08 bC, make := fun r => some (.rshrk r.hdr r.sc) }
  | 0x6 => some (row0 0#12 fun r => some (.yield r.hdr))
  | _ => none

/-- Opcodes 0xB0 to 0xBF (R239 to R241). -/
def rowsB : Nat → Option Row
  | 0x0 => some
      { l64 := true, l96 := false, l128 := false, mods := fun _ => 0x003#12,
        used := fun r => if r.m 1 then [.sa, .sc] else [.sc], regs := fun r => if r.m 1 then [opA r] else [],
        more := fun r => chk (r.m 0 && r.m 1 && r.sc == 0#8) 0x07 53
          ++ chk (!((0x40#8).ule r.sc && r.sc.ule 0x7F#8) && !(r.m 0 && r.sc == 0#8)) 0x08 bC,
        make := fun r =>
          let info := if r.m 1 then some r.a else none
          some (if r.m 0 then .trapK r.hdr r.sc info else .trap r.hdr r.sc info) }
  | 0x1 => some (row0 0x001#12 fun r => some (if r.m 0 then .tretSkip r.hdr else .tret r.hdr))
  | 0x2 => some
      { l64 := true, l96 := false, l128 := false, mods := fun _ => 0x001#12,
        used := fun r => if r.m 0 then [.sa, .sc] else [.sc], regs := fun r => if r.m 0 then [opA r] else [],
        make := fun r => some (.tmark r.hdr r.sc (if r.m 0 then some r.a else none)) }
  | _ => none

/-- An access by handle (R300). -/
def rowHnd (mask : BitVec 12) (data : Bool) (more : Raw → List Chk) (dst : Bool) (mk : Raw → Option Instr) : Row :=
  { l64 := true, l96 := true, l128 := false, mods := fun _ => mask,
    used := fun r => (if data then [Fld.dst] else []) ++ (if r.m 3 then [Fld.sa] else [])
      ++ (if r.len == 1#2 then [] else [Fld.sc]),
    regs := fun r => (if data then [{ opData r dst with cls := .sca }] else []) ++ if r.m 3 then [opAs r] else [],
    more := more, make := mk }

/-- The handle in MOD[11:8] (R300). -/
def Raw.hnd (r : Raw) : HandleN := r.mod.extractLsb' 8 4

/-- Opcodes 0xC0 to 0xCF. -/
def rowsC : Nat → Option Row
  | 0x0 => some (rowHnd 0xF0F#12 true (fun r => chk (sizeOf3 (r.mod.extractLsb' 0 3)).isNone 0x07 52) true fun r =>
      (sizeOf3 (r.mod.extractLsb' 0 3)).map fun sz => .ald r.hdr sz r.d r.hnd r.ofsA r.disp)
  | 0x1 => some (rowHnd 0xF0F#12 true (fun r => chk (match sizeOf3 (r.mod.extractLsb' 0 3) with
      | some sz => !sz.store
      | none => true) 0x07 52) false fun r =>
      (sizeOf3 (r.mod.extractLsb' 0 3)).map fun sz => .ast r.hdr sz r.d r.hnd r.ofsA r.disp)
  | 0x2 => some
      { l64 := true, l96 := false, l128 := false, mods := fun _ => 0xF03#12, used := fun _ => [.dst],
        regs := fun r => [opDs r], more := fun r => chk (ahqOf (r.mod.extractLsb' 0 2)).isNone 0x07 52,
        make := fun r => (ahqOf (r.mod.extractLsb' 0 2)).map fun sel => .ahq r.hdr sel r.d r.hnd }
  | 0x3 => some (rowS 0x007#12 (fun _ => [.sa, .sb, .sc]) (fun r => [opAs r, opBs r, opCs r]) (fun _ => 0#32)
      (fun r => chk ((6#3).ule (r.mod.extractLsb' 0 3)) 0x07 52)
      fun r => (sizeOf3 (r.mod.extractLsb' 0 3)).map fun sz => .strm r.hdr sz r.xq r.xh r.a r.b r.c)
  | 0x4 => some (rowS 0x003#12 (fun r => if r.m 0 then [.sa] else [.sa, .sb, .sc])
      (fun r => opAs r :: if r.m 0 then [] else [opBs r, opCs r])
      (fun r => if r.m 0 then 0x71FF#32 else 0x1FF#32)
      (fun r =>
        let e := r.ximm.extractLsb' 0 9
        chk (r.m 1 && (4#9).ule e) 0x07 53
        ++ chk (!(e == 1#9 || e == 2#9 || e == 4#9 || (e.extractLsb' 0 2 == 0#2 && (8#9).ule e && e.ule 256#9))) 0x08 64)
      fun r =>
        let e := r.ximm.extractLsb' 0 9
        some (if r.m 0 then .gthQ r.hdr (r.m 1) r.xq r.xh r.a r.xq2 e else .gth r.hdr (r.m 1) r.xq r.xh r.a r.b r.c e))
  | 0x5 => some (rowS 0x003#12 (fun _ => [.sa]) (fun r => [opAs r]) (fun _ => 0x7000#32)
      (fun r => chk (combOf (r.mod.extractLsb' 0 2)).isNone 0x07 52)
      fun r => (combOf (r.mod.extractLsb' 0 2)).map fun cb => .sct r.hdr cb r.xh r.a r.xq r.xq2)
  | 0x6 => some (rowS 0#12 (fun _ => [.dst, .sa, .sb]) (fun r => [opDs r, opAs r, opBs r]) (fun _ => 0x703F#32)
      (fun r => chk (!((1#6).ule (r.ximm.extractLsb' 0 6) && (r.ximm.extractLsb' 0 6).ule 32#6)) 0x08 64)
      fun r => some (.hprb r.hdr r.d r.xq r.xh r.a r.b r.xq2 (r.ximm.extractLsb' 0 6)))
  | 0x7 => some (rowS 0#12 (fun _ => [.dst, .sa, .sb, .sc]) (fun r => [opDs r, opAs r, opBs r, opCs r]) (fun _ => 0#32)
      (fun _ => []) fun r => some (.isct r.hdr r.d r.xq r.xh r.a r.b r.c))
  | 0x8 => some (rowS 0#12 (fun _ => [.sa, .sb]) (fun r => [opAs r, opBs r]) (fun _ => 0xFFFFF#32)
      (fun r => chk (!((1#4).ule (r.ximm.extractLsb' 16 4) && (r.ximm.extractLsb' 16 4).ule 8#4)) 0x08 80)
      fun r => some (.walk r.hdr r.xq r.xh r.a r.b (r.ximm.extractLsb' 0 16) (r.ximm.extractLsb' 16 4)))
  | 0x9 => some
      { l64 := true, l96 := false, l128 := false, mods := fun _ => 0x003#12,
        used := fun r => if r.m 1 then [] else [.sc], regs := fun _ => [],
        more := fun r => chk (r.m 1 && !r.m 0) 0x07 53 ++ badSc3 0x08 r,
        make := fun r => if r.sc.extractLsb' 3 5 != 0#5 then none
          else some (if r.m 0 then .qendX r.hdr (if r.m 1 then none else some r.scq) else .qend r.hdr r.scq) }
  | 0xA => some (rowQ 0#12 (fun _ => []) (fun _ => []) 0x08 fun r => some (.qclr r.hdr r.scq))
  | 0xB => some (rowHnd 0xF18#12 false (fun _ => []) false fun r =>
      some (.aprf r.hdr (r.m 4) r.hnd r.ofsA r.disp))
  | 0xC => some (rowQ 0x001#12 (fun _ => [.sa, .sb]) (fun r => [opAs r, opBs r]) 0x08 fun r =>
      some (.qput r.hdr (r.m 0) r.scq r.a r.b))
  | 0xD => some (rowQ 0x001#12 (fun _ => [.dst, .sa]) (fun r => [opDs r, opAs r]) 0x08 fun r =>
      some (.qtake r.hdr (r.m 0) r.d r.scq r.a))
  | _ => none

/-- Opcodes 0xE0 to 0xEF (R356). -/
def rowsE : Nat → Option Row
  | 0x0 => some (rowM 0x001#12 [.xta] (fun _ => []) (fun _ => []) fun r =>
      some (if r.m 0 then .mldsK1 r.hdr r.xta else .mlds r.hdr r.xta))
  | 0x1 => some (row0 0#12 fun r => some (.mswp r.hdr))
  | 0x2 => some (rowPass false fun r => some (.mma r.hdr (r.m 0) r.xab r.xta r.sb))
  | 0x3 => some (rowPass false fun r => some (.mmas r.hdr (r.m 0) r.xab r.xta r.sb))
  | 0x4 => some (rowPass true fun r => some (.mbmp r.hdr (r.m 0) r.xab r.xta r.xtb r.sb))
  | 0x5 => some (rowM 0x003#12 [.xta] (fun _ => []) (fun r => chk (hadOf (r.mod.extractLsb' 0 2)).isNone 0x07 52) fun r =>
      (hadOf (r.mod.extractLsb' 0 2)).map fun p => .mhad r.hdr p r.xta)
  | 0x6 => some (rowM 0x07F#12 [.xta, .xtb] (fun _ => [])
      (fun r =>
        let n := (r.mod.extractLsb' 0 4).toNat
        let m := r.mod.extractLsb' 4 2
        chk (n == 0 || (m == 0#2 && decide (4 ≤ n)) || (m == 1#2 && decide (8 ≤ n))) 0x08 52
        ++ chk (m == 3#2) 0x08 56 ++ chk (r.xta == r.xtb) 0x08 116)
      fun r => some (.mprn r.hdr (r.mod.extractLsb' 0 4) (r.mod.extractLsb' 4 2) (r.m 6) r.xta r.xtb))
  | 0x7 => some (rowBank 0xFC1#12 (fun r => chk (decide (64 < r.sc6.toNat + (r.mod.extractLsb' 6 6).toNat + 1)) 0x08 58) fun r =>
      some (.acal r.hdr (r.m 0) r.sc6 (r.mod.extractLsb' 6 6)))
  | 0x8 => some (rowBank 0xFC0#12 (fun r => chk (decide (64 < r.sc6.toNat + (r.mod.extractLsb' 6 6).toNat + 1)) 0x08 58) fun r =>
      some (.acfr r.hdr r.sc6 (r.mod.extractLsb' 6 6)))
  | 0x9 => some (rowM 0x001#12 [.xab, .ximm] (fun _ => [])
      (fun r =>
        let first := (r.ximm.extractLsb' 0 5).toNat
        let count := (r.ximm.extractLsb' 8 6).toNat
        chk (r.ximm &&& ~~~0x3F1F#32 != 0#32) 0x06 64
        ++ chk (count == 0 || decide (32 < first + count)) 0x08 72)
      fun r => some (.acclm r.hdr (r.m 0) r.xab (r.ximm.extractLsb' 0 5) (r.ximm.extractLsb' 8 6)))
  | 0xA => some (rowBank 0#12 (fun _ => []) fun r => some (.acz r.hdr r.sc6))
  | 0xB => some
      { rowM 0#12 [.dst, .xab, .ximm] (fun r => [{ lo := bD, code := r.dst, n := 16, dst := true }])
          (fun r => chk (r.ximm &&& ~~~(if r.dst.ult 0xC0#8 then 3#32 else 0x3F1F#32) != 0#32) 0x06 64)
          fun r => some (match r.d with
            | .v n => .acrdVector r.hdr (r.ximm.extractLsb' 0 2) n r.xab
            | .s n => .acrdScalar r.hdr n r.xab (r.ximm.extractLsb' 0 5) (r.ximm.extractLsb' 8 6)) with
        nine := false }
  | 0xC => some
      { l64 := false, l96 := false, l128 := true, mods := fun _ => 0x1FF#12,
        used := fun r => if r.m 6 then [.dst, .xta, .xab, .ximm] else [.xta, .xab, .ximm],
        regs := fun r => if r.m 6 then [opDs r] else [],
        more := fun r =>
          let first := (r.ximm.extractLsb' 0 5).toNat
          let rows := (r.ximm.extractLsb' 8 6).toNat
          let cols := (r.ximm.extractLsb' 16 7).toNat
          chk (drainOf (r.mod.extractLsb' 0 4)).isNone 0x07 52
          ++ chk (r.ximm &&& ~~~0x7F3F1F#32 != 0#32) 0x06 64
          ++ chk (rows == 0 || decide (32 < first + rows)) 0x08 72 ++ chk (cols == 0 || decide (64 < cols)) 0x08 80,
        make := fun r => (drainOf (r.mod.extractLsb' 0 4)).map fun k =>
          .acst r.hdr k (r.m 4) (r.m 5) (if r.m 6 then some r.d else none) (rmOf (r.mod.extractLsb' 7 2)) r.xta r.xab
            (r.ximm.extractLsb' 0 5) (r.ximm.extractLsb' 8 6) (r.ximm.extractLsb' 16 7) }
  | 0xD => some
      { l64 := true, l96 := false, l128 := false, mods := fun _ => 0x003#12,
        used := fun r => if r.m 0 == r.m 1 then [.dst] else [.dst, .sc], regs := fun r => [opDs r], more := badSc6,
        make := fun r => if r.sc.extractLsb' 6 2 != 0#2 then none
          else
            let sel : MstatSel :=
              if r.m 1 then (if r.m 0 then .busy else .mark r.sc6) else (if r.m 0 then .bank r.sc6 else .plane)
            some (.mstat r.hdr sel r.d) }
  | 0xE => some (row0 0#12 fun r => some (.mwait r.hdr))
  | _ => none

/-- The coordinates of CPL and CPS reach sB + 2 (R270). -/
def badCoord (r : Raw) : List Chk := chkCode ((0xFD#8).ult r.sb) 0x08 bB r.sb

/-- Opcodes 0xF0 to 0xFF. -/
def rowsF : Nat → Option Row
  | 0x0 => some (rowCopy (fun _ => 0x01E#12) (fun r => if r.m 3 then [.sa, .sb, .sc] else [.sa, .sb])
      (fun r => opAs r :: opBs r :: if r.m 3 then [opCs r] else []) badCoord
      fun r => some (.cpl r.hdr (r.m 4) (r.m 2) (if r.m 3 then some r.c else none) r.dest r.a r.b))
  | 0x1 => some (rowCopy (fun r => if r.m 1 then 0x016#12 else 0x036#12) (fun _ => [.sa, .sb])
      (fun r => [opAs r, opBs r]) badCoord fun r => some (.cps r.hdr (r.m 5) (r.m 4) (r.m 2) r.dest r.a r.b))
  | 0x2 => some (rowCopy (fun _ => 0x002#12) (fun _ => [.sa, .sb, .ximm]) (fun r => [opAs r, opBs r]) (fun _ => [])
      fun r => some (.cpf r.hdr r.dest r.a r.b r.ximm))
  | 0x3 => some (rowCopy (fun _ => 0x003#12) (fun _ => [.xtb]) (fun _ => []) (fun _ => [])
      fun r => some (.cpx r.hdr (r.m 0) r.dest r.xtb))
  | 0x4 => some (row0 0#12 fun r => some (.cpw r.hdr))
  | 0x5 => some
      { l64 := false, l96 := false, l128 := true, mods := fun _ => 0#12, used := fun _ => [.xrg, .xta, .ximm],
        regs := fun _ => [],
        more := fun r => chk (r.ximm &&& ~~~0x1F#32 != 0#32) 0x06 64
          ++ chk (r.ximm.extractLsb' 0 5 == 0#5 && r.xta != 0#6) 0x06 122,
        make := fun r => some (.rini r.hdr r.xrg r.xta (r.ximm.extractLsb' 0 5)) }
  | 0x6 => some
      { l64 := true, l96 := false, l128 := false, mods := fun _ => 0x001#12,
        used := fun r => if r.m 0 then [.dst, .sc] else [.sc], regs := fun r => if r.m 0 then [opDs r] else [],
        more := badSc4, make := fun r => if r.sc.extractLsb' 4 4 != 0#4 then none
          else some (.awf r.hdr (if r.m 0 then some r.d else none) r.scr) }
  | 0x7 => some
      { l64 := true, l96 := false, l128 := false, mods := fun _ => 0x001#12, used := fun _ => [.sc], regs := fun _ => [],
        more := fun r => if r.m 0 then badSc6 r else badSc4 r,
        make := fun r =>
          if r.m 0 then (if r.sc.extractLsb' 6 2 == 0#2 then some (.rlsTile r.hdr r.sc6) else none)
          else (if r.sc.extractLsb' 4 4 == 0#4 then some (.rlsRing r.hdr r.scr) else none) }
  | 0x8 => some
      { l64 := true, l96 := false, l128 := false, mods := fun _ => 0#12, used := fun _ => [.dst, .sc],
        regs := fun r => [opDs r], more := badSc4,
        make := fun r => if r.sc.extractLsb' 4 4 != 0#4 then none else some (.rsta r.hdr r.d r.scr) }
  | 0x9 => some
      { l64 := true, l96 := false, l128 := false, mods := fun _ => 0x007#12, used := fun _ => [.dst, .sc],
        regs := fun r => [opDs r], more := badSc6,
        make := fun r => if r.sc.extractLsb' 6 2 != 0#2 then none
          else some (.tsta r.hdr (r.mod.extractLsb' 0 3) r.d r.sc6) }
  | 0xA => some
      { l64 := false, l96 := false, l128 := true, mods := fun _ => 0x003#12,
        used := fun r => if r.mod.extractLsb' 0 2 == 0#2 then [.sa, .xta, .ximm]
          else if r.mod.extractLsb' 0 2 == 3#2 then [.xta] else [.xta, .xrg],
        regs := fun r => if r.mod.extractLsb' 0 2 == 0#2 then [opAs r] else [],
        make := fun r => some (if r.m 1 then (if r.m 0 then .tbindSelf r.hdr r.xta else .tbindWr r.hdr r.xta r.xrg)
          else (if r.m 0 then .tbindRd r.hdr r.xta r.xrg else .tbindSp r.hdr r.xta r.a r.ximm)) }
  | _ => none

/-- The row of an opcode, or none where the opcode map has a dash (R79). -/
def row (opc : BitVec 8) : Option Row :=
  let lo := opc.toNat % 16
  match opc.toNat / 16 with
  | 0x0 => rows0 lo
  | 0x1 => rows1 lo
  | 0x2 => rows2 lo
  | 0x4 => rows4 lo
  | 0x5 => rows5 lo
  | 0x7 => rows7 lo
  | 0x8 => rows8 lo
  | 0xA => rowsA lo
  | 0xB => rowsB lo
  | 0xC => rowsC lo
  | 0xE => rowsE lo
  | 0xF => rowsF lo
  | _ => none

/-- Decoding of a framed word: the instruction, or the first fault of R83 that no executing unit can change. -/
def decodeRaw (r : Raw) : Except DFault Instr :=
  match row r.opc with
  | none => .error ⟨0x01, 6⟩
  | some w =>
    if !w.lenOk r.len then .error ⟨0x03, 0⟩
    else
      match firstChk ((w.checks r).filter fun c => c.code.isNone && decide (stepOf c.why < 4)) with
      | some c => .error ⟨c.why, c.bit⟩
      | none =>
        match w.make r with
        | some i => .ok i
        | none => .error (match firstChk (w.checks r) with
          | some c => ⟨c.why, c.bit⟩
          | none => ⟨0x08, 0⟩)

/-! ### Framing -/

/-- Bytes of one instruction by LEN, for a first parcel that is not a pad (R60). -/
def lenBytes (len : BitVec 2) : Nat := if len == 0#2 then 8 else if len == 1#2 then 12 else 16

/-- Little-endian value of a list of bytes (R2). -/
def leNat : List Byte → Nat
  | [] => 0
  | b :: bs => b.toNat + 256 * leNat bs

/-- The n little-endian bytes of a number (R2). -/
def leBytes : Nat → Nat → List Byte
  | 0, _ => []
  | n + 1, v => BitVec.ofNat 8 v :: leBytes n (v / 256)

/-- The fields of an instruction word (R64, R69, R70). -/
def Raw.ofWord (w : BitVec 128) : Raw :=
  { len := w.extractLsb' 0 2, stall := w.extractLsb' 2 4, opc := w.extractLsb' 6 8, pred := w.extractLsb' 14 3,
    pneg := w.getLsbD 17, dst := w.extractLsb' 18 8, sa := w.extractLsb' 26 8, sb := w.extractLsb' 34 8,
    sc := w.extractLsb' 42 8, bp := w.extractLsb' 50 2, mod := w.extractLsb' 52 12, ext := w.extractLsb' 64 64 }

/-- The instruction word of its fields (R64, R69, R70). -/
def Raw.toWord (r : Raw) : BitVec 128 :=
  r.ext ++ r.mod ++ r.bp ++ r.sc ++ r.sb ++ r.sa ++ r.dst ++ BitVec.ofBool r.pneg ++ r.pred ++ r.opc ++ r.stall ++ r.len

/-- What the front end makes of the bytes at a parcel address (R60 to R62). -/
inductive Framed where
  | short
  | pad
  | notInstr (p0 : W32)
  | word (r : Raw) (len : Nat) (p0 : W32)
  deriving DecidableEq, Repr

/-- Framing of the bytes from a parcel address to the end of its fetch block: `short` where the instruction does not
lie within them. -/
def frame (bs : List Byte) : Framed :=
  if bs.length < 4 then .short
  else
    let p0 : W32 := BitVec.ofNat 32 (leNat (bs.take 4))
    if p0.extractLsb' 0 2 == 3#2 then (if p0 == 3#32 then .pad else .notInstr p0)
    else
      let n := lenBytes (p0.extractLsb' 0 2)
      if bs.length < n then .short
      else .word (Raw.ofWord (BitVec.ofNat 128 (leNat (bs.take n)))) n p0

/-- Why bytes are no instruction: they end before it does, or a fault of R83. -/
inductive DecodeError where
  | short
  | illegal (f : DFault)
  deriving DecidableEq, Repr

/-- Decoding of bytes: the instruction and its length in bytes. -/
def decode (bs : List Byte) : Except DecodeError (Instr × Nat) :=
  match frame bs with
  | .short => .error .short
  | .pad => .ok (.pad32, 4)
  | .notInstr _ => .error (.illegal ⟨0x02, 2⟩)
  | .word r n _ =>
    match decodeRaw r with
    | .ok i => .ok (i, n)
    | .error f => .error (.illegal f)

/-- The instruction that the decoder reads from a word whose bits are numbered as the opcode table numbers them; the bits
above the row's are zero. -/
def decodeTableWord (nbits w : Nat) : Option Instr :=
  match decode (leBytes 16 (w % 2 ^ nbits)) with
  | .ok (i, _) => some i
  | .error _ => none

/-! ### The encoder -/

/-- A word with a header, an opcode and a length, every other field zero. -/
def raw0 (h : Hdr) (len : BitVec 2) (opc : BitVec 8) : Raw :=
  { len := len, stall := h.stall, opc := opc, pred := h.pred, pneg := h.pneg, dst := 0#8, sa := 0#8, sb := 0#8, sc := 0#8,
    bp := 0#2, mod := 0#12, ext := 0#64 }

/-- One bit as a vector. -/
def b1 (b : Bool) : BitVec 1 := BitVec.ofBool b

/-- IMM32 in bits [95:64]. -/
def ext32 (v : W32) : BitVec 64 := 0#32 ++ v

/-- `d, a, b` of a BI instruction; the low eleven bits of MOD are given (R179). -/
def rawBI (h : Hdr) (opc : BitVec 8) (m : BitVec 11) (d a : BitVec 8) (b : SrcB) : Raw :=
  match b with
  | .reg r => { raw0 h 0#2 opc with dst := d, sa := a, sb := r.code, mod := 0#1 ++ m }
  | .imm8 i => { raw0 h 0#2 opc with dst := d, sa := a, sc := i, mod := 1#1 ++ m }
  | .imm32 v => { raw0 h 1#2 opc with dst := d, sa := a, mod := 0#1 ++ m, ext := ext32 v }

/-- `d, a`. -/
def rawDA (h : Hdr) (opc : BitVec 8) (m : BitVec 12) (d a : BitVec 8) : Raw :=
  { raw0 h 0#2 opc with dst := d, sa := a, mod := m }
/-- `d, a, b`. -/
def rawDAB (h : Hdr) (opc : BitVec 8) (m : BitVec 12) (d a b : BitVec 8) : Raw :=
  { raw0 h 0#2 opc with dst := d, sa := a, sb := b, mod := m }
/-- `d, a, b, c`. -/
def rawDABC (h : Hdr) (opc : BitVec 8) (m : BitVec 12) (d a b c : BitVec 8) : Raw :=
  { raw0 h 0#2 opc with dst := d, sa := a, sb := b, sc := c, mod := m }

/-- `d, a, b` of a floating-point instruction, b a register or IMM32 (R179). -/
def rawF2 (h : Hdr) (opc : BitVec 8) (m : BitVec 12) (d a : BitVec 8) (b : SrcB) : Raw :=
  match b with
  | .reg r => { raw0 h 0#2 opc with dst := d, sa := a, sb := r.code, mod := m }
  | .imm8 i => { raw0 h 0#2 opc with dst := d, sa := a, sb := i, mod := m }
  | .imm32 v => { raw0 h 1#2 opc with dst := d, sa := a, mod := m, ext := ext32 v }

/-- A branch to a displacement (R205). -/
def rawDisp (h : Hdr) (opc : BitVec 8) (bp : BitVec 2) (d : BitVec 8) (D : BitVec 24) : Raw :=
  { raw0 h 0#2 opc with
    dst := d, sa := D.extractLsb' 0 8, sb := D.extractLsb' 8 8, sc := D.extractLsb' 16 8, bp := bp }

/-- A displacement placed in SC or IMM32 (R69). -/
def withDisp (r : Raw) : Disp → Raw
  | .d8 i => { r with len := 0#2, sc := i }
  | .d32 v => { r with len := 1#2, ext := ext32 v }

/-- A load or store by base and offset (R215). -/
def rawMem (h : Hdr) (opc : BitVec 8) (m4 : BitVec 8) (m3 : BitVec 3) (d a : BitVec 8) (off : Option Reg) (disp : Disp) : Raw :=
  withDisp { raw0 h 0#2 opc with
    dst := d, sa := a, sb := match off with
      | some r => r.code
      | none => 0#8
    mod := m4 ++ b1 off.isSome ++ m3 } disp

/-- An access by handle (R300). -/
def rawHnd (h : Hdr) (opc : BitVec 8) (hn : HandleN) (l2 : Bool) (m3 : BitVec 3) (d : BitVec 8) (off : Option Reg)
    (disp : Disp) : Raw :=
  withDisp { raw0 h 0#2 opc with
    dst := d, sa := match off with
      | some r => r.code
      | none => 0#8
    mod := hn ++ 0#3 ++ b1 l2 ++ b1 off.isSome ++ m3 } disp

/-- An atomic (R227). -/
def rawAtom (h : Hdr) (opc : BitVec 8) (sub pub z : Bool) (op : BitVec 3) (wide : Bool) (d a b : Reg) (disp : Disp) : Raw :=
  withDisp { raw0 h 0#2 opc with
    dst := d.code, sa := a.code, sb := b.code,
    mod := 0#2 ++ b1 sub ++ b1 pub ++ b1 z ++ op ++ 0#1 ++ (if wide then 5#3 else 0#3) } disp

/-- A loop (R210). -/
def rawRfli (h : Hdr) (ord : Bool) (src : IterSrc) (l : LoopLens) : Raw :=
  { raw0 h 0#2 0x75#8 with
    dst := l.plen, sb := l.blen.extractLsb' 0 8, sc := l.tlen,
    sa := match src with
      | .range s => scalarCode s
      | .queue q => 0#5 ++ q
    mod := l.blen.extractLsb' 8 4 ++ l.dlen ++ b1 ord }

/-- A copy instruction (R270). -/
def rawCopy (h : Hdr) (opc : BitVec 8) (keep aon ext dsp tr : Bool) (dest : TileRef) (a b c : BitVec 8) (xtb : Tile)
    (ximm : W32) : Raw :=
  match dest with
  | .tile t => { raw0 h 2#2 opc with
      sa := a, sb := b, sc := c, mod := 0#6 ++ b1 keep ++ b1 aon ++ b1 ext ++ b1 dsp ++ 0#1 ++ b1 tr,
      ext := extWord t xtb 0#4 0#3 0#4 0#6 ximm }
  | .ring n => { raw0 h 2#2 opc with
      sa := a, sb := b, sc := c, mod := 0#6 ++ b1 keep ++ b1 aon ++ b1 ext ++ b1 dsp ++ 1#1 ++ b1 tr,
      ext := extWord 0#6 xtb n 0#3 0#4 0#6 ximm }

/-- A register code, or zero. -/
def codeOpt : Option Reg → BitVec 8
  | some r => r.code
  | none => 0#8

/-- The fields of an instruction. Events of the device have no word; they give the word of NOP. -/
def Instr.toRaw : Instr → Raw
  | .nop h => raw0 h 0#2 0x00#8
  | .mov h d a => rawDA h 0x02#8 0#12 d.code a.code
  | .movi h z d i => { raw0 h 1#2 0x03#8 with dst := d.code, mod := 0#11 ++ b1 z, ext := ext32 i }
  | .moviHi h d i => { raw0 h 1#2 0x03#8 with dst := d.code, mod := 0x002#12, ext := ext32 i }
  | .add h z clamp d a b => rawBI h 0x04#8 (0#9 ++ b1 clamp ++ b1 z) d.code a.code b
  | .sub h z clamp d a b => rawBI h 0x05#8 (0#9 ++ b1 clamp ++ b1 z) d.code a.code b
  | .mul h z clamp d a b => rawBI h 0x06#8 (0#9 ++ b1 clamp ++ b1 z) d.code a.code b
  | .mulh h z d a b => rawBI h 0x07#8 (0#10 ++ b1 z) d.code a.code b
  | .mad h z clamp d a b c => rawDABC h 0x08#8 (0#10 ++ b1 clamp ++ b1 z) d.code a.code b.code c.code
  | .lea h d a b n => rawDABC h 0x09#8 0#12 d.code a.code b.code n
  | .min h z d a b => rawBI h 0x0A#8 (0#10 ++ b1 z) d.code a.code b
  | .max h z d a b => rawBI h 0x0B#8 (0#10 ++ b1 z) d.code a.code b
  | .abs h clamp d a => rawDA h 0x0C#8 (0#10 ++ b1 clamp ++ 0#1) d.code a.code
  | .neg h clamp d a => rawDA h 0x0D#8 (0#10 ++ b1 clamp ++ 0#1) d.code a.code
  | .sat h z d a n => { rawDA h 0x0E#8 (0#11 ++ b1 z) d.code a.code with sc := n }
  | .and h d a b => rawBI h 0x10#8 0#11 d.code a.code b
  | .or h d a b => rawBI h 0x11#8 0#11 d.code a.code b
  | .xor h d a b => rawBI h 0x12#8 0#11 d.code a.code b
  | .andn h d a b => rawBI h 0x13#8 0#11 d.code a.code b
  | .not h d a => rawDA h 0x14#8 0#12 d.code a.code
  | .shl h d a b => rawBI h 0x15#8 0#11 d.code a.code b
  | .shr h d a b => rawBI h 0x16#8 0#11 d.code a.code b
  | .sha h d a b => rawBI h 0x17#8 0#11 d.code a.code b
  | .rot h d a b => rawBI h 0x18#8 0#11 d.code a.code b
  | .clz h d a => rawDA h 0x19#8 0#12 d.code a.code
  | .popc h d a => rawDA h 0x1A#8 0#12 d.code a.code
  | .brev h d a => rawDA h 0x1B#8 0#12 d.code a.code
  | .bfx h z d a b => rawDAB h 0x1C#8 (0#11 ++ b1 z) d.code a.code b.code
  | .bfi h d a b c => rawDABC h 0x1D#8 0#12 d.code a.code b.code c.code
  | .bytx h d a b c => rawDABC h 0x1E#8 0#12 d.code a.code b.code c.code
  | .sel h d a b p => rawDABC h 0x1F#8 0#12 d.code a.code b.code p
  | .cmp h c z p a b => rawBI h 0x20#8 (0#6 ++ c.code ++ 0#1 ++ b1 z) (0#5 ++ p) a.code b
  | .pset h p src =>
    match src with
    | .bin op x y => rawDAB h 0x21#8 (0#9 ++ op.code) (0#5 ++ p) (0#5 ++ x) (0#5 ++ y)
    | .mask a => rawDA h 0x21#8 0x004#12 (0#5 ++ p) a.code
  | .shfl h m d a b => rawBI h 0x22#8 (0#9 ++ m.code) d.code a.code b
  | .vote h m d p => rawDA h 0x23#8 (0#10 ++ m.code) d p
  | .rduc h op rm z d a => rawDA h 0x24#8 (0#5 ++ rm.code ++ b1 z ++ op.code) d.code a.code
  | .scan h op rm z x d a => rawDA h 0x25#8 (0#4 ++ b1 x ++ rm.code ++ b1 z ++ op.code) d.code a.code
  | .mfs h hi d x => { raw0 h 0#2 0x26#8 with dst := d.code, sc := x, mod := 0#11 ++ b1 hi }
  | .mts h hi a x => { raw0 h 0#2 0x27#8 with sa := a.code, sc := x, mod := 0#11 ++ b1 hi }
  | .fadd h rm d a b => rawF2 h 0x40#8 (0#10 ++ rm.code) d.code a.code b
  | .fsub h rm d a b => rawF2 h 0x41#8 (0#10 ++ rm.code) d.code a.code b
  | .fmul h rm d a b => rawF2 h 0x42#8 (0#10 ++ rm.code) d.code a.code b
  | .ffma h rm d a b c => rawDABC h 0x43#8 (0#10 ++ rm.code) d.code a.code b.code c.code
  | .fmin h d a b => rawF2 h 0x44#8 0#12 d.code a.code b
  | .fmax h d a b => rawF2 h 0x45#8 0#12 d.code a.code b
  | .fcmp h c p a b => rawF2 h 0x46#8 (0#7 ++ c.code ++ 0#2) (0#5 ++ p) a.code b
  | .fcls h p a m => { rawDA h 0x47#8 0#12 (0#5 ++ p) a.code with sc := m }
  | .frnd h rm d a => rawDA h 0x48#8 (0#10 ++ rm.code) d.code a.code
  | .fscl h rm d a b => rawBI h 0x49#8 (0#9 ++ rm.code) d.code a.code b
  | .frcp h rm d a => rawDA h 0x4A#8 (0#10 ++ rm.code) d.code a.code
  | .fsqrt h rm d a => rawDA h 0x4B#8 (0#10 ++ rm.code) d.code a.code
  | .frsq h rm d a => rawDA h 0x4C#8 (0#10 ++ rm.code) d.code a.code
  | .fexp2 h d a => rawDA h 0x4D#8 0#12 d.code a.code
  | .flog2 h d a => rawDA h 0x4E#8 0#12 d.code a.code
  | .fdiv h rm d a b => rawF2 h 0x4F#8 (0#10 ++ rm.code) d.code a.code b
  | .hxadd h rm bs d a b => rawDAB h 0x50#8 (0#7 ++ bs.code ++ rm.code) d.code a.code b.code
  | .hxmul h rm bs d a b => rawDAB h 0x51#8 (0#7 ++ bs.code ++ rm.code) d.code a.code b.code
  | .hxfma h rm bs d a b c => rawDABC h 0x52#8 (0#7 ++ bs.code ++ rm.code) d.code a.code b.code c.code
  | .bxadd h rm bs d a b => rawDAB h 0x53#8 (0#7 ++ bs.code ++ rm.code) d.code a.code b.code
  | .bxmul h rm bs d a b => rawDAB h 0x54#8 (0#7 ++ bs.code ++ rm.code) d.code a.code b.code
  | .bxfma h rm bs d a b c => rawDABC h 0x55#8 (0#7 ++ bs.code ++ rm.code) d.code a.code b.code c.code
  | .cvt h dt ty rm clamp ov d a => rawDA h 0x56#8 (b1 ov ++ b1 clamp ++ rm.code ++ ty.code ++ dt.code) d.code a.code
  | .pack h ty rm clamp ov hi d a b c =>
    rawDABC h 0x57#8 (0#5 ++ b1 hi ++ b1 ov ++ b1 clamp ++ rm.code ++ ty.code) d.code a.code b.code c.code
  | .unpk h ty d a k => { rawDA h 0x58#8 (0#9 ++ ty.code) d.code a.code with sc := k }
  | .bra h bp D => rawDisp h 0x70#8 bp 0#8 D
  | .jmp h bp a => { raw0 h 0#2 0x71#8 with sa := a.code, bp := bp }
  | .jmpIndexed h bp a b => { raw0 h 0#2 0x71#8 with sa := a.code, sb := b.code, bp := bp, mod := 0x001#12 }
  | .call h bp l D => rawDisp h 0x72#8 bp l.code D
  | .callR h bp l a => { raw0 h 0#2 0x72#8 with dst := l.code, sa := a.code, bp := bp, mod := 0x001#12 }
  | .ret h bp l => { raw0 h 0#2 0x73#8 with sa := l.code, bp := bp }
  | .brk h c => { raw0 h 0#2 0x74#8 with sc := c }
  | .rfli h src l => rawRfli h false src l
  | .rfliOrd h src l => rawRfli h true src l
  | .rfl h bp => { raw0 h 0#2 0x76#8 with bp := bp }
  | .rflOrd h bp => { raw0 h 0#2 0x76#8 with bp := bp, mod := 0x001#12 }
  | .syng h => raw0 h 0#2 0x77#8
  | .ld h sz d a off disp => rawMem h 0x80#8 0#8 sz.code d.code a.code off disp
  | .st h sz d a off disp => rawMem h 0x81#8 0#8 sz.code d.code a.code off disp
  | .lds h sz d a off disp => rawMem h 0x82#8 0#8 sz.code d.code a.code off disp
  | .sts h sz d a off disp => rawMem h 0x83#8 0#8 sz.code d.code a.code off disp
  | .ldt h sz d a t imm => { rawDA h 0x84#8 (0#9 ++ sz.code) d.code a.code with
      len := 2#2, ext := extWord t 0#6 0#4 0#3 0#4 0#6 imm }
  | .stt h sz d a t imm => { rawDA h 0x85#8 (0#9 ++ sz.code) d.code a.code with
      len := 2#2, ext := extWord t 0#6 0#4 0#3 0#4 0#6 imm }
  | .atom h op z pub sb wide d a b disp => rawAtom h 0x86#8 sb pub z op.code wide d a b disp
  | .atomf h op pub sb d a b disp => rawAtom h 0x87#8 sb pub false op.code false d a b disp
  | .cas h pub sb wide d a b disp => rawAtom h 0x88#8 sb pub false 0#3 wide d a b disp
  | .pref h l2 a off disp => rawMem h 0x89#8 (0#7 ++ b1 l2) 0#3 0#8 a.code off disp
  | .qpop h d q tag => { raw0 h 0#2 0x8A#8 with dst := d.code, sb := codeOpt tag, sc := 0#5 ++ q, mod := 0#11 ++ b1 tag.isSome }
  | .qpush h fin a q tag => { raw0 h 0#2 0x8B#8 with
      sa := a.code, sb := codeOpt tag, sc := 0#5 ++ q, mod := 0#10 ++ b1 fin ++ b1 tag.isSome }
  | .qsta h d q => { raw0 h 0#2 0x8C#8 with dst := d.code, sc := 0#5 ++ q }
  | .spawn h a b => { raw0 h 0#2 0xA0#8 with sa := a.code, sb := b.code }
  | .spawnU h a b => { raw0 h 0#2 0xA0#8 with sa := a.code, sb := b.code, mod := 0x001#12 }
  | .await h => raw0 h 0#2 0xA1#8
  | .exit h => raw0 h 0#2 0xA2#8
  | .exitS h a b => { raw0 h 0#2 0xA2#8 with sa := a.code, sb := b.code, mod := 0x001#12 }
  | .exitJ h a b => { raw0 h 0#2 0xA3#8 with sa := a.code, sb := b.code }
  | .rgrow h d n => { raw0 h 0#2 0xA4#8 with dst := d.code, sc := n }
  | .rshrk h n => { raw0 h 0#2 0xA5#8 with sc := n }
  | .yield h => raw0 h 0#2 0xA6#8
  | .trap h c info => { raw0 h 0#2 0xB0#8 with sa := codeOpt info, sc := c, mod := 0#10 ++ b1 info.isSome ++ 0#1 }
  | .trapK h c info => { raw0 h 0#2 0xB0#8 with sa := codeOpt info, sc := c, mod := 0#10 ++ b1 info.isSome ++ 1#1 }
  | .tret h => raw0 h 0#2 0xB1#8
  | .tretSkip h => { raw0 h 0#2 0xB1#8 with mod := 0x001#12 }
  | .tmark h id val => { raw0 h 0#2 0xB2#8 with sa := codeOpt val, sc := id, mod := 0#11 ++ b1 val.isSome }
  | .ald h sz d hn off disp => rawHnd h 0xC0#8 hn false sz.code d.code off disp
  | .ast h sz d hn off disp => rawHnd h 0xC1#8 hn false sz.code d.code off disp
  | .aprf h l2 hn off disp => rawHnd h 0xCB#8 hn l2 0#3 0#8 off disp
  | .ahq h slct d hn => { raw0 h 0#2 0xC2#8 with dst := d.code, mod := hn ++ 0#6 ++ slct.code }
  | .strm h sz q hn a b c => { rawDABC h 0xC3#8 (0#9 ++ sz.code) 0#8 a.code b.code c.code with
      len := 2#2, ext := extWord 0#6 0#6 0#4 q hn 0#6 0#32 }
  | .gth h sx q hn a b c e => { rawDABC h 0xC4#8 (0#10 ++ b1 sx ++ 0#1) 0#8 a.code b.code c.code with
      len := 2#2, ext := extWord 0#6 0#6 0#4 q hn 0#6 (0#23 ++ e) }
  | .gthQ h sx q hn a qs e => { rawDA h 0xC4#8 (0#10 ++ b1 sx ++ 1#1) 0#8 a.code with
      len := 2#2, ext := extWord 0#6 0#6 0#4 q hn 0#6 (0#17 ++ qs ++ 0#3 ++ e) }
  | .sct h cb hn a qv qi => { rawDA h 0xC5#8 (0#10 ++ cb.code) 0#8 a.code with
      len := 2#2, ext := extWord 0#6 0#6 0#4 qv hn 0#6 (0#17 ++ qi ++ 0#12) }
  | .hprb h d q hn a b qk bits => { rawDAB h 0xC6#8 0#12 d.code a.code b.code with
      len := 2#2, ext := extWord 0#6 0#6 0#4 q hn 0#6 (0#17 ++ qk ++ 0#6 ++ bits) }
  | .isct h d q hn a b c => { rawDABC h 0xC7#8 0#12 d.code a.code b.code c.code with
      len := 2#2, ext := extWord 0#6 0#6 0#4 q hn 0#6 0#32 }
  | .walk h q hn a b rows depth => { rawDAB h 0xC8#8 0#12 0#8 a.code b.code with
      len := 2#2, ext := extWord 0#6 0#6 0#4 q hn 0#6 (0#12 ++ depth ++ rows) }
  | .qput h fin q a b => { raw0 h 0#2 0xCC#8 with sa := a.code, sb := b.code, sc := 0#5 ++ q, mod := 0#11 ++ b1 fin }
  | .qtake h pop d q a => { raw0 h 0#2 0xCD#8 with dst := d.code, sa := a.code, sc := 0#5 ++ q, mod := 0#11 ++ b1 pop }
  | .qend h q => { raw0 h 0#2 0xC9#8 with sc := 0#5 ++ q }
  | .qendX h q =>
    match q with
    | some n => { raw0 h 0#2 0xC9#8 with sc := 0#5 ++ n, mod := 0x001#12 }
    | none => { raw0 h 0#2 0xC9#8 with mod := 0x003#12 }
  | .qclr h q => { raw0 h 0#2 0xCA#8 with sc := 0#5 ++ q }
  | .mlds h t => { raw0 h 2#2 0xE0#8 with ext := extWord t 0#6 0#4 0#3 0#4 0#6 0#32 }
  | .mldsK1 h t => { raw0 h 2#2 0xE0#8 with mod := 0x001#12, ext := extWord t 0#6 0#4 0#3 0#4 0#6 0#32 }
  | .mswp h => raw0 h 0#2 0xE1#8
  | .mma h set bank t m => { raw0 h 2#2 0xE2#8 with sb := m, mod := 0#11 ++ b1 set, ext := extWord t 0#6 0#4 0#3 0#4 bank 0#32 }
  | .mmas h set bank t m => { raw0 h 2#2 0xE3#8 with sb := m, mod := 0#11 ++ b1 set, ext := extWord t 0#6 0#4 0#3 0#4 bank 0#32 }
  | .mbmp h set bank ta tb m => { raw0 h 2#2 0xE4#8 with
      sb := m, mod := 0#11 ++ b1 set, ext := extWord ta tb 0#4 0#3 0#4 bank 0#32 }
  | .mhad h p t => { raw0 h 2#2 0xE5#8 with mod := 0#10 ++ p.code, ext := extWord t 0#6 0#4 0#3 0#4 0#6 0#32 }
  | .mprn h n m tr td ts => { raw0 h 2#2 0xE6#8 with
      mod := 0#5 ++ b1 tr ++ m ++ n, ext := extWord td ts 0#4 0#3 0#4 0#6 0#32 }
  | .acal h i32 bank n1 => { raw0 h 0#2 0xE7#8 with sc := 0#2 ++ bank, mod := n1 ++ 0#5 ++ b1 i32 }
  | .acfr h bank n1 => { raw0 h 0#2 0xE8#8 with sc := 0#2 ++ bank, mod := n1 ++ 0#6 }
  | .acclm h pair bank first count => { raw0 h 2#2 0xE9#8 with
      mod := 0#11 ++ b1 pair, ext := extWord 0#6 0#6 0#4 0#3 0#4 bank (0#18 ++ count ++ 0#3 ++ first) }
  | .acz h bank => { raw0 h 0#2 0xEA#8 with sc := 0#2 ++ bank }
  | .acrdVector h c d bank => { raw0 h 2#2 0xEB#8 with
      dst := BitVec.ofNat 8 d.val, ext := extWord 0#6 0#6 0#4 0#3 0#4 bank (0#30 ++ c) }
  | .acrdScalar h d bank rw col => { raw0 h 2#2 0xEB#8 with
      dst := scalarCode d, ext := extWord 0#6 0#6 0#4 0#3 0#4 bank (0#18 ++ col ++ 0#3 ++ rw) }
  | .acst h k clamp tr cnt rm t bank first rows cols => { raw0 h 2#2 0xEC#8 with
      dst := codeOpt cnt, mod := 0#3 ++ rm.code ++ b1 cnt.isSome ++ b1 tr ++ b1 clamp ++ k.code,
      ext := extWord t 0#6 0#4 0#3 0#4 bank (0#9 ++ cols ++ 0#2 ++ rows ++ 0#3 ++ first) }
  | .mstat h slct d =>
    match slct with
    | .plane => { raw0 h 0#2 0xED#8 with dst := d.code }
    | .bank n => { raw0 h 0#2 0xED#8 with dst := d.code, sc := 0#2 ++ n, mod := 0x001#12 }
    | .mark n => { raw0 h 0#2 0xED#8 with dst := d.code, sc := 0#2 ++ n, mod := 0x002#12 }
    | .busy => { raw0 h 0#2 0xED#8 with dst := d.code, mod := 0x003#12 }
  | .mwait h => raw0 h 0#2 0xEE#8
  | .cpl h aon dsp ext dest a b => rawCopy h 0xF0#8 false aon ext.isSome dsp false dest a.code b.code (codeOpt ext) 0#6 0#32
  | .cps h keep aon dsp src a b => rawCopy h 0xF1#8 keep aon false dsp false src a.code b.code 0#8 0#6 0#32
  | .cpf h dest a b kindw => rawCopy h 0xF2#8 false false false false false dest a.code b.code 0#8 0#6 kindw
  | .cpx h tr dest src => rawCopy h 0xF3#8 false false false false tr dest 0#8 0#8 0#8 src 0#32
  | .cpw h => raw0 h 0#2 0xF4#8
  | .rini h r t c => { raw0 h 2#2 0xF5#8 with ext := extWord t 0#6 r 0#3 0#4 0#6 (0#27 ++ c) }
  | .awf h d r => { raw0 h 0#2 0xF6#8 with dst := codeOpt d, sc := 0#4 ++ r, mod := 0#11 ++ b1 d.isSome }
  | .rlsRing h r => { raw0 h 0#2 0xF7#8 with sc := 0#4 ++ r }
  | .rlsTile h t => { raw0 h 0#2 0xF7#8 with sc := 0#2 ++ t, mod := 0x001#12 }
  | .rsta h d r => { raw0 h 0#2 0xF8#8 with dst := d.code, sc := 0#4 ++ r }
  | .tsta h slct d t => { raw0 h 0#2 0xF9#8 with dst := d.code, sc := 0#2 ++ t, mod := 0#9 ++ slct }
  | .tbindSp h t a cap => { raw0 h 2#2 0xFA#8 with sa := a.code, ext := extWord t 0#6 0#4 0#3 0#4 0#6 cap }
  | .tbindRd h t r => { raw0 h 2#2 0xFA#8 with mod := 0x001#12, ext := extWord t 0#6 r 0#3 0#4 0#6 0#32 }
  | .tbindWr h t r => { raw0 h 2#2 0xFA#8 with mod := 0x002#12, ext := extWord t 0#6 r 0#3 0#4 0#6 0#32 }
  | .tbindSelf h t => { raw0 h 2#2 0xFA#8 with mod := 0x003#12, ext := extWord t 0#6 0#4 0#3 0#4 0#6 0#32 }
  | _ => raw0 { stall := 0#4, pred := 7#3, pneg := false } 0#2 0x00#8

/-- Whether a constructor stands for an instruction that issues (neither PAD32 nor an event). -/
def Instr.issues : Instr → Bool
  | .pad32 => false
  | .nop _ => true
  | i => i.toRaw.opc != 0x00#8

/-- The bytes of an instruction, in memory order; an event of the device has none. -/
def encode (i : Instr) : List Byte :=
  if i == .pad32 then leBytes 4 3
  else if i.issues then leBytes (lenBytes i.toRaw.len) i.toRaw.toWord.toNat
  else []

end Sys2Proof
end

