-- ==== Sys2Proof/Machine/Bits.lean ====
section
/-! DEFINITION. Bit-field, sign-extension and byte-order helpers (R2), and lane masks as lists of lanes. -/

namespace Sys2Proof.Machine

/-- A lane mask. -/
abbrev LMask := BitVec 64

/-- Whether a lane is in a mask. -/
def hasLane (m : LMask) (l : Nat) : Bool := m.getLsbD l

/-- The lanes of a mask, in increasing order. -/
def lanesOf (m : LMask) : List Nat := (List.range 64).filter fun l => m.getLsbD l

/-- The mask of one lane. -/
def laneBit (l : Nat) : LMask := BitVec.twoPow 64 l

/-- The mask of a list of lanes. -/
def maskOf (ls : List Nat) : LMask := ls.foldl (fun m l => m ||| laneBit l) 0#64

/-- The lanes 0 to w − 1. -/
def fullMask (w : Nat) : LMask := BitVec.ofNat 64 (2 ^ w - 1)

/-- A 32-bit pattern zero-extended to 64 bits. -/
def zx (v : W32) : W64 := v.setWidth 64

/-- A 32-bit pattern sign-extended to 64 bits. -/
def sx (v : W32) : W64 := v.signExtend 64

/-- Bits [31:0]. -/
def lo32 (v : W64) : W32 := v.setWidth 32

/-- Bits [63:32]. -/
def hi32 (v : W64) : W32 := v.extractLsb' 32 32

/-- A 64-bit word from its halves. -/
def join64 (hi lo : W32) : W64 := hi ++ lo

/-- The bits [hi:lo] of a number. -/
def nbits (v lo n : Nat) : Nat := v / 2 ^ lo % 2 ^ n

/-- Little-endian value of bytes (R2). -/
def bytesVal : List Byte → Nat
  | [] => 0
  | b :: bs => b.toNat + 256 * bytesVal bs

/-- The n little-endian bytes of a number (R2). -/
def valBytes : Nat → Nat → List Byte
  | 0, _ => []
  | n + 1, v => BitVec.ofNat 8 v :: valBytes n (v / 256)

/-- The value of n bytes at an offset of a list of bytes; bytes past its end read zero. -/
def field (bs : List Byte) (off n : Nat) : Nat := bytesVal ((bs.drop off).take n)

/-- The signed value of a number of n bits. -/
def sgnOf (n v : Nat) : Int := if v < 2 ^ (n - 1) then v else (v : Int) - 2 ^ n

/-- An integer modulo 2^n. -/
def wrapNat (n : Nat) (v : Int) : Nat := (v % (2 ^ n : Nat)).toNat

/-- A number rounded up to a multiple. -/
def roundUp (v m : Nat) : Nat := (v + m - 1) / m * m

/-- The base-2 logarithm of 8, 16, 32 or 64. -/
def log2w (w : Nat) : Nat := if w ≤ 8 then 3 else if w ≤ 16 then 4 else if w ≤ 32 then 5 else 6

/-- The least value of a list, or a default. -/
def minD (d : Nat) : List Nat → Nat
  | [] => d
  | x :: xs => xs.foldl Nat.min x

/-- Removes the first occurrence of a value. -/
def removeOnce {α : Type} [DecidableEq α] (x : α) : List α → List α
  | [] => []
  | y :: ys => if y = x then ys else y :: removeOnce x ys

/-- The values of a list without repeats, first occurrences kept. -/
def dedupN (xs : List Nat) : List Nat := xs.foldl (fun acc x => if acc.contains x then acc else acc ++ [x]) []

/-- Insertion into a rising list of numbers, without repeats. -/
def insertN (x : Nat) : List Nat → List Nat
  | [] => [x]
  | y :: ys => if x < y then x :: y :: ys else if x = y then y :: ys else y :: insertN x ys

/-- The rising list without repeats of the values of a list. -/
def sortN (xs : List Nat) : List Nat := xs.foldl (fun acc x => insertN x acc) []

end Sys2Proof.Machine
end

