-- ==== Sys2Proof/Machine/Map.lean ====
section
/-! DEFINITION. Finite maps from numbers as sorted lists of pairs, in one canonical form: keys strictly rising. A byte
memory is such a map that lists no byte equal to what an unlisted address reads as. -/

namespace Sys2Proof.Machine

/-- A finite map keyed by numbers. -/
abbrev SMap (α : Type) := List (Nat × α)

namespace SMap

/-- The entry of a key. -/
def get {α : Type} : SMap α → Nat → Option α
  | [], _ => none
  | (j, v) :: m, k => if j = k then some v else get m k

/-- The map with one entry written. -/
def set {α : Type} : SMap α → Nat → α → SMap α
  | [], k, v => [(k, v)]
  | (j, w) :: m, k, v => if k < j then (k, v) :: (j, w) :: m else if k = j then (k, v) :: m else (j, w) :: set m k v

/-- The map without a key. -/
def del {α : Type} (m : SMap α) (k : Nat) : SMap α := m.filter fun p => p.1 != k

/-- An entry changed where it is present. -/
def adjust {α : Type} (f : α → α) : SMap α → Nat → SMap α
  | [], _ => []
  | (j, w) :: m, k => if j = k then (j, f w) :: m else (j, w) :: adjust f m k

/-- Every value changed. -/
def mapVal {α β : Type} (f : Nat → α → β) (m : SMap α) : SMap β := m.map fun p => (p.1, f p.1 p.2)

/-- The entries that satisfy a test. -/
def keep {α : Type} (f : Nat → α → Bool) (m : SMap α) : SMap α := m.filter fun p => f p.1 p.2

/-- The values in key order. -/
def vals {α : Type} (m : SMap α) : List α := m.map Prod.snd

/-- The keys in order. -/
def keys {α : Type} (m : SMap α) : List Nat := m.map Prod.fst

/-- Keys above a bound, strictly rising. -/
def rising {α : Type} (lo : Nat) : SMap α → Bool
  | [] => true
  | (j, _) :: m => decide (lo ≤ j) && rising (j + 1) m

/-- Canonical form of a map: keys strictly rising. -/
def wf {α : Type} (m : SMap α) : Bool := rising 0 m

end SMap

/-- A byte memory: a map that lists no zero byte. What an unlisted address reads as is zero (DESIGN CHOICE, assumption log 5). -/
abbrev Memory := List Host.Cell

namespace Memory

/-- What an address that is not listed reads as. -/
def unlisted : Byte := 0#8

/-- One byte. -/
def read (m : Memory) (a : Nat) : Byte := (SMap.get m a).getD unlisted

/-- One byte written; writing what an unlisted address reads as removes the entry. -/
def write (m : Memory) (a : Nat) (b : Byte) : Memory := if b = unlisted then SMap.del m a else SMap.set m a b

/-- n bytes from an address upward. -/
def readN (m : Memory) (a : Nat) : Nat → List Byte
  | 0 => []
  | n + 1 => read m a :: readN m (a + 1) n

/-- Bytes written from an address upward. -/
def writeN (m : Memory) (a : Nat) : List Byte → Memory
  | [] => m
  | b :: bs => writeN (write m a b) (a + 1) bs

/-- Canonical form of a byte memory: addresses strictly rising and no byte listed that equals the unlisted one. -/
def wf (m : Memory) : Bool := SMap.wf m && m.all fun p => p.2 != unlisted

end Memory

end Sys2Proof.Machine
end

