-- ==== Sys2Proof/Machine/State.lean ====
section
/-! DEFINITION. The state of a CX4 package as plain data: memory, cores, tasks, their groups, sequencers and access
contexts, the engines' operations, the kernel's registers, the links, and the list of moves that outside parties and the
free choices of the device supply. Each field names the rule of spec/ that gives it. -/

namespace Sys2Proof.Machine

/-- Why a step stops. Neither names a behaviour of the device: each marks a use of the model from outside it. -/
inductive Fault where
  /-- Raised by a meaning of an issued instruction when no unit is selected to issue it (`State.cur` names none). No
  step reaches it: `step` selects the unit first. Safe: the model stops where no device is described. -/
  | noIssuer
  deriving DecidableEq, Repr

/-- Why an instruction has no meaning. -/
inductive Refusal where
  /-- Raised only by an arm of `exec` whose instruction has not been modelled. Safe: the model stops. -/
  | notModelled (mnemonic : String)
  deriving DecidableEq, Repr

/-! ### Groups, sequencers and access contexts -/

/-- The destination of a late result: a register or a predicate (R76). -/
inductive Dst where
  | r (r : Reg)
  | p (p : Pred)
  deriving DecidableEq, Repr

/-- A fixed-latency result in the completion buffer (R78): the nominal count at which it is written, its destination and
its value for each lane; a scalar register has one value, for lane 0. -/
structure Late where
  due : Nat
  dst : Dst
  vals : List (Nat × W64)
  deriving DecidableEq, Repr

/-- A variable-latency result that is outstanding (R76): destination, lanes, and the request that will write it. -/
structure VPend where
  dst : Dst
  mask : BitVec 64
  req : Nat
  deriving DecidableEq, Repr

/-- The blocked states of R159, with what the release needs, and two stops that end a lane's issue: an escalation (R238)
and a breakpoint or step stop (R399, R400). -/
inductive Wait where
  | syng
  | await
  | exit
  | rfl (bp : BitVec 2) (held : BitVec 64)
  | exitj
  | rfli (ord : Bool) (src : IterSrc) (lens : LoopLens)
  | grant (bp : BitVec 2)
  | ord
  | awf (d : Option Reg) (r : Ring)
  | cps (keep aon dsp : Bool) (r : Ring) (a b : Reg)
  | qpop (d : Reg) (q : QueueN) (tag : Option Reg)
  | qpush (words : List W32) (tag : W32) (q : QueueN)
  | rgrow (d : Reg) (n : Nat)
  | escalated
  | stopped (brk : Bool)
  deriving DecidableEq, Repr

/-- A frontier entry (R157, R160). `solo` marks the entry of a stepped lane, which merges with no other (R400). -/
structure Entry where
  pc : W64
  prio : BitVec 2
  mask : BitVec 64
  blk : Option Wait
  cnt : Nat
  aged : Bool
  solo : Bool
  deriving DecidableEq, Repr

/-- What a lane is doing (R153, R168, R170). `never` and `exited` and `spent` are Idle (R7); `spent` was made Idle by an
exhausted source and may enter `.drain`. -/
inductive LaneSt where
  | never
  | live
  | spent
  | exited
  deriving DecidableEq, Repr

/-- A grant allocated to a lane and not yet taken (R165 to R167): none because the source is exhausted, an iteration, the
one grant of a POISON entry, or QUEUE_MISUSE of an entry whose tag is above the group's width. -/
inductive Grant where
  | exhausted
  | iter (age : Nat) (it : W32)
  | poison (age : Nat) (info : W64)
  | misuse (tag : Nat)
  deriving DecidableEq, Repr

/-- The state of one lane (R153). `grant` is the grant allocated and not yet taken. `badGrant` marks a lane that took
QUEUE_MISUSE in place of a grant (R165); `mreset` a lane that a matrix reset will trap at its next boundary (R382), and
`mtrap` one whose trap is that MATRIX_RESET. `remoteDirty` and `lossSeen` are the remote-dirty bit and the count of losses
at its last clearing (R412). -/
structure Lane where
  st : LaneSt
  inIter : Bool
  iter : W32
  age : W32
  depth : Nat
  trapped : Bool
  tpc : W64
  tcause : W32
  tinfo : W64
  savedPrio : BitVec 2
  frame : Option Nat
  grant : Option Grant
  badGrant : Bool
  mreset : Bool
  mtrap : Bool
  remoteDirty : Bool
  lossSeen : Nat
  deriving DecidableEq, Repr

/-- The running source of a loop instance (R165). -/
inductive LoopSrc where
  | range (first last : W32)
  | queue (q : QueueN) (words : List W32) (ended : Bool)
  deriving DecidableEq, Repr

/-- A loop instance (R163 to R171): the address of its RFLI, its sections, its source, the next age, the ages whose
retire has finished, and the lanes that wait for a word of the queue, in the order of R166, with whether their entry to
the loop is at its RFLI. -/
structure Loop where
  addr : W64
  ord : Bool
  lens : LoopLens
  src : LoopSrc
  nextAge : Nat
  finished : List Nat
  waiting : List Nat
  exhausted : Bool
  deriving DecidableEq, Repr

/-- The checkpoint of R247, with what run-ahead has issued, the pages it has found, the lanes that have stopped, the lanes
whose access missed at the issue in progress, and the unresolved values. -/
structure RunAhead where
  vregs : SMap W32
  sregs : SMap W64
  preds : SMap (BitVec 64)
  lanes : SMap Lane
  frontier : List Entry
  nominal : Nat
  late : List Late
  loop : Option Loop
  issued : Nat
  pages : List Nat
  stopped : BitVec 64
  missed : BitVec 64
  unresolved : List (Dst × BitVec 64)
  deriving DecidableEq, Repr

/-- A handle register (R292): the bound entry's words, its region number, and whether it is declared and valid. -/
structure HReg where
  declared : Bool
  valid : Bool
  base : W64
  limit : W64
  ctl : W32
  region : BitVec 15
  deriving DecidableEq, Repr

/-- Destination bytes of an engine operation: an address, a value, and the bits of the byte that are written. -/
abbrev Cells := List (Nat × Byte × Byte)

/-- A streaming operation in a stream slot (R288): the instruction, its place in issue order, its PC and the operands read at
issue; the next item; the words packed so far and the entries still to be appended, with one list of words for each queue that
it produces into (R296); the words and the tag of the source entry in use, and whether its first output entry is to come (R297);
the count that DST receives; WALK's open row and next row; ISCT's offsets; SCT's lines and the fault at which it stopped (R312);
the pages that the coalescer was told of, and whether nothing more is produced. -/
structure Stream where
  instr : Instr
  seq : Nat
  pc : W64
  a : W64
  b : W64
  c : W64
  item : Nat
  words : List (List W32)
  out : List (List (List W32) × W32)
  src : List W32
  srcTag : Option W32
  first : Bool
  count : Nat
  row : Option Nat
  rowNext : Nat
  pos : Nat
  pos2 : Nat
  lines : List (Nat × Cells)
  halt : Option (Nat × W64)
  served : List Nat
  finished : Bool
  deriving DecidableEq, Repr

/-- The gang role of a group (R128). A group of a task that is no gang is in the vector role. -/
inductive Role where
  | copy | matrix | vector
  deriving DecidableEq, Repr

/-- The three kinds of unit that issue instructions (R81, R82). -/
inductive UnitKind where
  | group | seq | acc
  deriving DecidableEq, Repr

/-- A unit that issues: a lane group (R155), a sequencer strand or an access context, each of one lane (R82). Of an access
context: `accFault` is the fault that stopped it, `appended` the queues that it has appended to, and `poison` those that are
still owed a POISON or an END entry (R323). -/
structure Unit where
  kind : UnitKind
  task : Nat
  core : Nat
  role : Role
  index : Nat
  slot : Nat
  width : Nat
  lmask : BitVec 64
  regs : Nat
  regmax : Nat
  vregs : SMap W32
  sregs : SMap W64
  preds : SMap (BitVec 64)
  lanes : SMap Lane
  frontier : List Entry
  nominal : Nat
  late : List Late
  vpend : List VPend
  loop : Option Loop
  runAhead : Option RunAhead
  service : List Nat
  lastIssue : Nat
  lastRelease : Option W64
  copyFault : Option (Nat × W64)
  copyWrote : Bool
  streams : SMap Stream
  handles : SMap HReg
  accFault : Option (Nat × W64 × W64 × Nat)
  appended : List Nat
  poison : Option (List (Nat × Bool))
  replays : Nat
  deriving DecidableEq, Repr

/-! ### Tasks -/

/-- State of a tile entry (R258). -/
inductive TileState where
  | empty | filling | ready | draining
  deriving DecidableEq, Repr

/-- A clearing-table entry (R258). `fault` holds a data fault of R277: its cause and `%tinfo`. -/
structure TileEnt where
  base : BitVec 20
  cap : Nat
  ring : Option Ring
  phase : Bool
  st : TileState
  aliasOf : Nat
  fault : Option (Nat × W64)
  deriving DecidableEq, Repr

/-- A ring object (R278). -/
structure RingSt where
  init : Bool
  first : Nat
  count : Nat
  rptr : Nat
  rph : Bool
  wptr : Nat
  wph : Bool
  rev : Bool
  deriving DecidableEq, Repr

/-- A hardware queue's state in the core (R294); its entries lie in scratchpad. -/
structure QueueSt where
  base : Nat
  cap : Nat
  head : Nat
  count : Nat
  closed : Bool
  deriving DecidableEq, Repr

/-- A registered successor (EXIT.S) or continuation (EXITJ) (R143). -/
structure Registration where
  join : Bool
  addr : W64
  record : List Byte
  arg : W64
  deriving DecidableEq, Repr

/-- Where a task is (R134, R143, R148, R151). -/
inductive TaskSt where
  | resident
  | shadowed
  | spilled
  | parked
  | parking
  | pending
  | done
  deriving DecidableEq, Repr

/-- A stationary plane with its state and held scale bytes (R335, R336). Values are keyed by 64 × row + column; a key that is
not listed is an absent element or +0, which are one to every pass (R105). -/
structure Plane where
  valid : Bool
  kext : Nat
  next : Nat
  kindw : W32
  vals : SMap W32
  scales : List Byte
  deriving DecidableEq, Repr

/-- A placed task (R126, R136). `planes` are the stationary planes of a parked task that held them (R337); `awaitSince` the
cycle since which an awaiting strand has had a child unplaced (R148). -/
structure Task where
  part : Nat
  asn : Nat
  proc : Nat
  launch : Nat
  record : List Byte
  addr : W64
  index : W32
  depth : Nat
  parent : Option Nat
  core : Nat
  st : TaskSt
  slot : Option Nat
  restoring : Bool
  units : List Nat
  spad : Memory
  spadSize : Nat
  tiles : SMap TileEnt
  rings : SMap RingSt
  queues : SMap QueueSt
  wq : Nat
  banks : SMap Nat
  planes : Option (Plane × Plane)
  reg : Option Registration
  joins : Nat
  lastAct : W64
  awaitSince : Option W64
  hungSent : Bool
  mreset : Bool
  deriving DecidableEq, Repr

/-- A queue entry on its way to placement (R130, R131, R140). `id` is the number of the task it becomes; `claimed` says that a
SPAWN passed it claims (R349); `cont` marks a successor or continuation and names the task whose scratchpad and tiles it
inherits (R143). -/
structure QEntry where
  id : Nat
  part : Nat
  asn : Nat
  proc : Nat
  launch : Nat
  record : List Byte
  addr : W64
  arg : W64
  depth : Nat
  index : W32
  parent : Option Nat
  home : Nat
  claimed : Bool
  cont : Option Nat
  passed : Nat
  deriving DecidableEq, Repr

/-- A frame (R137), keyed by its address (DESIGN CHOICE, assumption log 56). -/
structure Frame where
  parent : W64
  pend : Nat
  status : Nat
  depth : Nat
  home : Nat
  cont : W64
  carg : W64
  task : Nat
  part : Nat
  deriving DecidableEq, Repr

/-! ### Engines of a core -/

/-- What a copy does: CPL and CPS with `.aon`, and CPS with `.keep`; CPF with its kind word; CPX with its source. -/
inductive CopyKind where
  | load (aon : Bool)
  | store (keep aon : Bool)
  | fill (kindw : W32)
  | move (tr : Bool) (src : Nat)
  deriving DecidableEq, Repr

/-- A copy in flight (R271 to R274, R277): its strand, task and PC, its kind, the descriptor and coordinates that it read, EXT
of a load, the operands of a fill, the entry filled or stored, the header of its source, and the payload bytes of a CPX. For
a store: the fault at which it stopped, the lines still to be written, and whether it has asked for them. For `.aon`: the
version that a load has read, or that a store has made odd. `served` lists the pages that the coalescer was told of, and
`draw` numbers the free values of its groups. -/
structure CopyOp where
  unit : Nat
  lane : Nat
  task : Nat
  pc : W64
  kind : CopyKind
  desc : List Byte
  coords : List Int
  ext : Option Nat
  a : W64
  b : W64
  tile : Nat
  hdr : List Byte
  count : Nat
  version : Option Nat
  started : Bool
  wrote : Bool
  fault : Option (Nat × W64)
  lines : List (Nat × Cells)
  served : List Nat
  draw : Nat
  deriving DecidableEq, Repr

/-- A matrix operation (R342, R353, R354): its strand, instruction and PC; whether it is accepted, and while it waits, whether
it is a pass that waits for the reservation. Of an accepted one: the cycle before which it does not complete, the banks it
names, its streamed or drained rows each as (row number, bank, accumulator row), the entry that it fills, and the headers and
payloads of its source tiles. -/
structure MatOp where
  id : Nat
  unit : Nat
  lane : Nat
  task : Nat
  instr : Instr
  pc : W64
  accepted : Bool
  turn : Bool
  doneAt : W64
  banks : List Nat
  rows : List (Nat × Nat × Nat)
  tile : Nat
  srcs : List (List Byte × List Byte)
  deriving DecidableEq, Repr

/-- An accumulator bank (R347). Cells are keyed by 64 × row + column, unlisted cells are zero; `marks` are the Mode F row
marks. -/
structure Bank where
  task : Nat
  i32 : Bool
  ovf : Bool
  cells : SMap W32
  marks : BitVec 32
  freeing : Bool
  deriving DecidableEq, Repr

/-- A claim on a band of rows of a bank (R349): pending on a strand of `unit` and `lane`, or live for a holder task. -/
structure Claim where
  bank : Nat
  name : Nat
  first : Nat
  count : Nat
  owner : Option Nat
  unit : Nat
  lane : Nat
  deriving DecidableEq, Repr

/-- The engine context that a swap exchanges (R17, R151). -/
structure CoreCtx where
  tasks : List Nat
  active : Plane
  shadow : Plane
  hold : Option Nat
  banks : SMap Bank
  claims : List Claim
  mops : List MatOp
  passEnd : W64
  copies : SMap CopyOp
  rgrow : List (Nat × Nat × Reg × W64)
  deriving DecidableEq, Repr

/-- A byte of the L1 (R46, R48, R51): its value, whether it is dirty, the stamp of the fill that brought it, and the
ownership epoch of that fill. A byte without a fill has no stamp. -/
structure L1Byte where
  val : Byte
  dirty : Bool
  stamp : Option Nat
  epoch : Nat
  deriving DecidableEq, Repr

/-- A TLB entry (R409): address space, size (0, 1, 2), page number, frame bits and permissions. -/
structure TlbEntry where
  asn : Nat
  size : Nat
  vpn : Nat
  pfn : Nat
  x : Bool
  w : Bool
  r : Bool
  deriving DecidableEq, Repr

/-- A byte that a fill brings: its address, the value read at home, the epoch of its line and the fill's stamp (R46, R51). -/
structure FillByte where
  addr : Nat
  val : Byte
  epoch : Nat
  stamp : Nat
  deriving DecidableEq, Repr

/-- An outstanding request of a core (R46, R76, R218): what it writes when it returns, register by register, and the bytes
it brings for the L1. -/
structure Req where
  unit : Nat
  writes : List (Dst × List (Nat × W64))
  fill : List FillByte
  deriving DecidableEq, Repr

/-- An outstanding request of a lane to another package (R403, R411, R417): the line, the bytes asked for, whether it is an
atomic, the stamp of the fill, what has come back, and whether the target was lost first. -/
structure Far where
  unit : Nat
  lane : Nat
  pkg : Nat
  line : Nat
  mask : BitVec 128
  atomic : Bool
  stamp : Nat
  data : Option (List Byte)
  lost : Bool
  deriving DecidableEq, Repr

/-- A coalescer record, open or closed (R251). -/
structure CoalRec where
  part : Nat
  kind : Nat
  cause : Nat
  cyc : W64
  addr : W64
  pc : W64
  lane : Nat
  groups : BitVec 256
  proc : Nat
  deriving DecidableEq, Repr

/-- A breakpoint comparator (R399). -/
structure Comparator where
  addr : W64
  en : Bool
  all : Bool
  slot : BitVec 11
  deriving DecidableEq, Repr

/-- The context set held in the shadow bank or in a spill slot: the engine context and the core it came from (R151). -/
structure CtxSet where
  core : Nat
  ctx : CoreCtx
  deriving DecidableEq, Repr

/-- What a spill slot holds (R148, R151, R421). -/
inductive SlotUse where
  | set (s : CtxSet)
  | park (task : Nat)
  | inherit (task : Nat)
  deriving DecidableEq, Repr

/-- A sample whose last data has not returned (R395, R396). -/
structure Sample where
  unit : Nat
  lane : Nat
  pc : W64
  opc : BitVec 8
  mask : BitVec 64
  sectors : Nat
  replays : Nat
  req : Option Nat
  deriving DecidableEq, Repr

/-- One core (R17). -/
structure Core where
  cyc : W64
  l1 : SMap L1Byte
  fillCtr : W64
  edgeStamp : Nat
  l1sz : BitVec 3
  l1next : BitVec 3
  l1pend : Bool
  sslot : BitVec 16
  fslot : BitVec 16
  spill : Bool
  fill : Bool
  ready : Bool
  err : Bool
  softSwap : Bool
  forceSwap : Bool
  loadWait : Bool
  clearWait : Bool
  yielded : Bool
  spillWork : List Nat
  shadow : Option CtxSet
  spillSet : Option CtxSet
  ctx : CoreCtx
  hangEn : Bool
  hangLim : BitVec 5
  traceCtl : W32
  comparators : SMap Comparator
  mresetBusy : Bool
  mresetEnded : BitVec 9
  mresetCount : Nat
  coal : List CoalRec
  coalClosed : List CoalRec
  tlb : List TlbEntry
  glade : List QEntry
  conts : List QEntry
  reqs : SMap Req
  far : SMap Far
  coalWait : List CoalRec
  issues : Nat
  runAheadIssues : Nat
  prefDrops : Nat
  aonRetries : Nat
  stallShorts : Nat
  sampleCtr : Nat
  samples : List Sample
  lastTrace : W64
  failSince : SMap W64
  inReset : Bool
  deriving DecidableEq, Repr

/-! ### Dies, partitions and the package -/

/-- A line's ownership directory entry (R50): epoch, owner, and the operations that wait, in request order. An operation is
(core, engine, number): engine 0 is the copy engine, 1 the Understory. -/
structure LineDir where
  epoch : BitVec 16
  owner : Option (Nat × Nat × Nat)
  queue : List (Nat × Nat × Nat)
  deriving DecidableEq, Repr

/-- A cached line of an L2 slice: set and tag in the key's place, way, and recency (R20, R24). -/
structure L2Line where
  line : Nat
  way : Nat
  used : Nat
  deriving DecidableEq, Repr

/-- An L2 slice (R20, R24, R25, R402). -/
structure Slice where
  sets : SMap (List L2Line)
  ctrs : SMap Nat
  hits : Nat
  misses : Nat
  retained : Nat
  drops : Nat
  fillDue : Option (Nat × Nat × Nat)
  deriving DecidableEq, Repr

/-- A trace record (R391). -/
structure TraceRec where
  seq : Nat
  aux : Nat
  ty : Nat
  cyc : W64
  pc : W64
  data : W32
  core : Nat
  part : Nat
  unit : Nat
  lane : Nat
  body : Option (List Byte)
  deriving DecidableEq, Repr

/-- A staging segment (R397, R398): its place in the ring, its number, its records, and how far it has come. -/
structure Segment where
  place : Nat
  segno : Nat
  recs : List TraceRec
  closed : Bool
  submitted : Bool
  overwritten : Nat
  deriving DecidableEq, Repr

/-- One compute die (R22, R131, R391, R397, R401). -/
structure Die where
  homeMap : SMap Nat
  canopy : List QEntry
  seq : Nat
  segno : Nat
  staging : W64
  stagingCnt : Nat
  segments : List Segment
  overwritten : Nat
  prevDigest : List Byte
  heartHead : Nat
  heartWraps : Nat
  heartResets : Nat
  heartFrozen : Bool
  heart : SMap TraceRec
  dry : SMap (List Nat)
  stolen : SMap (List QEntry)
  attest : List (List Byte)
  key : List Byte
  deriving DecidableEq, Repr

/-- A residency range register (R23). -/
structure Resid where
  base : W64
  lim : W64
  en : Bool
  clip : Bool
  ways : Nat
  sample : Nat
  deriving DecidableEq, Repr

/-- The arena registers of a partition (R421). -/
structure Arena where
  ovfBase : W64
  ovfCnt : W32
  frmBase : W64
  frmCnt : W32
  splBase : W64
  splCnt : BitVec 16
  frBase : W64
  frLog : BitVec 5
  frHead : W32
  frTail : W32
  htBase : W64
  htCnt : BitVec 16
  deriving DecidableEq, Repr

/-- A partition (R11, R420). -/
structure Part where
  clusters : List Nat
  granules : List (Nat × Nat)
  resid : SMap Resid
  arena : Arena
  overflow : List (Nat × QEntry)
  slots : SMap SlotUse
  tlbBusy : Bool
  tlbScope : BitVec 2
  tlbArg : W64
  vf : Bool
  bar2 : W64
  faultIrq : Nat
  deriving DecidableEq, Repr

/-- A host launch in distribution (R130). -/
structure Launch where
  part : Nat
  asn : Nat
  proc : Nat
  record : List Byte
  addr : W64
  count : Nat
  next : SMap Nat
  live : Nat
  deriving DecidableEq, Repr

/-- A refused or finished matter that the kernel or the host is told of (R77, R129, R413, R414). -/
inductive Report where
  | launchRefused (addr info : W64)
  | launchDone (launch : Nat)
  | migrationRefused (asn : Nat) (va : W64)
  | imageRefused (die : Nat)
  | stop (unit lane : Nat)
  | hostData (pa : Nat) (bytes : List Byte)
  deriving DecidableEq, Repr

/-- A Bynel port (R417): whether it is down, the flits to send with their TYPE, the failed resends of the last one, and the
last one sent. -/
structure Port where
  down : Bool
  sendQ : List (Nat × Flit)
  resends : Nat
  lastFlit : Option (Nat × Flit)
  deriving DecidableEq, Repr

/-- A page migration in progress (R413). -/
structure Migration where
  asn : Nat
  size : Nat
  va : W64
  entry : Nat
  pfn : Nat
  copied : Bool
  deriving DecidableEq, Repr

/-- A write by the kernel to a stopped lane (R400). -/
inductive DebugWrite where
  | pc (v : W64)
  | reg (r : Reg) (v : W64)
  | pred (p : Pred) (b : Bool)
  | special (n : BitVec 8) (v : W64)
  deriving DecidableEq, Repr

/-- A move of the schedule: what happens at a step when the device's own order does not fix it. `ev` is an event of the
opcode table; `issue` lets one unit issue; `tick` lets one cycle of a core pass; `evict` writes back a dirty L1 byte or drops
a clean one; `kstore` is a write by the resident kernel at home (R36); `flit` sends the first waiting flit of a port (R417);
`debug` is a write by the kernel to a stopped lane (R400) (DESIGN CHOICE, assumption log 1). -/
inductive Move where
  | ev (i : Instr)
  | issue (unit : Nat)
  | tick (core : Nat)
  | evict (core addr : Nat)
  | kstore (pa : Nat) (bytes : List Byte)
  | flit (port : Nat)
  | debug (unit lane : Nat) (w : DebugWrite)
  deriving DecidableEq, Repr

/-- Counts of bytes and queue cycles of shared paths (R402). -/
structure Counters where
  dram : SMap Nat
  dieLink : SMap Nat
  bynel : SMap Nat
  deriving DecidableEq, Repr

/-- The image of a checkpoint at the safe tier (R418): memory, each core's slot number, partitions, frames, tasks and their units,
the home maps, and what no overflow area holds: continuations, and entries that hold claims, by core
(DESIGN CHOICE, assumption log 52). -/
structure Image where
  mem : Memory
  cores : List (Nat × BitVec 16)
  parts : SMap Part
  frames : SMap Frame
  tasks : SMap Task
  units : SMap Unit
  homeMaps : SMap (SMap Nat)
  held : SMap (List QEntry)
  launches : SMap Launch
  ptDesc : SMap W64
  deriving DecidableEq, Repr

/-- The state of a package. `schedule`, `freeCtr` and `cur` are the model's own fields: the moves that outside parties and
free choices supply, the count of free values drawn, and the unit whose instruction issues. -/
structure State where
  mem : Memory
  hostMem : Memory
  lines : SMap LineDir
  cores : SMap Core
  copse : SMap (List QEntry)
  dies : SMap Die
  slices : SMap Slice
  parts : SMap Part
  tasks : SMap Task
  units : SMap Unit
  frames : SMap Frame
  launches : SMap Launch
  ptDesc : SMap W64
  residDefault : SMap Resid
  undeliverable : List (Nat × Nat)
  ports : SMap Port
  routes : SMap (BitVec 16)
  lost : List Nat
  losses : Nat
  pkg : Nat
  migration : Option Migration
  deadProcs : List Nat
  reports : List Report
  image : Option Image
  counters : Counters
  powerLimit : Bool
  remoteOps : SMap Flit
  schedule : List Move
  freeCtr : Nat
  nextId : Nat
  clock : Nat
  cur : Option Nat
  deriving DecidableEq, Repr

/-! ### Reset -/

/-- A plane as it stands when a task takes the hold (R336). -/
def Plane.none : Plane :=
  { valid := false, kext := 0, next := 0, kindw := 0#32, vals := [], scales := [] }

/-- An empty engine context: no task, planes not held, no bank allocated. -/
def CoreCtx.none : CoreCtx :=
  { tasks := [], active := .none, shadow := .none, hold := Option.none, banks := [], claims := [], mops := [],
    passEnd := 0#64, copies := [], rgrow := [] }

/-- A comparator at reset (R399). BPADDR has no reset value in the spec and is zero (DESIGN CHOICE, assumption log 6). -/
def Comparator.reset : Comparator := { addr := 0#64, en := false, all := false, slot := 0#11 }

/-- The trace control register at reset: PERIOD 0b1010 and FLUSH 0b1_0100 (R393). -/
def traceCtlReset : W32 := 0x000A0014#32

/-- One core at reset: `%cyc` zero (R74), the fill counter zero (R46), the L1 empty, and every register at its Reset
column (R18, R151, R253, R380, R393, R399). -/
def Core.reset : Core :=
  { cyc := 0#64, l1 := [], fillCtr := 0#64, edgeStamp := 0, l1sz := 0b010#3, l1next := 0b010#3, l1pend := false, sslot := 0#16,
    fslot := 0#16, spill := false, fill := false, ready := false, err := false, softSwap := false, forceSwap := false,
    loadWait := false, clearWait := false, yielded := false, spillWork := [], shadow := none, spillSet := none,
    ctx := .none, hangEn := false, hangLim := 0b11000#5, traceCtl := traceCtlReset,
    comparators := [(0, .reset), (1, .reset), (2, .reset), (3, .reset)], mresetBusy := false, mresetEnded := 0#9,
    mresetCount := 0,
    coal := [], coalClosed := [], tlb := [], glade := [], conts := [], reqs := [], far := [], coalWait := [], issues := 0,
    runAheadIssues := 0, prefDrops := 0, aonRetries := 0, stallShorts := 0, sampleCtr := 0, samples := [],
    lastTrace := 0#64, failSince := [], inReset := false }

/-- One die at reset: no granule assigned (DESIGN CHOICE, assumption log 6: the spec gives the home map no reset value; an unlisted
granule reads 15, unassigned), trace numbering from zero (R391, R397), heartwood frozen (R401). -/
def Die.reset : Die :=
  { homeMap := [], canopy := [], seq := 0, segno := 0, staging := 0#64, stagingCnt := 4, segments := [], overwritten := 0,
    prevDigest := List.replicate 64 0#8, heartHead := 1, heartWraps := 0, heartResets := 0, heartFrozen := true,
    heart := [], dry := [], stolen := [], attest := [], key := [] }

/-- The core numbers of `%core`: die in bits [7:6], cluster in [5:2], core in [1:0] (R74), ten clusters of four cores on
each of four dies (R10). -/
def coreNumbers : List Nat :=
  (List.range 4).flatMap fun d => (List.range 40).map fun k => 64 * d + k

/-- A Bynel port at reset: up, with nothing to send. -/
def Port.reset : Port := { down := false, sendQ := [], resends := 0, lastFlit := none }

/-- The package right after reset: no partition, no task, memory with nothing listed, every core and die at reset. -/
def State.reset : State :=
  { mem := [], hostMem := [], lines := [], cores := coreNumbers.map fun c => (c, Core.reset), copse := [],
    dies := (List.range 4).map fun d => (d, Die.reset), slices := [], parts := [], tasks := [], units := [], frames := [],
    launches := [], ptDesc := [], residDefault := [], undeliverable := [], ports := (List.range 16).map fun p => (p, Port.reset), routes := [],
    lost := [], losses := 0, pkg := 0, migration := none, deadProcs := [], reports := [], image := none,
    counters := { dram := [], dieLink := [], bynel := [] }, powerLimit := false, remoteOps := [], schedule := [],
    freeCtr := 0, nextId := 1, clock := 0, cur := none }

end Sys2Proof.Machine
end

