-- ==== Sys2Proof/Machine/Mem.lean ====
section
/-! DEFINITION. Named operations over the package's parts and over memory: reading and changing a core, a unit, a task or a
partition; address forms, homes and protection (R21, R22, R403); page tables and the TLB (R405 to R409); the L1 with its
stamps and epochs (R46, R48, R51); home slices (R20, R24); atomics at home (R42). -/

namespace Sys2Proof.Machine

/-! ### Parts of the state -/

/-- A value where a key names nothing. -/
def Unit.blank : Unit :=
  { kind := .seq, task := 0, core := 0, role := .vector, index := 0, slot := 0, width := 1, lmask := 1#64, regs := 0,
    regmax := 0, vregs := [], sregs := [], preds := [], lanes := [], frontier := [], nominal := 0, late := [], vpend := [],
    loop := none, runAhead := none, service := [], lastIssue := 0, lastRelease := some 0#64,
    copyFault := none, copyWrote := false, streams := [], handles := [], accFault := none, appended := [], poison := none,
    replays := 0 }

/-- A task where a key names nothing. -/
def Task.blank : Task :=
  { part := 0, asn := 0, proc := 0, launch := 0, record := [], addr := 0#64, index := 0#32, depth := 0, parent := none,
    core := 0, st := .done, slot := none, restoring := false, units := [], spad := [], spadSize := 0, tiles := [],
    rings := [], queues := [], wq := 8, banks := [], planes := none, reg := none, joins := 0, lastAct := 0#64,
    awaitSince := none, hungSent := false, mreset := false }

/-- Arena registers at reset (R421). -/
def Arena.reset : Arena :=
  { ovfBase := 0#64, ovfCnt := 0#32, frmBase := 0#64, frmCnt := 0#32, splBase := 0#64, splCnt := 0#16, frBase := 0#64,
    frLog := 0#5, frHead := 0#32, frTail := 0#32, htBase := 0#64, htCnt := 0#16 }

/-- A residency register at reset (R23). -/
def Resid.reset : Resid := { base := 0#64, lim := 0#64, en := false, clip := false, ways := 0, sample := 0 }

/-- A partition before the kernel makes it (R23, R410, R421). -/
def Part.blank : Part :=
  { clusters := [], granules := [], resid := [], arena := .reset, overflow := [], slots := [], tlbBusy := false,
    tlbScope := 0#2, tlbArg := 0#64, vf := false, bar2 := 0#64, faultIrq := 0 }

/-- A unit. -/
def State.unit (s : State) (u : Nat) : Unit := (s.units.get u).getD .blank
/-- A task. -/
def State.task (s : State) (t : Nat) : Task := (s.tasks.get t).getD .blank
/-- A core. -/
def State.core (s : State) (c : Nat) : Core := (s.cores.get c).getD .reset
/-- A die. -/
def State.die (s : State) (d : Nat) : Die := (s.dies.get d).getD .reset
/-- A partition. -/
def State.part (s : State) (p : Nat) : Part := (s.parts.get p).getD .blank

/-- A unit replaced. -/
def State.setUnit (s : State) (u : Nat) (x : Unit) : State := { s with units := s.units.set u x }
/-- A task replaced. -/
def State.setTask (s : State) (t : Nat) (x : Task) : State := { s with tasks := s.tasks.set t x }
/-- A core replaced. -/
def State.setCore (s : State) (c : Nat) (x : Core) : State := { s with cores := s.cores.set c x }
/-- A die replaced. -/
def State.setDie (s : State) (d : Nat) (x : Die) : State := { s with dies := s.dies.set d x }
/-- A partition replaced. -/
def State.setPart (s : State) (p : Nat) (x : Part) : State := { s with parts := s.parts.set p x }

/-- A unit changed. -/
def State.modUnit (s : State) (u : Nat) (f : Unit → Unit) : State := s.setUnit u (f (s.unit u))
/-- A task changed. -/
def State.modTask (s : State) (t : Nat) (f : Task → Task) : State := s.setTask t (f (s.task t))
/-- A core changed. -/
def State.modCore (s : State) (c : Nat) (f : Core → Core) : State := s.setCore c (f (s.core c))
/-- A die changed. -/
def State.modDie (s : State) (d : Nat) (f : Die → Die) : State := s.setDie d (f (s.die d))
/-- A partition changed. -/
def State.modPart (s : State) (p : Nat) (f : Part → Part) : State := s.setPart p (f (s.part p))
/-- The engine context of a core changed. -/
def State.modCtx (s : State) (c : Nat) (f : CoreCtx → CoreCtx) : State := s.modCore c fun k => { k with ctx := f k.ctx }

/-- A fresh identifier and the state that has given it out. -/
def State.fresh (s : State) : Nat × State := (s.nextId, { s with nextId := s.nextId + 1 })

/-- A free value drawn: its number, and the state that has drawn it. -/
def State.draw (s : State) : Nat × State := (s.freeCtr, { s with freeCtr := s.freeCtr + 1 })

/-! ### Launch record fields (R126 to R128) -/

/-- CTRL. -/
def recCtrl (r : List Byte) : Nat := field r 0x00 4
/-- Task priority (R127). -/
def recPrio (r : List Byte) : Nat := nbits (recCtrl r) 8 2
/-- Special-value mode F (R127). -/
def recModeF (r : List Byte) : Bool := nbits (recCtrl r) 10 1 == 1
/-- The scoreboard-check bit (R127). -/
def recCheck (r : List Byte) : Bool := nbits (recCtrl r) 11 1 == 1
/-- Whether the task declares an access program (R127). -/
def recAcc (r : List Byte) : Bool := nbits (recCtrl r) 12 1 == 1
/-- KIND (R127). -/
def recKind (r : List Byte) : Nat := nbits (recCtrl r) 4 2
/-- COUNT. -/
def recCount (r : List Byte) : Nat := field r 0x04 4
/-- SPAD. -/
def recSpad (r : List Byte) : Nat := field r 0x08 4
/-- RSRC. -/
def recRsrc (r : List Byte) : Nat := field r 0x0C 4
/-- NTILE (R127). -/
def recNtile (r : List Byte) : Nat := nbits (recRsrc r) 24 7
/-- NRING (R127). -/
def recNring (r : List Byte) : Nat := nbits (recRsrc r) 16 5
/-- NQUEUE (R127). -/
def recNqueue (r : List Byte) : Nat := nbits (recRsrc r) 8 4
/-- NHANDLE (R127). -/
def recNhandle (r : List Byte) : Nat := nbits (recRsrc r) 0 5
/-- TRAPVEC. -/
def recTrapvec (r : List Byte) : W64 := BitVec.ofNat 64 (field r 0x10 8)
/-- ACCPC. -/
def recAccpc (r : List Byte) : W64 := BitVec.ofNat 64 (field r 0x18 8)
/-- ARG. -/
def recArg (r : List Byte) : W64 := BitVec.ofNat 64 (field r 0x80 8)

/-! ### Address forms, homes and protection -/

/-- Where a device physical address lies (R403). -/
inductive Place where
  | own
  | remote (pkg : Nat)
  | host
  deriving DecidableEq, Repr

/-- The form of a device physical address, or none (R403). -/
def placeOf (pkg pa : Nat) : Option Place :=
  if pa / 2 ^ 39 == 0 then some .own
  else if pa / 2 ^ 51 == 0x200 then
    let p := nbits pa 39 12
    if p == 0 || p == pkg then none else some (.remote p)
  else if pa / 2 ^ 52 == 0x800 then some .host
  else none

/-- The die of an own address, bits [38:37] (R21). -/
def paDie (pa : Nat) : Nat := nbits pa 37 2
/-- The home granule within the die, bits [36:26] (R21). -/
def paGranule (pa : Nat) : Nat := nbits pa 26 11

/-- The slice number H of an address (R21). -/
def paSlice (pa : Nat) : Nat := nbits pa 7 4 ^^^ nbits pa 11 4 ^^^ nbits pa 15 4 ^^^ nbits pa 19 4

/-- The entry of a die's home map; an unlisted granule reads 15, unassigned (R22). -/
def Die.home (d : Die) (g : Nat) : Nat := (d.homeMap.get g).getD 15

/-- The cluster that is home to an own address, in the numbering of `%core` / 4, or none where the granule is not
populated or not assigned (R21, R22). -/
def State.homeCluster (s : State) (pa : Nat) : Option Nat :=
  let g := paGranule pa
  if 1536 ≤ g then none
  else
    let v := (s.die (paDie pa)).home g
    if 10 ≤ v then none else some (16 * paDie pa + v)

/-- Whether an own address lies in a part of a partition's task arena, which programs cannot reach (R420, R421). -/
def Arena.holds (a : Arena) (pa : Nat) : Bool :=
  let inside (base size : Nat) := decide (base ≤ pa) && decide (pa < base + size)
  inside a.ovfBase.toNat (32 * a.ovfCnt.toNat) || inside a.frmBase.toNat (64 * a.frmCnt.toNat)
    || inside a.splBase.toNat (2 ^ 21 * a.splCnt.toNat)
    || (a.frLog != 0#5 && inside a.frBase.toNat (64 * 2 ^ a.frLog.toNat)) || inside a.htBase.toNat (32 * a.htCnt.toNat)

/-- Whether a task of a partition may reach an own address (R22). -/
def State.mayReach (s : State) (part pa : Nat) : Bool :=
  match s.homeCluster pa with
  | none => false
  | some c => (s.part part).clusters.contains c && !(s.part part).arena.holds pa

/-! ### Translation -/

/-- A permission that an access needs (R408). -/
inductive Perm where
  | r | w | rw | x
  deriving DecidableEq, Repr

/-- Whether an entry grants a permission (R406, R408). -/
def TlbEntry.grants (e : TlbEntry) : Perm → Bool
  | .r => e.r
  | .w => e.w
  | .rw => e.r && e.w
  | .x => e.x

/-- The low bit of the page number by size (R406). -/
def pageShift (size : Nat) : Nat := if size == 0 then 16 else if size == 1 then 21 else 30

/-- The multipliers of the three ways (R407). -/
def cuckooMul (way : Nat) : Nat :=
  if way == 0 then 0x9E3779B97F4A7C15 else if way == 1 then 0xC2B2AE3D27D4EB4F else 0x165667B19E3779F9

/-- The slot index of a key in a way of log2 size L (R407). -/
def cuckooHash (way key log : Nat) : Nat := key * cuckooMul way % 2 ^ 64 / 2 ^ (64 - log)

/-- A page entry as two 64-bit words, with the address of the slot (R406). -/
structure PageHit where
  at_ : Nat
  w0 : Nat
  w1 : Nat
  size : Nat
  deriving DecidableEq, Repr

/-- The slots that a walk probes for one size and way, old before new (R407). -/
def probeSlots (s : State) (desc key way : Nat) : List Nat :=
  let d := s.mem.readN desc 32
  let old := field d 0x00 8
  let new := field d 0x08 8
  let mptr := field d 0x10 4
  let ctl := field d 0x14 4
  let rsz := nbits ctl 31 1 == 1
  let ol := nbits ctl 0 5
  let nl := nbits ctl 8 5
  let i := cuckooHash way key ol
  (if !rsz || decide (mptr ≤ i) then [old + way * 2 ^ (ol + 4) + 16 * i] else [])
    ++ (if rsz then [new + way * 2 ^ (nl + 4) + 16 * cuckooHash way key nl] else [])

/-- The first slot of a list that holds a key (R407). -/
def findSlot (s : State) (size key : Nat) : List Nat → Option PageHit
  | [] => none
  | a :: as =>
    let w0 := field (s.mem.readN a 8) 0 8
    if nbits w0 63 1 == 1 && nbits w0 0 32 == key then some ⟨a, w0, field (s.mem.readN (a + 8) 8) 0 8, size⟩
    else findSlot s size key as

/-- The slots of one size, in the order in which a match is chosen (R407). -/
def sizeSlots (s : State) (asn va size : Nat) : List Nat :=
  match s.ptDesc.get (3 * asn + size) with
  | none => []
  | some d => [0, 1, 2].flatMap fun w => probeSlots s d.toNat (va / 2 ^ pageShift size % 2 ^ 32) w

/-- A walk: the match of smallest size, then lowest way, then old before new (R407). -/
def walk (s : State) (asn va : Nat) : Option PageHit :=
  [0, 1, 2].findSome? fun z => findSlot s z (va / 2 ^ pageShift z % 2 ^ 32) (sizeSlots s asn va z)

/-- The TLB entry of a page entry (R406, R409). -/
def PageHit.tlb (h : PageHit) (asn : Nat) : TlbEntry :=
  { asn := asn, size := h.size, vpn := nbits h.w0 0 32, pfn := h.w1 / 2 ^ 16, x := nbits h.w1 2 1 == 1,
    w := nbits h.w1 1 1 == 1, r := nbits h.w1 0 1 == 1 }

/-- The TLB entry of a core that serves an address (R409). -/
def Core.tlbFind (c : Core) (asn va : Nat) : Option TlbEntry :=
  c.tlb.find? fun e => e.asn == asn && va / 2 ^ pageShift e.size == e.vpn

/-- The entry that translates an address: the TLB, then a walk; a page that is being moved is no match (R408, R409). -/
def State.translateEntry (s : State) (core asn va : Nat) : Option (TlbEntry × Bool) :=
  match (s.core core).tlbFind asn va with
  | some e => some (e, true)
  | none =>
    match walk s asn va with
    | some h => if nbits h.w1 3 1 == 1 then none else some (h.tlb asn, false)
    | none => none

/-- The outcome of a translation (R220, R403, R408, R411). -/
inductive Xl where
  | ok (pa : Nat)
  | pageFault
  | prot
  | linkDown
  deriving DecidableEq, Repr

/-- Translation of a virtual address for a task on a core (R22, R403, R404, R408, R411). -/
def State.translate (s : State) (core part asn va : Nat) (p : Perm) : Xl :=
  if 2 ^ 48 ≤ va then .prot
  else
    match s.translateEntry core asn va with
    | none => .pageFault
    | some (e, _) =>
      if !e.grants p then .prot
      else
        let sh := pageShift e.size
        let pa := e.pfn * 2 ^ 16 / 2 ^ sh * 2 ^ sh + va % 2 ^ sh
        match placeOf s.pkg pa with
        | none => .prot
        | some .own => if s.mayReach part pa then .ok pa else .prot
        | some (.remote k) => if s.lost.contains k then .linkDown else .ok pa
        | some .host => .ok pa

/-- The most TLB entries of a core (R409). -/
def tlbCap : Nat := 3072

/-- The TLB filled by a walk of an address; the oldest entry makes room (R408, R409). -/
def State.fillTlb (s : State) (core asn va : Nat) : State :=
  match s.translateEntry core asn va with
  | some (e, false) => s.modCore core fun c => { c with tlb := (e :: c.tlb).take tlbCap }
  | _ => s

/-! ### Home slices -/

/-- One byte at home: own DRAM, or the host's memory (R37). A byte of another package is not held here. -/
def State.homeByte (s : State) (pa : Nat) : Byte :=
  if pa / 2 ^ 39 == 0 then s.mem.read pa else if pa / 2 ^ 52 == 0x800 then s.hostMem.read (pa % 2 ^ 52) else 0#8

/-- One byte written at home. -/
def State.homeWrite (s : State) (pa : Nat) (b : Byte) : State :=
  if pa / 2 ^ 39 == 0 then { s with mem := s.mem.write pa b }
  else if pa / 2 ^ 52 == 0x800 then { s with hostMem := s.hostMem.write (pa % 2 ^ 52) b }
  else s

/-- Bytes written at home from an address upward. -/
def State.homeWriteN (s : State) (pa : Nat) : List Byte → State
  | [] => s
  | b :: bs => (s.homeWrite pa b).homeWriteN (pa + 1) bs

/-- n bytes at home from an address upward. -/
def State.homeReadN (s : State) (pa : Nat) : Nat → List Byte
  | 0 => []
  | n + 1 => s.homeByte pa :: s.homeReadN (pa + 1) n

/-- The line of an address (R20). -/
def lineOf (pa : Nat) : Nat := pa / 128

/-- The directory entry of a line (R50). -/
def State.lineDir (s : State) (line : Nat) : LineDir :=
  (s.lines.get line).getD { epoch := 0#16, owner := none, queue := [] }

/-- Whether an engine owns the line of an address (R50). -/
def State.owned (s : State) (pa : Nat) : Bool := (s.lineDir (lineOf pa)).owner.isSome

/-- The ownership epoch of the line of an address (R50). -/
def State.epoch (s : State) (pa : Nat) : Nat := (s.lineDir (lineOf pa)).epoch.toNat

/-- Whether an engine owns some line of a byte range. -/
def State.ownedRange (s : State) (pa n : Nat) : Bool :=
  (List.range ((pa % 128 + n + 127) / 128)).any fun k => s.owned (pa / 128 * 128 + 128 * k)

/-! ### Residency (R23 to R25) -/

/-- The set of an address in its home slice (R20). -/
def paSet (pa : Nat) : Nat := nbits pa 11 28 % 640

/-- The ways granted to each residency register, with CLIP, in increasing register number (R24). -/
def grantWays (p : Part) : List (Nat × Nat × Nat × Bool) :=
  ((List.range 8).foldl (fun (acc : List (Nat × Nat × Nat × Bool) × Nat) n =>
    let r := (p.resid.get n).getD .reset
    if !r.en then acc
    else
      let k := Nat.min r.ways (12 - acc.2)
      (acc.1 ++ [(n, acc.2, k, decide (k < r.ways))], acc.2 + k)) ([], 0)).1

/-- The lowest-numbered enabled register whose range holds an address (R24). -/
def residMatch (p : Part) (pa : Nat) : Option Nat :=
  (List.range 8).find? fun n =>
    let r := (p.resid.get n).getD .reset
    r.en && decide (r.base.toNat ≤ pa) && decide (pa < r.lim.toNat)

/-- The least recently used line of a list. -/
def lruLine : List L2Line → Option L2Line
  | [] => none
  | x :: xs => some (xs.foldl (fun a b => if b.used < a.used then b else a) x)

/-- A slice as no access has touched it. -/
def Slice.blank : Slice :=
  { sets := [], ctrs := [], hits := 0, misses := 0, retained := 0, drops := 0, fillDue := none }

/-- One access at a home slice: a hit is served where it lies; a retained-class miss allocates into its register's ways,
another into unreserved ways, over the least recently used line (R24). -/
def Slice.access (sl : Slice) (p : Part) (pa : Nat) : Slice :=
  let line := lineOf pa
  let key := paSet pa
  let ls := (sl.sets.get key).getD []
  let m := residMatch p pa
  let c := match m with
    | some n => (sl.ctrs.get n).getD 0
    | none => 0
  let ret := match m with
    | some n => decide (c < ((p.resid.get n).getD .reset).sample)
    | none => false
  let ctrs := match m with
    | some n => sl.ctrs.set n ((c + 1) % 16)
    | none => sl.ctrs
  let now := sl.hits + sl.misses + 1
  match ls.find? fun x => x.line == line with
  | some x =>
    { sl with
      ctrs := ctrs, hits := sl.hits + 1, retained := sl.retained + (if ret then 1 else 0),
      sets := sl.sets.set key ({ x with used := now } :: ls.filter fun y => y.line != line) }
  | none =>
    let g : List (Nat × Nat × Nat × Bool) := grantWays p
    let total := g.foldl (fun (a : Nat) (r : Nat × Nat × Nat × Bool) => a + r.2.2.1) 0
    let ways := match m with
      | some n =>
        if ret then
          match g.find? (fun (r : Nat × Nat × Nat × Bool) => r.1 == n) with
          | some r => (List.range r.2.2.1).map fun k => r.2.1 + k
          | none => []
        else (List.range (16 - total)).map fun k => total + k
      | none => (List.range (16 - total)).map fun k => total + k
    let free := ways.find? fun w => ls.all fun x => x.way != w
    match free with
    | some w =>
      { sl with ctrs := ctrs, misses := sl.misses + 1, sets := sl.sets.set key (⟨line, w, now⟩ :: ls) }
    | none =>
      match lruLine (ls.filter fun x => ways.contains x.way) with
      | some v =>
        { sl with
          ctrs := ctrs, misses := sl.misses + 1,
          sets := sl.sets.set key (⟨line, v.way, now⟩ :: ls.filter fun y => y.line != v.line) }
      | none => { sl with ctrs := ctrs, misses := sl.misses + 1 }

/-- The slice that is home to an own address, numbered 16 × cluster + H (R21). -/
def State.homeSlice (s : State) (pa : Nat) : Option Nat := (s.homeCluster pa).map fun c => 16 * c + paSlice pa

/-- The partition that owns a cluster (R11), 0 where none does. -/
def State.clusterPart (s : State) (cl : Nat) : Nat :=
  match s.parts.find? fun p => p.2.clusters.contains cl with
  | some p => p.1
  | none => 0

/-- The access counted at the home slice of an address; an address without one counts nowhere. -/
def State.sliceAccess (s : State) (pa : Nat) : State :=
  if pa / 2 ^ 39 == 0 then
    match s.homeCluster pa with
    | some c =>
      let k := 16 * c + paSlice pa
      { s with slices := s.slices.set k (((s.slices.get k).getD .blank).access (s.part (s.clusterPart c)) pa) }
    | none => s
  else s

/-- A prefetch of an address served at its home slice: the line that it brings in is noted until the next prefetch, since an
eviction of the same way in the same cycle drops it (R25). -/
def State.slicePrefetch (s : State) (pa : Nat) : State :=
  match s.homeSlice pa with
  | none => s
  | some k =>
    let held (t : State) : Option L2Line := do
      let sl ← t.slices.get k
      let ls ← sl.sets.get (paSet pa)
      ls.find? fun x => x.line == lineOf pa
    let t := s.sliceAccess pa
    match held s, held t with
    | none, some x =>
      { t with slices := t.slices.adjust (fun sl => { sl with fillDue := some (paSet pa, x.way, x.line) }) k }
    | _, _ => t

/-! ### The L1 -/

/-- One byte as a core reads it: the L1, else home (R41, R47). -/
def State.viewByte (s : State) (core pa : Nat) : Byte :=
  match (s.core core).l1.get pa with
  | some b => b.val
  | none => s.homeByte pa

/-- n bytes as a core reads them. -/
def State.viewN (s : State) (core pa : Nat) : Nat → List Byte
  | 0 => []
  | n + 1 => s.viewByte core pa :: s.viewN core (pa + 1) n

/-- The keys of a range that an L1 does not hold. -/
def l1Missing (l1 : SMap L1Byte) (base n : Nat) : List Nat :=
  ((List.range n).map fun k => base + k).filter fun a => (l1.get a).isNone

/-- The L1 with the clean bytes of a line dropped whose epoch differs (R51). -/
def l1DropOld (l1 : SMap L1Byte) (line epoch : Nat) : SMap L1Byte :=
  l1.keep fun a b => b.dirty || lineOf a != line || b.epoch == epoch

/-- The bytes that a fill of one 32-byte sector brings to a core: those that its L1 lacks, as they stand at home, with the
stamp of the request (R46, R51). -/
def State.fillBytes (s : State) (core sector stamp : Nat) : List FillByte :=
  (l1Missing (s.core core).l1 (32 * sector) 32).map fun a =>
    { addr := a, val := s.homeByte a, epoch := s.epoch a, stamp := stamp }

/-- A fill request for one sector: the fill counter rises by one (R46) and the home slice serves the access. -/
def State.requestSector (s : State) (core sector : Nat) : List FillByte × State :=
  let fs := s.fillBytes core sector (s.core core).fillCtr.toNat
  if fs.isEmpty then ([], s)
  else (fs, (s.modCore core fun c => { c with fillCtr := c.fillCtr + 1#64 }).sliceAccess (32 * sector))

/-- Fill requests for sectors, in order. -/
def State.requestSectors (s : State) (core : Nat) (ks : List Nat) : List FillByte × State :=
  ks.foldl (fun acc k =>
    let r := acc.2.requestSector core k
    (acc.1 ++ r.1, r.2)) ([], s)

/-- One byte of a fill installed: not where an edge has arrived since the request left, and not over a byte that the L1
holds; clean bytes of another epoch of the line go first (R46, R51). -/
def Core.install (c : Core) (f : FillByte) : Core :=
  if f.stamp < c.edgeStamp then c
  else
    let l1 := l1DropOld c.l1 (lineOf f.addr) f.epoch
    if (l1.get f.addr).isSome then { c with l1 := l1 }
    else { c with l1 := l1.set f.addr { val := f.val, dirty := false, stamp := some f.stamp, epoch := f.epoch } }

/-- A fill installed byte by byte. -/
def State.installFill (s : State) (core : Nat) (fs : List FillByte) : State :=
  s.modCore core fun c => fs.foldl Core.install c

/-- A byte dropped from a core's L1, and from the fills that are outstanding, so that none brings its old value back
(R41). -/
def Core.dropByte (c : Core) (a : Nat) : Core :=
  { c with
    l1 := c.l1.del a,
    reqs := c.reqs.mapVal fun _ r => { r with fill := r.fill.filter fun f => f.addr != a } }

/-- One byte stored into the L1 (R218); it carries no fill (R46). -/
def State.l1Store (s : State) (core pa : Nat) (b : Byte) : State :=
  s.modCore core fun c => { c with l1 := c.l1.set pa { val := b, dirty := true, stamp := none, epoch := 0 } }

/-- Bytes stored into the L1 from an address upward. -/
def State.l1StoreN (s : State) (core pa : Nat) : List Byte → State
  | [] => s
  | b :: bs => (s.l1Store core pa b).l1StoreN core (pa + 1) bs

/-- The package of a remote address, or none. -/
def remotePkg (s : State) (pa : Nat) : Option Nat :=
  match placeOf s.pkg pa with
  | some (.remote k) => some k
  | _ => none

/-- The ports of a target's route mask that are up (R417). -/
def State.routePort (s : State) (pkg : Nat) : Option Nat :=
  (List.range 16).find? fun p => ((s.routes.get pkg).getD 0#16).getLsbD p && !((s.ports.get p).getD .reset).down

/-- A flit of a TYPE given to a port for sending (R417). -/
def State.sendFlit (s : State) (port ty : Nat) (m : Flit) : State :=
  { s with ports := s.ports.set port (let p := (s.ports.get port).getD .reset; { p with sendQ := p.sendQ ++ [(ty, m)] }) }

/-- A one-byte write sent to another package, kept until its acknowledgement (R417). -/
def State.remoteWrite (s : State) (pkg pa : Nat) (b : Byte) : State :=
  match s.routePort pkg with
  | none => s
  | some port =>
    let (id, t) := s.fresh
    let m : Flit :=
      { src := s.pkg, dst := pkg, tag := id % 2 ^ 16, addr := pa / 128 * 128, mask := BitVec.twoPow 128 (pa % 128),
        payload := (List.range 128).map fun k => if k == pa % 128 then b else 0#8, last := true, err := false }
    { t.sendFlit port 3 m with remoteOps := t.remoteOps.set id m }

/-- One dirty byte written back to its home and made clean, with no fill of its own (R45, R46, R48). A byte of a lost
package is discarded (R412). -/
def State.wbByte (s : State) (core pa : Nat) : State :=
  match (s.core core).l1.get pa with
  | some b =>
    if !b.dirty then s
    else
      match remotePkg s pa with
      | some k =>
        if s.lost.contains k then s.modCore core fun c => c.dropByte pa
        else (s.remoteWrite k pa b.val).modCore core fun c =>
          { c with l1 := c.l1.set pa { b with dirty := false, stamp := none } }
      | none =>
        ((s.homeWrite pa b.val).sliceAccess pa).modCore core fun c =>
          { c with l1 := c.l1.set pa { b with dirty := false, stamp := none, epoch := s.epoch pa } }
  | none => s

/-- The addresses of the dirty bytes of a core's L1 (R48). -/
def Core.dirtyAddrs (c : Core) : List Nat := (c.l1.keep fun _ b => b.dirty).keys

/-- Every dirty byte of a core's L1 written back (R45). -/
def State.wbAll (s : State) (core : Nat) : State := (s.core core).dirtyAddrs.foldl (fun t a => t.wbByte core a) s

/-- Whether an engine operation of a core still has lines to write: dirty bytes of the core may wait with them (R272). -/
def State.linesDue (s : State) (core : Nat) : Bool :=
  (s.core core).ctx.copies.vals.any (fun o => !o.lines.isEmpty)
    || s.units.vals.any fun u => u.core == core && (s.task u.task).st == .resident
      && u.streams.vals.any fun x => !x.lines.isEmpty

/-- Whether no dirty byte of a core's L1 waits for a line that an engine owns (R50). -/
def State.wbFree (s : State) (core : Nat) : Bool :=
  ((s.core core).dirtyAddrs.all fun a => !s.owned a) && !s.linesDue core

/-- The incoming edge of R46 at a core: the clean bytes stamped below the edge stamp, and those without a fill, are
dropped. -/
def State.incomingEdge (s : State) (core : Nat) : State :=
  s.modCore core fun c =>
    { c with
      edgeStamp := c.fillCtr.toNat,
      l1 := c.l1.keep fun _ b => b.dirty || match b.stamp with
        | some k => decide (c.fillCtr.toNat ≤ k)
        | none => false }

/-- One L1 byte evicted: written back when dirty, then dropped (R218) (DESIGN CHOICE, assumption log 57). -/
def State.evictByte (s : State) (core pa : Nat) : State :=
  if s.owned pa then s else (s.wbByte core pa).modCore core fun c => c.dropByte pa

/-- The bytes of a range written back and dropped from a core's L1, as an atomic at home needs (R42). -/
def State.flushRange (s : State) (core pa n : Nat) : State :=
  ((List.range n).map fun k => pa + k).foldl
    (fun t a => (t.wbByte core a).modCore core fun c => c.dropByte a) s

/-- Whether a core's L1 holds every byte of a range. -/
def State.heldRange (s : State) (core pa n : Nat) : Bool := (l1Missing (s.core core).l1 pa n).isEmpty

/-- Whether a load must wait for an engine that owns a line of its range (R50). -/
def State.loadWaits (s : State) (core pa n : Nat) : Bool := !s.heldRange core pa n && s.ownedRange pa n

/-- An atomic read-modify-write of n bytes at home: the old value, and the state with the new one, where `f` gives one
(R42, R229). -/
def State.atomicN (s : State) (core pa n : Nat) (f : Nat → Option Nat) : Nat × State :=
  let t := s.flushRange core pa n
  let old := bytesVal (t.homeReadN pa n)
  match f old with
  | some v => (old, (t.homeWriteN pa (valBytes n v)).sliceAccess pa)
  | none => (old, t.sliceAccess pa)

end Sys2Proof.Machine
end

