-- ==== Sys2Proof/Machine/Operands.lean ====
section
/-! DEFINITION. Registers and operands of a unit (R71, R72, R178, R179), the completion buffer and the interlock (R76 to
R78), and the decode faults that the executing unit decides (R71, R81 to R84). -/

namespace Sys2Proof.Machine

/-! ### Registers of a unit -/

/-- A vector register of a lane; a unit has lanes 0 to 63 (R155). -/
def Unit.v (u : Unit) (n l : Nat) : W32 := if l < 64 then (u.vregs.get (64 * n + l)).getD 0#32 else 0#32
/-- A scalar register. -/
def Unit.s (u : Unit) (n : Nat) : W64 := (u.sregs.get n).getD 0#64
/-- A predicate over the lanes; `p7` reads as 1 in every lane (R65). -/
def Unit.p (u : Unit) (p : Pred) : LMask := if p == 7#3 then BitVec.allOnes 64 else (u.preds.get p.toNat).getD 0#64

/-- A vector register of a lane written. -/
def Unit.putV (u : Unit) (n l : Nat) (v : W32) : Unit := if l < 64 then { u with vregs := u.vregs.set (64 * n + l) v } else u
/-- A scalar register written. -/
def Unit.putS (u : Unit) (n : Nat) (v : W64) : Unit := { u with sregs := u.sregs.set n v }
/-- A predicate's bit in one lane written; a write of `p7` is discarded (R65). -/
def Unit.putP (u : Unit) (p : Pred) (l : Nat) (b : Bool) : Unit :=
  if p == 7#3 then u
  else { u with preds := u.preds.set p.toNat (if b then u.p p ||| laneBit l else u.p p &&& ~~~laneBit l) }

/-- A lane as it stands in a unit that names none. -/
def Lane.blank : Lane :=
  { st := .never, inIter := false, iter := ones32, age := ones32, depth := 0, trapped := false, tpc := 0#64, tcause := 0#32,
    tinfo := 0#64, savedPrio := 0#2, frame := none, grant := none, badGrant := false, mreset := false, mtrap := false,
    remoteDirty := false, lossSeen := 0 }

/-- The state of a lane. -/
def Unit.lane (u : Unit) (l : Nat) : Lane := (u.lanes.get l).getD .blank
/-- A lane's state changed. -/
def Unit.modLane (u : Unit) (l : Nat) (f : Lane → Lane) : Unit := { u with lanes := u.lanes.set l (f (u.lane l)) }

/-- The lanes in a state, in increasing order. -/
def Unit.lanesIn (u : Unit) (st : LaneSt) : List Nat := (List.range 64).filter fun l => (u.lane l).st == st

/-- The live lanes. -/
def Unit.live (u : Unit) : List Nat := u.lanesIn .live

/-- A destination written at once, lane by lane; a scalar register takes the first value. -/
def Unit.writeDst (u : Unit) (d : Dst) (vals : List (Nat × W64)) : Unit :=
  match d with
  | .r (.v n) => vals.foldl (fun a x => a.putV n.val x.1 (lo32 x.2)) u
  | .r (.s n) =>
    match vals with
    | [] => u
    | x :: _ => u.putS n.val x.2
  | .p p => vals.foldl (fun a x => a.putP p x.1 (x.2 != 0#64)) u

/-! ### The completion buffer -/

/-- A late result without the lanes that a newer write of the same destination covers: the earlier result is never seen by
a later read (R77). -/
def Late.without (x : Late) (d : Dst) (lanes : List Nat) : Late :=
  if x.dst == d then
    match d with
    | .r (.s _) => { x with vals := [] }
    | _ => { x with vals := x.vals.filter fun p => !lanes.contains p.1 }
  else x

/-- The completion buffer without what a newer write covers (R77). -/
def dropLate (ls : List Late) (d : Dst) (lanes : List Nat) : List Late :=
  (ls.map fun x => x.without d lanes).filter fun x => !x.vals.isEmpty

/-- A fixed-latency result put into the completion buffer (R76, R78). -/
def Unit.writeLate (u : Unit) (lat : Nat) (d : Dst) (vals : List (Nat × W64)) : Unit :=
  if vals.isEmpty then u
  else { u with late := dropLate u.late d (vals.map Prod.fst) ++ [{ due := u.nominal + lat, dst := d, vals := vals }] }

/-- A result written at variable latency, which nothing can observe before it is done (R76). -/
def Unit.writeVar (u : Unit) (d : Dst) (vals : List (Nat × W64)) : Unit :=
  ({ u with late := dropLate u.late d (vals.map Prod.fst) }).writeDst d vals

/-- The results that are due written to their registers (R78). -/
def Unit.retire (u : Unit) : Unit :=
  let due := u.late.filter fun x => decide (x.due ≤ u.nominal)
  due.foldl (fun a x => a.writeDst x.dst x.vals) { u with late := u.late.filter fun x => !decide (x.due ≤ u.nominal) }

/-! ### Sources (R178) -/

/-- Width of an operation: 64 for a scalar one, 32 for a vector one (R72). -/
abbrev Width := Nat

/-- Whether a register is a vector register. -/
def isVec : Reg → Bool
  | .v _ => true
  | .s _ => false

/-- The number of a scalar register; a vector register gives its number, which no caller uses. -/
def regNum : Reg → Nat
  | .v n => n.val
  | .s n => n.val

/-- `Src(X, l)` of a register in an operation of width W, as an unsigned number (R178). -/
def Unit.src (u : Unit) (w : Width) (r : Reg) (l : Nat) : Nat :=
  match r with
  | .v n => (u.v n.val l).toNat
  | .s n => if w == 64 then (u.s n.val).toNat else (lo32 (u.s n.val)).toNat

/-- Bits [31:0] of a register as lane l reads it. -/
def Unit.src32 (u : Unit) (r : Reg) (l : Nat) : W32 :=
  match r with
  | .v n => u.v n.val l
  | .s n => lo32 (u.s n.val)

/-- A register as a 64-bit value: a vector register's lane zero-extended. -/
def Unit.src64 (u : Unit) (r : Reg) (l : Nat) : W64 :=
  match r with
  | .v n => zx (u.v n.val l)
  | .s n => u.s n.val

/-- `Src(B, l)` of an instruction marked BI (R178, R179). -/
def Unit.srcB (u : Unit) (w : Width) (b : SrcB) (l : Nat) : Nat :=
  match b with
  | .reg r => u.src w r l
  | .imm8 i => if w == 64 then (i.signExtend 64).toNat else (i.signExtend 32).toNat
  | .imm32 v => if w == 64 then (v.signExtend 64).toNat else v.toNat

/-- Bits [31:0] of source B. -/
def Unit.srcB32 (u : Unit) (b : SrcB) (l : Nat) : W32 := BitVec.ofNat 32 (u.srcB 32 b l)

/-- A displacement sign-extended (R215). -/
def dispInt : Disp → Int
  | .d8 i => i.toInt
  | .d32 v => v.toInt

/-- Whether source B is a vector register. -/
def srcBVec : SrcB → Bool
  | .reg r => isVec r
  | _ => false

/-! ### What an instruction names -/

/-- The registers that an operand names (R216, R227, R369). -/
def Opnd.dsts (o : Opnd) : List Dst :=
  if o.code.ult 0xC0#8 then (List.range o.n).map fun k => .r (Reg.ofCode (o.code + BitVec.ofNat 8 k))
  else (List.range o.als).map fun k => .r (Reg.ofCode (o.code + BitVec.ofNat 8 k))

/-- The register operands of an instruction (R71). -/
def opndsOf (i : Instr) : List Opnd :=
  match row i.toRaw.opc with
  | some w => w.regs i.toRaw
  | none => []

/-- The predicates that an instruction reads beside its guard, and those it writes. -/
def predRefsOf : Instr → List Pred × List Pred
  | .cmp _ _ _ p _ _ => ([], [p])
  | .fcmp _ _ p _ _ => ([], [p])
  | .fcls _ p _ _ => ([], [p])
  | .pset _ p (.bin _ x y) => ([x, y], [p])
  | .pset _ p (.mask _) => ([], [p])
  | .sel _ _ _ _ n => ([n.extractLsb' 0 3], [])
  | .vote _ m d n => ([n.extractLsb' 0 3], if m == .ballot then [] else [d.extractLsb' 0 3])
  | _ => ([], [])

/-- The registers that an instruction reads without a source field: a compare value, a kept half, coordinates beyond the
first, a row mask (R182, R227, R270, R356). -/
def extraReadsOf : Instr → List Dst
  | .moviHi _ d _ => [.r d]
  | .cas _ _ _ wide d _ _ _ =>
    if wide && isVec d then [.r d, .r (Reg.ofCode (d.code + 1#8))] else [.r d]
  | .cpl _ _ _ _ _ _ b => [.r (Reg.ofCode (b.code + 1#8)), .r (Reg.ofCode (b.code + 2#8))]
  | .cps _ _ _ _ _ _ b => [.r (Reg.ofCode (b.code + 1#8)), .r (Reg.ofCode (b.code + 2#8))]
  | .mma _ _ _ _ m => if m == 0#8 then [] else [.r (Reg.ofCode m)]
  | .mmas _ _ _ _ m => if m == 0#8 then [] else [.r (Reg.ofCode m)]
  | .mbmp _ _ _ _ _ m => if m == 0#8 then [] else [.r (Reg.ofCode m)]
  | _ => []

/-- The registers and predicates that an instruction reads, its guard first (R65, R76). -/
def readsOf (i : Instr) : List Dst :=
  (if i.toRaw.pred == 7#3 then [] else [.p i.toRaw.pred])
    ++ ((opndsOf i).filter fun o => !o.dst).flatMap Opnd.dsts ++ (extraReadsOf i)
    ++ ((predRefsOf i).1.filter fun p => p != 7#3).map Dst.p

/-- The registers and predicates that an instruction writes (R76). -/
def writesOf (i : Instr) : List Dst :=
  ((opndsOf i).filter fun o => o.dst).flatMap Opnd.dsts ++ ((predRefsOf i).2.filter fun p => p != 7#3).map Dst.p

/-- Whether an outstanding result concerns a lane of a mask; a scalar register concerns every lane. -/
def VPend.covers (v : VPend) (act : LMask) : Bool :=
  match v.dst with
  | .r (.s _) => true
  | _ => v.mask &&& act != 0#64

/-- Whether a variable-latency write of some register or predicate that the instruction names is outstanding in a lane of
Active (R76). -/
def Unit.interlocked (u : Unit) (i : Instr) (act : LMask) : Bool :=
  !u.vpend.isEmpty && (readsOf i ++ writesOf i).any fun d => u.vpend.any fun v => v.dst == d && v.covers act

/-- Whether a late result covers a lane of a mask; a scalar register covers every lane. -/
def Late.covers (x : Late) (act : LMask) : Bool :=
  match x.dst with
  | .r (.s _) => true
  | _ => x.vals.any fun p => act.getLsbD p.1

/-- `%tinfo` of STALL_SHORT: the register code or predicate number, 1 in bit [8] for a predicate, and L − d (R77). -/
def stallInfo (d : Dst) (short : Nat) : W64 :=
  BitVec.ofNat 64 ((match d with
    | .r r => r.code.toNat
    | .p p => 256 + p.toNat) + 65536 * (short % 256))

/-- The STALL_SHORT that an issue raises under the scoreboard-check bit, if any: the first register or predicate named
whose fixed-latency producer is outstanding (R77). -/
def Unit.stallShort (u : Unit) (i : Instr) (act : LMask) : Option W64 :=
  if u.late.isEmpty || act == 0#64 then none
  else (readsOf i ++ writesOf i).findSome? fun d =>
    match u.late.find? fun x => x.dst == d && decide (u.nominal < x.due) && x.covers act with
    | some x => some (stallInfo d (x.due - u.nominal))
    | none => none

/-! ### Decode faults that the executing unit decides -/

/-- Whether a unit has the register of a code (R71, R82). -/
def hasCode (k : UnitKind) (c : BitVec 8) : Bool :=
  match k with
  | .group => true
  | .seq => (0xC0#8).ule c
  | .acc => (0xC0#8).ule c && c.ule 0xDF#8

/-- The WHY that a unit gives an opcode it may not issue: 0x10 or 0x12 (R81, R82). -/
def opcWhy (k : UnitKind) (gang : Bool) (role : Role) (opc : BitVec 8) : Option Nat :=
  let under := (0xC0#8).ule opc && opc.ule 0xCD#8
  match k with
  | .group =>
    if under then some 0x10
    else if (0xE0#8).ule opc && opc.ule 0xEE#8 && !(gang && role == .matrix) then some 0x12
    else if (0xF0#8).ule opc && opc.ule 0xF4#8 && !(gang && role == .copy) then some 0x12
    else none
  | .seq =>
    if under || ((0x22#8).ule opc && opc.ule 0x25#8) || ((0x75#8).ule opc && opc.ule 0x77#8)
      || ((0x8A#8).ule opc && opc.ule 0x8C#8) then some 0x10
    else none
  | .acc =>
    if under || opc.ule 0x21#8 || ((0x70#8).ule opc && opc.ule 0x73#8) || opc == 0xB0#8 then none else some 0x10

/-- The class, alignment and footprint checks on one register operand, where the unit has it (R71, R83, R207, R216). -/
def opndChks (k : UnitKind) (fp : Nat) (o : Opnd) : List Chk :=
  if !hasCode k o.code then []
  else if o.code.ult 0xC0#8 then
    chk (o.cls == .sca || (k == .group && decide (fp < o.code.toNat + o.n)) || o.code.toNat % o.al != 0) 0x08 o.lo
  else chk (o.cls == .vec || (o.code.toNat - 0xC0) % o.als != 0) 0x08 o.lo

/-- A scalar destination with a vector source (R72). -/
def nineChks (k : UnitKind) (os : List Opnd) : List Chk :=
  if os.any fun o => o.dst && (0xC0#8).ule o.code && hasCode k o.code then
    ((os.filter fun o => !o.dst && o.code.ult 0xC0#8 && hasCode k o.code).map fun o => ⟨0x09, o.lo, none⟩)
  else []

/-- The mask register of a pass: zero in a group, scalar on the sequencer (R356) (DEDUCED, assumption log 33). -/
def passChks (k : UnitKind) (r : Raw) : List Chk :=
  if r.opc == 0xE2#8 || r.opc == 0xE3#8 || r.opc == 0xE4#8 then
    match k with
    | .group => chk (r.sb != 0#8) 0x06 bB
    | .seq => chk (r.sb.ult 0xC0#8) 0x08 bB
    | .acc => []
  else []

/-- Every ILLEGAL_OP check of R83 on a word, past its length, in a unit with a footprint. -/
def wordChks (w : Row) (r : Raw) (k : UnitKind) (fp : Nat) : List Chk :=
  ((w.checks r).filter fun c => match c.code with
    | some x => hasCode k x
    | none => true)
    ++ passChks k r ++ (w.regs r).flatMap (opndChks k fp) ++ if w.nine then nineChks k (w.regs r) else []

/-- `%tinfo` of a decode fault (R84). -/
def decodeInfo (p0 : W32) (why bit : Nat) : W64 := p0 ++ BitVec.ofNat 32 (256 * bit + why)

/-- Trap cause codes (R85). -/
abbrev Cause := Nat
/-- ILLEGAL_OP. -/
def cIllegalOp : Cause := 0x01
/-- ILLEGAL_ON_ENGINE. -/
def cIllegalOnEngine : Cause := 0x02
/-- ROLE_VIOLATION. -/
def cRole : Cause := 0x03
/-- IFETCH_SPLIT. -/
def cIfetch : Cause := 0x04
/-- STALL_SHORT. -/
def cStall : Cause := 0x05
/-- PRIV. -/
def cPriv : Cause := 0x06
/-- SPAD_BOUND. -/
def cSpad : Cause := 0x07
/-- PAGE_FAULT. -/
def cPage : Cause := 0x10
/-- PROT. -/
def cProt : Cause := 0x11
/-- MISALIGN. -/
def cMisalign : Cause := 0x12
/-- LINK_DOWN. -/
def cLink : Cause := 0x13
/-- ACC_BOUND. -/
def cAccBound : Cause := 0x14
/-- POISON. -/
def cPoison : Cause := 0x15
/-- TILE_STATE. -/
def cTile : Cause := 0x20
/-- RING_MISUSE. -/
def cRing : Cause := 0x21
/-- META_MALFORMED. -/
def cMeta : Cause := 0x22
/-- ACC_UNALLOC. -/
def cUnalloc : Cause := 0x23
/-- ACC_CLAIM. -/
def cClaim : Cause := 0x24
/-- MATRIX_RESET. -/
def cMreset : Cause := 0x25
/-- SPAWN_DEPTH. -/
def cDepth : Cause := 0x30
/-- FRAME_OVERFLOW. -/
def cFrame : Cause := 0x31
/-- FOOTPRINT. -/
def cFootprint : Cause := 0x32
/-- QUEUE_MISUSE. -/
def cQueue : Cause := 0x33

/-- The decode fault of a framed word in a unit: ILLEGAL_OP, then ILLEGAL_ON_ENGINE, then ROLE_VIOLATION (R83). -/
def rawFault (r : Raw) (p0 : W32) (k : UnitKind) (gang : Bool) (role : Role) (fp : Nat) : Option (Cause × W64) :=
  match row r.opc with
  | none => some (cIllegalOp, decodeInfo p0 0x01 6)
  | some w =>
    if !w.lenOk r.len then some (cIllegalOp, decodeInfo p0 0x03 0)
    else
      match firstChk (wordChks w r k fp) with
      | some c => some (cIllegalOp, decodeInfo p0 c.why c.bit)
      | none =>
        match opcWhy k gang role r.opc with
        | some 0x10 => some (cIllegalOnEngine, decodeInfo p0 0x10 6)
        | x =>
          match (w.regs r).find? fun o => !hasCode k o.code with
          | some o => some (cIllegalOnEngine, decodeInfo p0 0x11 o.lo)
          | none =>
            match x with
            | some why => some (cRole, decodeInfo p0 why 6)
            | none => none

/-- The decode fault of an instruction in a unit. -/
def instrFault (i : Instr) (u : Unit) (gang : Bool) : Option (Cause × W64) :=
  rawFault i.toRaw (i.toRaw.toWord.setWidth 32) u.kind gang u.role u.regs

end Sys2Proof.Machine
end

