-- ==== Sys2Proof/Machine/Ops.lean ====
section
/-! DEFINITION. Named operations that every instruction shares: trace records (R391 to R394), the coalescer (R251, R252), the
frontier (R157 to R160), taking a trap and escalating (R238), returning from one (R240), and the issue of an instruction by
the selected entry of a unit (R65, R75 to R78, R83). -/

namespace Sys2Proof.Machine

/-! ### Trace -/

/-- The most records of a segment (R397). -/
def segmentRecords : Nat := 32762

/-- A segment as it opens (R397). -/
def Segment.blank (place segno : Nat) : Segment :=
  { place := place, segno := segno, recs := [], closed := false, submitted := false, overwritten := 0 }

/-- The die with an open segment, discarding the oldest unsubmitted one when every place is taken (R398). -/
def Die.openSegment (d : Die) : Die :=
  if d.segments.any fun g => !g.closed then d
  else
    let cnt := Nat.max 1 d.stagingCnt
    let place := d.segno % cnt
    if d.segments.length < cnt then
      { d with segments := d.segments ++ [.blank place d.segno], segno := d.segno + 1 }
    else
      match d.segments.find? fun g => !g.submitted with
      | some g =>
        { d with
          segments := (d.segments.filter fun x => x.segno != g.segno) ++ [.blank g.place d.segno],
          segno := d.segno + 1, overwritten := d.overwritten + 1 }
      | none => d

/-- A record added to the die's open segment; a full segment closes (R398). -/
def Die.addRecord (d : Die) (r : TraceRec) : Die :=
  let d' := d.openSegment
  { d' with segments := d'.segments.map fun g =>
      if g.closed then g else { g with recs := g.recs ++ [r], closed := decide (segmentRecords ≤ g.recs.length + 1) } }

/-- A record added to heartwood unless it is frozen (R401). -/
def Die.addHeart (d : Die) (r : TraceRec) : Die :=
  if d.heartFrozen then d
  else
    { d with
      heart := d.heart.set d.heartHead r,
      heartHead := if d.heartHead == 2047 then 1 else d.heartHead + 1,
      heartWraps := if d.heartHead == 2047 then d.heartWraps + 1 else d.heartWraps }

/-- The die of a core (R74). -/
def dieOf (core : Nat) : Nat := core / 64 % 4

/-- The partition of a core (R11). -/
def State.corePart (s : State) (core : Nat) : Nat := s.clusterPart (core / 4)

/-- EN of the trace control register (R393). -/
def Core.traceEn (c : Core) : Bool := c.traceCtl.getLsbD 31
/-- SMP (R393). -/
def Core.traceSmp (c : Core) : Bool := c.traceCtl.getLsbD 30
/-- TRP (R393). -/
def Core.traceTrp (c : Core) : Bool := c.traceCtl.getLsbD 29
/-- SWBK (R393). -/
def Core.traceSwbk (c : Core) : Bool := c.traceCtl.getLsbD 28

/-- A trace record of an event on a core, written to the sink while EN is set and, for types 0x07 to 0x0C, to heartwood
(R391, R392). -/
def State.trace (s : State) (core ty aux : Nat) (pc : W64) (data : W32) (unit lane : Nat) : State :=
  let c := s.core core
  let d := s.die (dieOf core)
  let heart := decide (0x07 ≤ ty) && decide (ty ≤ 0x0C) && !d.heartFrozen
  let sink := c.traceEn && ty != 0x0C
  if !sink && !heart then s
  else
    let r : TraceRec :=
      { seq := d.seq, aux := aux, ty := ty, cyc := c.cyc, pc := pc, data := data, core := core, part := s.corePart core,
        unit := unit, lane := lane, body := none }
    let d1 := { d with seq := d.seq + 1 }
    let d2 := if sink then d1.addRecord r else d1
    let d3 := if heart then d2.addHeart r else d2
    (s.setDie (dieOf core) d3).setCore core (if sink then { c with lastTrace := c.cyc } else c)

/-- The number of a unit kind in a trace record (R391). -/
def UnitKind.code : UnitKind → Nat
  | .group => 0
  | .seq => 1
  | .acc => 2

/-- The lane slot, or the context number, by which records name a lane (R251, R391). -/
def Unit.laneSlot (u : Unit) (l : Nat) : Nat :=
  match u.kind with
  | .group => 8 * u.slot + l
  | .seq => 0
  | .acc => u.slot

/-- A record that names a lane of a unit. -/
def State.traceLane (s : State) (uid l ty aux : Nat) (pc : W64) (data : W32) : State :=
  let u := s.unit uid
  s.trace u.core ty aux pc data u.kind.code (u.laneSlot l)

/-! ### The coalescer -/

/-- The most records that the coalescer holds open (R252). -/
def coalCap : Nat := 16

/-- Whether a partition's fault ring is full (R421). -/
def Arena.ringFull (a : Arena) : Bool := (a.frHead - a.frTail).toNat == 2 ^ a.frLog.toNat

/-- An event merged into an equal open record, or opening one; a 17th record closes the oldest, and an event that finds none
able to close waits (R252). -/
def State.coalEvent (s : State) (core : Nat) (r : CoalRec) : State :=
  let c := s.core core
  let same (x : CoalRec) := x.part == r.part && x.kind == r.kind && x.cause == r.cause && x.addr == r.addr
  if c.coal.any same then
    s.setCore core { c with coal := c.coal.map fun x => if same x then { x with groups := x.groups ||| r.groups } else x }
  else if c.coal.length < coalCap then s.setCore core { c with coal := c.coal ++ [r] }
  else
    match c.coal with
    | o :: rest =>
      if (s.part o.part).arena.ringFull then s.setCore core { c with coalWait := c.coalWait ++ [r] }
      else s.setCore core { c with coal := rest ++ [r], coalClosed := c.coalClosed ++ [o] }
    | [] => s.setCore core { c with coal := [r] }

/-- ADDR of a record of KIND 1: bits [15:0] zero for causes 0x10 to 0x13 (R251). -/
def coalAddr (cause : Cause) (info : W64) : W64 :=
  if 0x10 ≤ cause && cause ≤ 0x13 then info &&& ~~~0xFFFF#64 else info

/-- The bit of a unit's group slot; only lane groups have one (R251). -/
def Unit.groupBit (u : Unit) : BitVec 256 :=
  match u.kind with
  | .group => BitVec.twoPow 256 u.slot
  | _ => 0#256

/-- The record that an event of a unit's lane opens (R251) (DEDUCED, assumption log 41). -/
def State.coalRecord (s : State) (uid l kind : Nat) (cause : Cause) (addr pc : W64) : CoalRec :=
  let u := s.unit uid
  let t := s.task u.task
  { part := t.part, kind := kind, cause := cause, cyc := (s.core u.core).cyc, addr := addr, pc := pc,
    lane := (match u.kind with
      | .group => u.laneSlot l
      | _ => 0),
    groups := u.groupBit, proc := t.proc }

/-! ### The frontier -/

/-- Whether two entries merge: neither blocked nor stepped alone, equal PC and priority (R157, R400). -/
def Entry.merges (a b : Entry) : Bool :=
  a.blk.isNone && b.blk.isNone && !a.solo && !b.solo && a.pc == b.pc && a.prio == b.prio

/-- An entry added to a frontier, merged under R157; the merged entry takes the larger count (R160). -/
def addEntry (fr : List Entry) (e : Entry) : List Entry :=
  if e.mask == 0#64 then fr
  else
    match fr with
    | [] => [e]
    | x :: xs =>
      if x.merges e then
        { x with mask := x.mask ||| e.mask, cnt := Nat.max x.cnt e.cnt, aged := x.aged || e.aged } :: xs
      else x :: addEntry xs e

/-- Lanes taken out of every entry; an entry left empty goes. -/
def takeLanes (fr : List Entry) (m : LMask) : List Entry :=
  (fr.map fun e => { e with mask := e.mask &&& ~~~m }).filter fun e => e.mask != 0#64

/-- Lanes placed in a new entry. -/
def Unit.place (u : Unit) (m : LMask) (pc : W64) (prio : BitVec 2) (blk : Option Wait) : Unit :=
  let e : Entry := { pc := pc, prio := prio, mask := m, blk := blk, cnt := 0, aged := false, solo := false }
  { u with frontier := addEntry (takeLanes u.frontier m) e }

/-- Lanes taken out of the frontier. -/
def Unit.leave (u : Unit) (m : LMask) : Unit := { u with frontier := takeLanes u.frontier m }

/-- The better of two selectable entries: aged first, the lowest PC among aged; else the higher priority, ties by lowest
PC (R158). -/
def Entry.better (a b : Entry) : Entry :=
  if a.aged != b.aged then (if a.aged then a else b)
  else if !a.aged && a.prio != b.prio then (if b.prio.ult a.prio then a else b)
  else if b.pc.ult a.pc then b else a

/-- The entry that a unit selects to issue (R158). -/
def Unit.pick (u : Unit) : Option Entry :=
  match u.frontier.filter fun e => e.blk.isNone with
  | [] => none
  | e :: es => some (es.foldl Entry.better e)

/-- The issues without being selected after which an entry is aged (R160). -/
def ageLimit : Nat := 1024

/-- The other entries counted after an issue (R160). -/
def ageOthers (fr : List Entry) (mask : LMask) : List Entry :=
  fr.map fun e =>
    if e.blk.isSome || e.mask &&& mask != 0#64 then e
    else { e with cnt := e.cnt + 1, aged := e.aged || decide (ageLimit ≤ e.cnt + 1) }

/-- The entry that holds a lane. -/
def Unit.entryOf (u : Unit) (l : Nat) : Option Entry := u.frontier.find? fun e => hasLane e.mask l

/-- The PC of a lane. -/
def Unit.pcOf (u : Unit) (l : Nat) : W64 :=
  match u.entryOf l with
  | some e => e.pc
  | none => 0#64

/-! ### Refill sections -/

/-- The first address of a loop's sections, and the end of its drain: prologue, body, retire, drain, end (R210). -/
def Loop.bounds (lp : Loop) : W64 × W64 × W64 × W64 × W64 :=
  let pro := lp.addr + 8#64
  let body := pro + 4#64 * lp.lens.plen.setWidth 64
  let ret := body + 4#64 * lp.lens.blen.setWidth 64
  let dr := ret + 4#64 * lp.lens.tlen.setWidth 64
  (pro, body, ret, dr, dr + 4#64 * lp.lens.dlen.setWidth 64)

/-- The number of the section that holds a PC (R74, R175). -/
def Loop.sect (lp : Loop) (pc : W64) : Nat :=
  let (pro, body, ret, dr, fin) := lp.bounds
  if pc.ult pro then 0
  else if pc.ult body then 1
  else if pc.ult ret then 2
  else if pc.ult dr then 3
  else if pc.ult fin then 4
  else 0

/-! ### Traps -/

/-- A lane stopped by escalation, with its record and its trace (R238, R251). -/
def State.escalate (s : State) (uid l : Nat) (pc : W64) (cause : Cause) (info : W64) : State :=
  let u := s.unit uid
  let prio := match u.entryOf l with
    | some e => e.prio
    | none => 1#2
  let s1 := s.setUnit uid (u.place (laneBit l) pc prio (some .escalated))
  (s1.coalEvent u.core (s.coalRecord uid l 1 cause (coalAddr cause info) pc)).traceLane uid l 0x08 cause pc (lo32 info)

/-- Taking a trap on one lane (R238). The trap registers save the PC, the cause and the information, the priority is saved,
and the lane goes to the trap vector at priority 3; a lane that is Trapped, or has no vector, escalates. -/
def State.trapEntry (s : State) (uid l : Nat) (pc : W64) (cause : Cause) (info : W64) : State :=
  let u := s.unit uid
  let vec := recTrapvec (s.task u.task).record
  if (u.lane l).trapped || vec == 0#64 then s.escalate uid l pc cause info
  else
    let prio := match u.entryOf l with
      | some e => e.prio
      | none => 1#2
    let u1 := u.modLane l fun x =>
      { x with
        trapped := true, tpc := pc, tcause := BitVec.ofNat 32 cause, tinfo := info, savedPrio := prio,
        mtrap := cause == cMreset }
    let s1 := s.setUnit uid (u1.place (laneBit l) vec 3#2 none)
    if (s.core u.core).traceTrp && (s.core u.core).traceEn then s1.traceLane uid l 0x04 cause pc (lo32 info) else s1

/-- A fault raised on the access strand: its issue stops, and the fault waits for its delivery (R316, R323). -/
def State.accRaise (s : State) (uid : Nat) (pc : W64) (cause : Cause) (info : W64) (opc : Nat) : State :=
  s.modUnit uid fun u => { u with frontier := [], accFault := (match u.accFault with
    | some f => some f
    | none => some (cause, info, pc, opc)) }

/-- A fault raised on one lane of a unit at an instruction (R8, R238, R323). -/
def State.raise (s : State) (uid l : Nat) (pc : W64) (cause : Cause) (info : W64) (opc : Nat) : State :=
  match (s.unit uid).kind with
  | .acc => s.accRaise uid pc cause info opc
  | _ => s.trapEntry uid l pc cause info

/-- A fault raised on each lane of a list, in order. -/
def State.raiseAll (s : State) (uid : Nat) (ls : List Nat) (pc : W64) (cause : Cause) (info : W64) (opc : Nat) : State :=
  ls.foldl (fun t l => t.raise uid l pc cause info opc) s

/-- A Trapped lane returned to a PC at its saved priority (R240). A lane that took QUEUE_MISUSE in place of a grant becomes
Idle as by exhaustion (R165). -/
def Unit.trapReturn (u : Unit) (l : Nat) (pc : W64) : Unit :=
  let x := u.lane l
  let u1 := u.modLane l fun y => { y with trapped := false, mtrap := false }
  if x.badGrant then (u1.modLane l fun y => { y with badGrant := false, st := .spent }).leave (laneBit l)
  else u1.place (laneBit l) pc x.savedPrio none

/-! ### Issue -/

/-- What an issue does with a lane: it goes on after the instruction, goes elsewhere, traps, escalates, goes elsewhere and
traps there (R165), enters a blocked state at the instruction's PC, or leaves the frontier. -/
inductive LaneOut where
  | next
  | jump (pc : W64) (prio : BitVec 2)
  | trap (cause : Cause) (info : W64)
  | escal (cause : Cause) (info : W64)
  | jumpTrap (pc : W64) (prio : BitVec 2) (cause : Cause) (info : W64)
  | block (w : Wait)
  | idle (st : LaneSt)
  deriving DecidableEq, Repr

/-- Whether an outcome takes a trap or escalates. -/
def LaneOut.faults : LaneOut → Bool
  | .trap .. | .escal .. | .jumpTrap .. => true
  | _ => false

/-- What the meaning of an instruction answers: it waits in place, in the state given, or it is done, with what happens to
each lane of the entry; a lane that is not listed goes on. -/
inductive Res where
  | wait (s : State)
  | done (s : State) (outs : List (Nat × LaneOut))

/-- The issue in progress: the unit, its selected entry's PC and mask, the instruction's length, and Active (R7, R65). -/
structure Issue where
  uid : Nat
  pc : W64
  len : Nat
  mask : LMask
  act : LMask
  prio : BitVec 2
  opc : Nat
  deriving DecidableEq, Repr

/-- The lanes of Active, in increasing order. -/
def Issue.lanes (x : Issue) : List Nat := lanesOf x.act

/-- The lanes on which a fault of every lane of Active is raised, answered as traps (DEDUCED, assumption log 55). -/
def Issue.trapAll (x : Issue) (cause : Cause) (info : W64) : List (Nat × LaneOut) :=
  x.lanes.map fun l => (l, .trap cause info)

/-- The lane of a mask that is lowest, or 0. -/
def lowest (m : LMask) : Nat := ((lanesOf m).head?).getD 0

/-- What happens to a lane. -/
def outOf (outs : List (Nat × LaneOut)) (l : Nat) : LaneOut :=
  match outs.find? fun p => p.1 == l with
  | some p => p.2
  | none => .next

/-- New entries of one issue, lanes of equal PC, priority and blocked state together (R157). -/
def groupEntry (es : List Entry) (pc : W64) (prio : BitVec 2) (blk : Option Wait) (l : Nat) : List Entry :=
  match es with
  | [] => [{ pc := pc, prio := prio, mask := laneBit l, blk := blk, cnt := 0, aged := false, solo := false }]
  | x :: xs =>
    if x.pc == pc && x.prio == prio && x.blk == blk then { x with mask := x.mask ||| laneBit l } :: xs
    else x :: groupEntry xs pc prio blk l

/-- The entries that the lanes of an issue form where they neither trap, escalate nor leave. -/
def issueEntries (x : Issue) (outs : List (Nat × LaneOut)) (ls : List Nat) : List Entry :=
  ls.foldl (fun es l =>
    match outOf outs l with
    | .next => groupEntry es (x.pc + BitVec.ofNat 64 x.len) x.prio none l
    | .jump pc prio => groupEntry es pc prio none l
    | .block w => groupEntry es x.pc x.prio (some w) l
    | _ => es) []

/-- A lane that its outcome makes Idle. -/
def idleLane (outs : List (Nat × LaneOut)) (u : Unit) (l : Nat) : Unit :=
  match outOf outs l with
  | .idle st => u.modLane l fun y =>
    { y with st := st, inIter := false, trapped := false, mtrap := false, badGrant := false }
  | _ => u

/-- The lanes of an issue that leave the frontier. -/
def idleLanes (u : Unit) (outs : List (Nat × LaneOut)) (ls : List Nat) : Unit := ls.foldl (idleLane outs) u

/-- The frontier after an issue: the entry's lanes regrouped, traps and escalations taken (R157, R238). A stepped lane stops
again after its issue, with a record of TYPE 0x03 (R400). -/
def State.settle (s : State) (x : Issue) (solo : Bool) (outs : List (Nat × LaneOut)) : State :=
  let u := s.unit x.uid
  let ls := lanesOf x.mask
  let traps := ls.filter fun l => (outOf outs l).faults
  let es := issueEntries x outs ls
  let es := if solo then es.map fun e => if e.blk.isNone then { e with blk := some (.stopped false) } else { e with solo := true }
    else es
  let fr := es.foldl addEntry (takeLanes u.frontier (x.mask &&& ~~~maskOf traps))
  let s1 := s.setUnit x.uid { idleLanes u outs ls with frontier := fr }
  let s2 := traps.foldl (fun t l =>
    match outOf outs l with
    | .trap c i => t.raise x.uid l x.pc c i x.opc
    | .escal c i => t.escalate x.uid l x.pc c i
    | .jumpTrap pc prio c i =>
      (t.modUnit x.uid fun v => v.place (laneBit l) pc prio none).raise x.uid l pc c i x.opc
    | _ => t) s1
  if solo then
    ls.foldl (fun t l =>
      match (t.unit x.uid).entryOf l with
      | some e =>
        if e.blk == some (.stopped false) || e.blk.isNone then
          (t.modUnit x.uid fun v => v.place (laneBit l) e.pc e.prio (some (.stopped false))).traceLane x.uid l 0x03 0 e.pc 0#32
        else t
      | none => t) s2
  else s2

/-- Time passing on a core (R74). -/
def State.pass (s : State) (core n : Nat) : State := s.modCore core fun c => { c with cyc := c.cyc + BitVec.ofNat 64 n }

/-- The counts of an issue: the nominal count rises by 1 + STALL (R75), other entries age (R160), the core counts the issue
(R402) and its cycles, with the idle cycles of a power limit (R424), and the task has acted (R253)
(DESIGN CHOICE, assumption log 2). -/
def State.counted (s : State) (x : Issue) (stall : BitVec 4) : State :=
  let u := s.unit x.uid
  let s1 := s.setUnit x.uid
    { u with
      nominal := u.nominal + 1 + stall.toNat, frontier := ageOthers u.frontier x.mask, lastIssue := s.clock, replays := 0,
      lastRelease := some (s.core u.core).cyc }
  let idle := if s.powerLimit then Config.idleCycles s.clock else 0
  let s2 := s1.modCore u.core fun c =>
    { c with cyc := c.cyc + BitVec.ofNat 64 (1 + stall.toNat + idle), issues := c.issues + 1 }
  let s3 := s2.modTask u.task fun t => { t with lastAct := (s2.core u.core).cyc, hungSent := false }
  { s3 with clock := s3.clock + 1 }

/-- Active: the lanes of the entry whose guard holds (R65). -/
def Unit.active (u : Unit) (h : Hdr) (mask : LMask) : LMask :=
  mask &&& (if h.pneg then ~~~(u.p h.pred) else u.p h.pred)

/-- Whether a task is a gang (R127). -/
def Task.gang (t : Task) : Bool := recKind t.record == 1

/-- The lanes of a mask checked before an issue: a lane that a matrix reset has reached takes MATRIX_RESET at its next
instruction boundary (R382). -/
def Unit.resetLanes (u : Unit) (m : LMask) : List Nat := (lanesOf m).filter fun l => (u.lane l).mreset

end Sys2Proof.Machine
end

