-- ==== Sys2Proof/Machine/Ahead.lean ====
section
/-! DEFINITION. Group-level page faults (R247 to R250): the checkpoint, run-ahead with unresolved values, its end and the
rollback. Nothing that run-ahead does outlives the rollback but L1, L2 and TLB fills, counters and the batch of pages (R55). -/

namespace Sys2Proof.Machine

/-- What run-ahead does with an instruction (R248, R249). -/
inductive AheadClass where
  | computes
  | crosses
  | loads
  | prefetches
  | suppressed
  | branches
  | ends
  deriving DecidableEq, Repr

/-- The class of an opcode in run-ahead (R248, R249). -/
def aheadClass (opc : Nat) : AheadClass :=
  if opc ≤ 0x21 || opc == 0x26 || (0x40 ≤ opc && opc ≤ 0x58) then .computes
  else if opc ≤ 0x25 then .crosses
  else if 0x70 ≤ opc && opc ≤ 0x73 then .branches
  else if opc == 0x80 || opc == 0x82 || opc == 0x84 then .loads
  else if opc == 0x89 then .prefetches
  else if opc == 0x27 || opc == 0x81 || opc == 0x83 || (0x85 ≤ opc && opc ≤ 0x88) || opc == 0xA0 || opc == 0xB2 then
    .suppressed
  else if 0xE0 ≤ opc && opc ≤ 0xFA && opc != 0xEE && opc != 0xF4 && opc != 0xF6 then .suppressed
  else .ends

/-- Whether a page is undeliverable for an address space (R250). -/
def State.undeliv (s : State) (asn page : Nat) : Bool := s.undeliverable.contains (asn, page)

/-- The lanes of a mask in which a destination is unresolved. -/
def unresOf (us : List (Dst × LMask)) (d : Dst) (act : LMask) : LMask :=
  us.foldl (fun m p => if p.1 == d then m ||| (match d with
    | .r (.s _) => act
    | _ => p.2 &&& act) else m) 0#64

/-- A destination made unresolved in some lanes and resolved in the other lanes that were written. -/
def markUnres (us : List (Dst × LMask)) (d : Dst) (written bad : LMask) : List (Dst × LMask) :=
  let rest := (us.map fun p => if p.1 == d then (match d with
    | .r (.s _) => (p.1, if written == 0#64 then p.2 else 0#64)
    | _ => (p.1, p.2 &&& ~~~written)) else p).filter fun p => p.2 != 0#64
  if bad == 0#64 then rest else rest ++ [(d, bad)]

/-- The run-ahead of a unit changed. -/
def Unit.modAhead (u : Unit) (f : RunAhead → RunAhead) : Unit := { u with runAhead := u.runAhead.map f }

/-- The lanes of Active whose sources are unresolved: their registers, or ones that are outstanding (R248). -/
def Unit.badLanes (u : Unit) (i : Instr) (act : LMask) : LMask :=
  match u.runAhead with
  | none => 0#64
  | some ra =>
    (readsOf i).foldl (fun m d => m ||| unresOf ra.unresolved d act ||| unresOf (u.vpend.map fun v => (v.dst, v.mask)) d act)
      0#64

/-- The destinations of an instruction marked unresolved in some lanes of Active. -/
def Unit.markDsts (u : Unit) (i : Instr) (act bad : LMask) : Unit :=
  u.modAhead fun ra =>
    { ra with unresolved := (writesOf i).foldl (fun us d => markUnres us d act bad) ra.unresolved }

/-- The lanes whose access met a page that is not mapped at the issue in progress (R248). -/
def Unit.missedLanes (u : Unit) : LMask :=
  match u.runAhead with
  | some ra => ra.missed
  | none => 0#64

/-- Lanes that stop running ahead (R248). -/
def Unit.stopAhead (u : Unit) (m : LMask) : Unit :=
  (u.leave m).modAhead fun ra => { ra with stopped := ra.stopped ||| m }

/-- The counts of a run-ahead issue, which counts as an issue too (R248, R249, R402). -/
def State.aheadCount (s : State) (x : Issue) (stall : BitVec 4) : State :=
  let u := s.unit x.uid
  let s1 := s.setUnit x.uid
    (({ u with nominal := u.nominal + 1 + stall.toNat, frontier := ageOthers u.frontier x.mask,
               lastIssue := s.clock }).modAhead fun ra => { ra with issued := ra.issued + 1 })
  let s2 := s1.modCore u.core fun c =>
    { c with cyc := c.cyc + BitVec.ofNat 64 (1 + stall.toNat), issues := c.issues + 1,
             runAheadIssues := c.runAheadIssues + 1 }
  { s2 with clock := s2.clock + 1 }

/-- The lanes of an outcome that stop running ahead: those that would trap. -/
def faulting (outs : List (Nat × LaneOut)) : LMask :=
  maskOf ((outs.filter fun p => p.2.faults).map Prod.fst)

/-- Lanes moved on after a run-ahead issue; lanes that would trap stop (R248). -/
def State.aheadSettle (s : State) (x : Issue) (stop : LMask) (outs : List (Nat × LaneOut)) : State :=
  let m := stop ||| faulting outs
  let s1 := s.modUnit x.uid fun u => u.stopAhead (m &&& x.mask)
  s1.settle { x with mask := x.mask &&& ~~~m } false outs

/-- An instruction issued in run-ahead (R248): its body is run where the table says it is performed. -/
def State.aheadIssue (s : State) (i : Instr) (stall : BitVec 4) (x : Issue) (body : Issue → State → Res) : State :=
  let u := s.unit x.uid
  let bad := u.badLanes i x.act
  let run (act stop badDst : LMask) : State :=
    match body { x with act := act } s with
    | .wait t => ((t.modUnit x.uid fun v => v.markDsts i x.act x.act).aheadSettle x stop []).aheadCount x stall
    | .done t outs =>
      ((t.modUnit x.uid fun v => (v.markDsts i x.act (badDst ||| v.missedLanes)).modAhead fun ra =>
        { ra with missed := 0#64 }).aheadSettle x stop outs).aheadCount x stall
  match aheadClass x.opc with
  | .computes => run x.act 0#64 bad
  | .crosses => run x.act 0#64 (if bad == 0#64 then 0#64 else x.act)
  | .loads => run (x.act &&& ~~~bad) 0#64 bad
  | .prefetches => run (x.act &&& ~~~bad) 0#64 0#64
  | .suppressed => ((s.modUnit x.uid fun v => v.markDsts i x.act x.act).aheadSettle x 0#64 []).aheadCount x stall
  | .branches =>
    let guard := (u.badLanes i x.mask) &&& x.mask
    run (x.act &&& ~~~guard) guard 0#64
  | .ends => s.modUnit x.uid fun v => v.modAhead fun ra => { ra with stopped := BitVec.allOnes 64 }

/-- The most instructions and pages of a run-ahead (R249). -/
def aheadLimit : Nat := 512
/-- The most pages of a batch (R249). -/
def batchLimit : Nat := 32

/-- Whether run-ahead ends (R249). -/
def Unit.aheadEnded (u : Unit) : Bool :=
  match u.runAhead with
  | none => false
  | some ra =>
    decide (aheadLimit ≤ ra.issued) || decide (batchLimit ≤ ra.pages.length) || ra.stopped == BitVec.allOnes 64
      || u.pick.isNone

/-- Pages added to the batch (R248). -/
def addPages (ps qs : List Nat) : List Nat := qs.foldl (fun acc p => if acc.contains p then acc else acc ++ [p]) ps

/-- The checkpoint of a unit (R247). -/
def Unit.checkpoint (u : Unit) (pages : List Nat) : RunAhead :=
  { vregs := u.vregs, sregs := u.sregs, preds := u.preds, lanes := u.lanes, frontier := u.frontier, nominal := u.nominal,
    late := u.late, loop := u.loop, issued := 0, pages := addPages [] pages, stopped := 0#64, missed := 0#64,
    unresolved := [] }

/-- Lanes whose access missed in run-ahead: the pages join the batch, and their result is unresolved (R248). -/
def State.aheadMiss (s : State) (uid : Nat) (m : LMask) (pages : List Nat) : State :=
  s.modUnit uid fun v => v.modAhead fun ra => { ra with pages := addPages ra.pages pages, missed := ra.missed ||| m }

/-- A page fault met by an access strand: the context waits in place, and the coalescer is told of each new page (R301). -/
def State.accService (s : State) (uid : Nat) (pc : W64) (pages : List Nat) : State :=
  let u := s.unit uid
  (pages.filter fun g => !u.service.contains g).foldl
    (fun t g => t.coalEvent u.core (t.coalRecord uid 0 0 cPage (BitVec.ofNat 64 (g * 2 ^ 16)) pc))
    (s.setUnit uid { u with service := addPages u.service pages })

/-- A page fault met by an instruction outside run-ahead: the group takes a checkpoint and runs ahead past the instruction,
whose destinations are unresolved (R247). -/
def State.pageFault (s : State) (x : Issue) (i : Instr) (pages : List Nat) : State :=
  let u := s.unit x.uid
  match u.kind, u.runAhead with
  | .acc, _ => s.accService x.uid x.pc pages
  | _, some _ => s.aheadMiss x.uid x.act pages
  | _, none =>
    let u1 := ({ u with runAhead := some (u.checkpoint pages) }).markDsts i x.act x.act
    (s.setUnit x.uid u1).settle x false []

/-- A page fault met by the fetch of the selected entry (R247, R248): its lanes stop running ahead. -/
def State.fetchFault (s : State) (uid : Nat) (mask : LMask) (page : Nat) : State :=
  let u := s.unit uid
  match u.kind, u.runAhead with
  | .acc, _ => s.accService uid (u.pcOf 0) [page]
  | _, some _ => s.setUnit uid ((u.stopAhead mask).modAhead fun ra => { ra with pages := addPages ra.pages [page] })
  | _, none => s.setUnit uid (({ u with runAhead := some (u.checkpoint [page]) }).stopAhead mask)

/-- The checkpoint of a unit restored whole (R249). -/
def Unit.rollback (u : Unit) (ra : RunAhead) : Unit :=
  { u with
    vregs := ra.vregs, sregs := ra.sregs, preds := ra.preds, lanes := ra.lanes, frontier := ra.frontier,
    nominal := ra.nominal, late := ra.late, loop := ra.loop, runAhead := none }

/-- Rollback: the checkpoint is restored whole, the unit waits in place for the batch, and one service record per page goes
to the coalescer (R249, R250). -/
def State.endAhead (s : State) (uid : Nat) : State :=
  let u := s.unit uid
  match u.runAhead with
  | none => s
  | some ra =>
    let s1 := s.setUnit uid { u.rollback ra with service := ra.pages }
    let e := (s1.unit uid).pick
    let pc := match e with
      | some x => x.pc
      | none => 0#64
    let l := match e with
      | some x => lowest x.mask
      | none => 0
    ra.pages.foldl (fun t p => t.coalEvent u.core (t.coalRecord uid l 0 cPage (BitVec.ofNat 64 (p * 2 ^ 16)) pc)) s1

end Sys2Proof.Machine
end

