-- ==== Sys2Proof/Machine/Issue.lean ====
section
/-! DEFINITION. The issue of an instruction by the selected entry of a unit (R65, R75 to R78, R83, R158). -/

namespace Sys2Proof.Machine

/-- The issue in progress of an entry's instruction. -/
def issueOf (h : Hdr) (i : Instr) (uid : Nat) (u : Unit) (e : Entry) : Issue :=
  { uid := uid, pc := e.pc, len := lenBytes i.toRaw.len, mask := e.mask, act := u.active h e.mask, prio := e.prio,
    opc := i.toRaw.opc.toNat }

/-- The STALL_SHORT of an issue under the task's scoreboard-check bit (R77). -/
def State.shortOf (s : State) (u : Unit) (i : Instr) (act : LMask) : Option W64 :=
  if recCheck (s.task u.task).record then u.stallShort i act else none

/-- The issue of an instruction by the selected entry of the unit that `State.cur` names, with `body` its own effect:
results that are due arrive; decode faults are raised on the whole mask and count nothing (R83); an operand outstanding at
variable latency is waited for in place (R76); STALL_SHORT is raised on Active (R77); then the body acts, the lanes move
and the counts rise, and `post` makes the releases that the issue completes (R164, R168, R173). In run-ahead the instruction
is treated under R248 (DESIGN CHOICE, assumption log 60). -/
def runIssueThen (h : Hdr) (i : Instr) (body : Issue → State → Res) (post : Nat → State → State) (s : State) :
    Host.Outcome State Fault Refusal :=
  match s.cur with
  | none => .fault .noIssuer
  | some uid =>
    let s0 := s.modUnit uid Unit.retire
    let u := s0.unit uid
    match u.pick with
    | none => .next s0
    | some e =>
      let x := issueOf h i uid u e
      let ahead := u.runAhead.isSome
      match instrFault i u (s0.task u.task).gang with
      | some (c, info) =>
        if ahead then .next (s0.modUnit uid fun v => v.stopAhead e.mask)
        else .next (s0.raiseAll uid (lanesOf e.mask) e.pc c info x.opc)
      | none =>
        if !ahead && u.interlocked i x.act then .next (s0.pass u.core 1)
        else
          match s0.shortOf u i x.act with
          | some info =>
            if ahead then .next (s0.modUnit uid fun v => v.stopAhead x.act)
            else
              let s1 := s0.modCore u.core fun c => { c with stallShorts := c.stallShorts + 1 }
              .next ((s1.settle x e.solo (x.trapAll cStall info)).counted x h.stall)
          | none =>
            if ahead then .next (s0.aheadIssue i h.stall x body)
            else
              match body x s0 with
              | .wait s1 => .next (s1.pass u.core 1)
              | .done s1 outs => .next (post uid ((s1.settle x e.solo outs).counted x h.stall))

/-- The issue of an instruction that completes no release. -/
def runIssue (h : Hdr) (i : Instr) (body : Issue → State → Res) (s : State) : Host.Outcome State Fault Refusal :=
  runIssueThen h i body (fun _ t => t) s

/-- PAD32: the selected entry goes on at the next parcel; padding is no instruction, counts nothing and takes no time (R61). -/
def execPad32 (s : State) : Host.Outcome State Fault Refusal :=
  match s.cur with
  | none => .fault .noIssuer
  | some uid =>
    let u := s.unit uid
    match u.pick with
    | none => .next s
    | some e =>
      let fr := addEntry (takeLanes u.frontier e.mask) { e with pc := e.pc + 4#64 }
      .next (s.setUnit uid { u with frontier := fr })

end Sys2Proof.Machine
end

