-- ==== Sys2Proof/Machine/Edge.lean ====
section
/-! DEFINITION. The edges of the memory model at a strand (R45, R46, R141, R349, R412), the first instruction past padding
(R61), and the polling of blocked lanes (R157, R159). -/

namespace Sys2Proof.Machine

/-- Whether an engine operation of a strand is in flight (R45). -/
def State.strandBusy (s : State) (uid l : Nat) : Bool :=
  let c := (s.core (s.unit uid).core).ctx
  c.copies.vals.any (fun o => o.unit == uid && o.lane == l) || c.mops.any (fun o => o.unit == uid && o.lane == l)
    || !(s.unit uid).streams.isEmpty

/-- The outcome of an outgoing edge: it waits, it raises a fault before it takes effect, or it has taken effect (R45, R277,
R412). -/
inductive EdgeOut where
  | wait (s : State)
  | fault (s : State) (cause : Cause) (info : W64)
  | ok (s : State)

/-- The outgoing edge of a strand (R45): every dirty byte of the core's L1 is written back, and the edge waits for the
strand's engine operations, for lines that engines own, and for acknowledgements. A loss since the last edge of a strand
that wrote to another package raises LINK_DOWN (R412), and a held fault of a CPS is raised first (R277). -/
def State.outEdge (s : State) (uid l : Nat) : EdgeOut :=
  let u := s.unit uid
  let x := u.lane l
  if s.strandBusy uid l then .wait s
  else if let some (c, i) := u.copyFault then .fault (s.setUnit uid { u with copyFault := none }) c i
  else if x.remoteDirty && x.lossSeen != s.losses then
    .fault (s.modUnit uid fun v => v.modLane l fun y => { y with remoteDirty := false, lossSeen := s.losses }) cLink 0#64
  else if !s.wbFree u.core then .wait s
  else
    let t := s.wbAll u.core
    if !t.remoteOps.isEmpty then .wait t
    else if x.remoteDirty then
      .ok (t.modUnit uid fun v => v.modLane l fun y => { y with remoteDirty := false, lossSeen := s.losses })
    else .ok t

/-- A held fault of a CPS raised on every lane of Active of an instruction that R277 names, before the instruction's edge;
else the instruction's own effect. -/
def raiseHeld (body : Issue → State → Res) (x : Issue) (s : State) : Res :=
  let u := s.unit x.uid
  match u.copyFault with
  | some (c, i) =>
    if x.act == 0#64 || u.runAhead.isSome then body x s
    else .done (s.setUnit x.uid { u with copyFault := none }) (x.trapAll c i)
  | none => body x s

/-- The end of a strand: its pending claims lapse (R349). -/
def State.strandEnd (s : State) (uid l : Nat) : State :=
  s.modCtx (s.unit uid).core fun c =>
    { c with claims := c.claims.filter fun k => !(k.owner.isNone && k.unit == uid && k.lane == l) }

/-- The await of a lane: with no frame it has nothing to await; with a frame that counts nothing, the incoming edge is
performed and the frame freed; otherwise it waits (R141). -/
def State.awaitDone (s : State) (uid l : Nat) : Option State :=
  match ((s.unit uid).lane l).frame with
  | none => some s
  | some a =>
    match s.frames.get a with
    | none => some (s.modUnit uid fun v => v.modLane l fun y => { y with frame := none })
    | some f =>
      if f.pend == 0 then
        some ((({ s with frames := s.frames.del a }).incomingEdge (s.unit uid).core).modUnit uid fun v =>
          v.modLane l fun y => { y with frame := none })
      else none

/-- The frame of a lane marked awaiting (R141). -/
def State.markAwait (s : State) (uid l : Nat) : State :=
  match ((s.unit uid).lane l).frame with
  | some a => { s with frames := s.frames.adjust (fun f => { f with status := 2 }) a }
  | none => s

/-- The retire of a lane's iteration has finished, or counts so (R167, R170). -/
def Unit.retireDone (u : Unit) (l : Nat) : Unit :=
  let x := u.lane l
  if x.inIter then
    let u1 := u.modLane l fun y => { y with inIter := false }
    { u1 with loop := u1.loop.map fun lp => { lp with finished := insertN x.age.toNat lp.finished } }
  else u

/-- The outcome of a poll of a blocked lane: it goes on waiting, in a state that may have moved on, or something happens
to it. -/
inductive Poll where
  | wait (s : State)
  | go (s : State) (out : LaneOut)

/-- What an issue does with a lane whose poll has been made: a lane that must wait is blocked. -/
def Poll.orBlock (p : Poll) (w : Wait) : State × LaneOut :=
  match p with
  | .wait s => (s, .block w)
  | .go s out => (s, out)

/-- Polls of several lanes in order, at an issue. -/
def pollLanes (f : Nat → State → State × LaneOut) (ls : List Nat) (s : State) : State × List (Nat × LaneOut) :=
  ls.foldl (fun acc l =>
    let r := f l acc.1
    (r.1, acc.2 ++ [(l, r.2)])) (s, [])

/-- AWAIT of one lane (R141). -/
def awaitPoll (uid l : Nat) (s : State) : Poll :=
  match s.awaitDone uid l with
  | some t => .go t .next
  | none => .wait (s.markAwait uid l)

/-- EXIT of one lane: the implicit await, the outgoing edge, then Idle (R142, R170). -/
def exitPoll (uid l : Nat) (s : State) : Poll :=
  match s.awaitDone uid l with
  | none => .wait (s.markAwait uid l)
  | some t =>
    match t.outEdge uid l with
    | .wait t1 => .wait t1
    | .fault t1 c i => .go t1 (.trap c i)
    | .ok t1 => .go ((t1.strandEnd uid l).modUnit uid fun v => v.retireDone l) (.idle .exited)

/-- A lane's frame at EXITJ: with children pending it is handed to the continuation, with STATUS 3, and counted in the join
count; else it goes back to the pool (R143). -/
def State.handFrame (s : State) (uid l : Nat) : State :=
  let u := s.unit uid
  match (u.lane l).frame with
  | none => s
  | some a =>
    let s1 := s.modUnit uid fun v => v.modLane l fun y => { y with frame := none }
    match s.frames.get a with
    | none => s1
    | some f =>
      if f.pend == 0 then { s1 with frames := s1.frames.del a }
      else
        let g := (s.task u.task).reg
        let addr := match g with
          | some r => r.addr
          | none => 0#64
        let arg := match g with
          | some r => r.arg
          | none => 0#64
        ({ s1 with frames := s1.frames.set a { f with status := 3, cont := addr, carg := arg } }).modTask u.task fun t =>
          { t with joins := t.joins + 1 }

/-- EXITJ of one lane: no await; the outgoing edge, the frame handed over, then Idle (R143). -/
def exitjPoll (uid l : Nat) (s : State) : Poll :=
  match s.outEdge uid l with
  | .wait t1 => .wait t1
  | .fault t1 c i => .go t1 (.trap c i)
  | .ok t1 => .go (((t1.handFrame uid l).strandEnd uid l).modUnit uid fun v => v.retireDone l) (.idle .exited)

/-! ### Reading code -/

/-- The number that stands for the fetch path in the requests of a unit to another package. -/
def fetchLane : Nat := 255

/-- One byte of code: home, never the L1 (R63); a byte of another package as a request of the fetch path brought it. -/
def State.codeByte (s : State) (uid pa : Nat) : Byte :=
  match (s.core (s.unit uid).core).far.vals.find? fun f =>
      f.unit == uid && f.lane == fetchLane && f.line == lineOf pa with
  | some f => (f.data.getD []).getD (pa % 128) 0#8
  | none => s.homeByte pa

/-- The bytes of code at an address as a unit fetches them, or none where the fetch does not translate (R62, R63). -/
def State.codeN (s : State) (uid : Nat) (va n : Nat) : Option (List Byte) :=
  let u := s.unit uid
  let t := s.task u.task
  match s.translate u.core t.part t.asn va .x with
  | .ok pa => some ((List.range n).map fun k => s.codeByte uid (pa + k))
  | _ => none

/-- The PAD32 parcel (R61). -/
def padParcel : List Byte := [3#8, 0#8, 0#8, 0#8]

/-- The address of the first instruction at or after an address, past at most `fuel` PAD32 parcels (R61). -/
def State.firstInstr (s : State) (uid : Nat) (pc : W64) : Nat → W64
  | 0 => pc
  | n + 1 => if s.codeN uid pc.toNat 4 == some padParcel then s.firstInstr uid (pc + 4#64) n else pc

end Sys2Proof.Machine
end

