-- ==== Sys2Proof/Machine/Flags.lean ====
section
/-! DEFINITION. Results of computing instructions: which lanes receive one and at what latency (R76, R178, R180), and the
predicates that comparisons and combinations write (R190, R191). A CX4 has no condition flags beside its predicates. -/

namespace Sys2Proof.Machine

/-- Width of an operation that writes a register: 32 per lane, or 64 for a scalar one (R72). -/
def widthFor (d : Reg) : Width := if isVec d then 32 else 64

/-- The value for each lane of Active of a vector destination, or once for a scalar one where Active is not empty, taken at
its lowest lane (R178, R189). -/
def resultVals (d : Reg) (act : LMask) (f : Nat → W64) : List (Nat × W64) :=
  if isVec d then (lanesOf act).map fun l => (l, f l)
  else
    match (lanesOf act).head? with
    | some l => [(0, f l)]
    | none => []

/-- A computing instruction: every source is read, then the results enter the completion buffer at latency L (R76, R180). -/
def compute (lat : Nat) (d : Reg) (f : Unit → Nat → W64) (x : Issue) (s : State) : Res :=
  .done (s.modUnit x.uid fun u => u.writeLate lat (.r d) (resultVals d x.act (f u))) []

/-- A predicate result for each lane of Active (R180). -/
def predVals (act : LMask) (f : Nat → Bool) : List (Nat × W64) :=
  (lanesOf act).map fun l => (l, if f l then 1#64 else 0#64)

/-- An instruction that writes a predicate at latency L (R76, R180). -/
def computePred (lat : Nat) (p : Pred) (f : Unit → Nat → Bool) (x : Issue) (s : State) : Res :=
  .done (s.modUnit x.uid fun u => u.writeLate lat (.p p) (predVals x.act (f u))) []

/-- Width of a comparison: 64 where every register operand is scalar (R72). -/
def widthCmp (a : Reg) (b : SrcB) : Width := if isVec a || srcBVec b then 32 else 64

/-- The value of a W-bit pattern: unsigned under `.z`, else signed (R181). -/
def valOf (w : Width) (z : Bool) (v : Nat) : Int := if z then v else sgnOf w v

/-- The outcome of a comparison (R190). -/
def cmpHolds (c : Cond) (a b : Int) : Bool :=
  match c with
  | .eq => a == b
  | .ne => a != b
  | .lt => decide (a < b)
  | .le => decide (a ≤ b)
  | .gt => decide (b < a)
  | .ge => decide (b ≤ a)

/-- The bit that PSET writes for a lane (R191). -/
def psetBit (u : Unit) (src : PsetSrc) (l : Nat) : Bool :=
  match src with
  | .bin .and a b => hasLane (u.p a) l && hasLane (u.p b) l
  | .bin .or a b => hasLane (u.p a) l || hasLane (u.p b) l
  | .bin .xor a b => hasLane (u.p a) l != hasLane (u.p b) l
  | .bin .andn a b => hasLane (u.p a) l && !hasLane (u.p b) l
  | .mask a => hasLane (u.src64 a 0) l

/-- A predicate named by the low three bits of a field. -/
def predOf (f : BitVec 8) : Pred := f.extractLsb' 0 3

end Sys2Proof.Machine
end

