-- ==== Sys2Proof/Machine/Queue.lean ====
section
/-! DEFINITION. Hardware queues (R230, R232 to R234, R294, R295) and the lane instructions QPOP, QPUSH and QSTA (R231). -/

namespace Sys2Proof.Machine

/-! ### Entries -/

/-- END of a tag word (R230). -/
def tagEnd : W32 := 0x00010000#32
/-- POISON of a tag word (R230). -/
def tagPoison : W32 := 0x00020000#32
/-- ROW_BEGIN of a tag word (R230). -/
def tagRowBegin : W32 := 0x00040000#32
/-- ROW_END of a tag word (R230). -/
def tagRowEnd : W32 := 0x00080000#32
/-- EMPTY of a tag word (R230). -/
def tagEmpty : W32 := 0x00100000#32

/-- Whether a tag word has a flag. -/
def hasFlag (tag flag : W32) : Bool := tag &&& flag != 0#32

/-- TAG of a tag word. -/
def tagCount (tag : W32) : Nat := tag.toNat % 2 ^ 16

/-- A queue entry: its words and its tag word. -/
structure QWord where
  words : List W32
  tag : W32
  deriving DecidableEq, Repr

/-- The entry that a closed queue gives (R232). -/
def closedEntry : QWord := { words := [], tag := tagEmpty ||| tagEnd }

/-- Word l of an entry; a word that is not there, and any word of an EMPTY entry, reads zero (R230). -/
def QWord.word (e : QWord) (l : Nat) : W32 := if hasFlag e.tag tagEmpty then 0#32 else e.words.getD l 0#32

/-- `%tinfo` of QUEUE_MISUSE (R231, R299). -/
def queueInfo (q : QueueN) (why : Nat) : W64 := BitVec.ofNat 64 (q.toNat + 2 ^ 48 * why)

/-- A queue of a task. -/
def State.queue (s : State) (t : Nat) (q : QueueN) : Option QueueSt := (s.task t).queues.get q.toNat

/-- The scratchpad address of entry j of a queue of width w (R294). -/
def QueueSt.addr (qs : QueueSt) (w j : Nat) : Nat := qs.base + j % qs.cap * (4 * w + 16)

/-- The 32-bit words of bytes. -/
def wordsOf (bs : List Byte) : Nat → List W32
  | 0 => []
  | n + 1 => BitVec.ofNat 32 (field bs 0 4) :: wordsOf (bs.drop 4) n

/-- The bytes of words. -/
def bytesOfWords (ws : List W32) : List Byte := ws.flatMap fun w => valBytes 4 w.toNat

/-- The entry at a place of a queue (R294). -/
def Task.entryAt (t : Task) (qs : QueueSt) (j : Nat) : QWord :=
  let ws := wordsOf (t.spad.readN (qs.addr t.wq j) (4 * t.wq + 4)) (t.wq + 1)
  { words := ws.take t.wq, tag := ws.getD t.wq 0#32 }

/-- The head entry of a queue. -/
def Task.headEntry (t : Task) (qs : QueueSt) : QWord := t.entryAt qs qs.head

/-- A queue of a task replaced. -/
def State.setQueue (s : State) (t : Nat) (q : QueueN) (qs : QueueSt) : State :=
  s.modTask t fun x => { x with queues := x.queues.set q.toNat qs }

/-- The head entry taken; an entry with END closes the queue (R232, R295). A closed queue gives its own entry; an empty one
gives none. -/
def State.takeEntry (s : State) (t : Nat) (q : QueueN) : Option (QWord × State) :=
  match s.queue t q with
  | none => none
  | some qs =>
    if qs.closed then some (closedEntry, s)
    else if qs.count == 0 then none
    else
      let e := (s.task t).headEntry qs
      some (e, s.setQueue t q
        { qs with head := (qs.head + 1) % qs.cap, count := qs.count - 1, closed := hasFlag e.tag tagEnd })

/-- An entry appended at the tail with all its bytes; a full queue takes none (R294, R295). -/
def State.putEntry (s : State) (t : Nat) (q : QueueN) (e : QWord) : Option State :=
  match s.queue t q with
  | none => none
  | some qs =>
    if qs.cap ≤ qs.count then none
    else
      let w := (s.task t).wq
      let bs := bytesOfWords ((e.words ++ List.replicate w 0#32).take w ++ [e.tag, 0#32, 0#32, 0#32])
      some ((s.setQueue t q { qs with count := qs.count + 1 }).modTask t fun x =>
        { x with spad := x.spad.writeN (qs.addr w (qs.head + qs.count)) bs })

/-- `%tinfo` of POISON, built from a POISON entry's words (R322). -/
def poisonInfo (q : QueueN) (e : QWord) : W64 :=
  let w0 := (e.words.getD 0 0#32).toNat
  let w1 := (e.words.getD 1 0#32).toNat
  let w3 := (e.words.getD 3 0#32).toNat
  let cause := w0 % 256
  let rh := if cause == cAccBound then 2 ^ 36 * nbits w3 28 4 + 2 ^ 32 * nbits w3 24 4 else 0
  BitVec.ofNat 64 (2 ^ 56 * cause + 2 ^ 48 * nbits w0 8 8 + 2 ^ 45 * q.toNat + rh + w1)

/-! ### QPOP, QPUSH, QSTA -/

/-- The breach of a queue instruction of a group, if any (R231). -/
def queueBreach (s : State) (u : Unit) (q : QueueN) : Option W64 :=
  match s.queue u.task q with
  | none => some (queueInfo q 0x0001)
  | some _ => if (s.task u.task).wq != u.width then some (queueInfo q 0x0002) else none

/-- A destination that will be written when a blocked instruction completes (R76). -/
def Unit.pendDst (u : Unit) (d : Dst) (m : LMask) : Unit := { u with vpend := u.vpend ++ [{ dst := d, mask := m, req := 0 }] }

/-- A destination of a blocked instruction that is written or given up. -/
def Unit.unpend (u : Unit) (d : Dst) : Unit := { u with vpend := u.vpend.filter fun v => v.dst != d || v.req != 0 }

/-- The tag register of QPOP as destinations. -/
def tagDst (tag : Option Reg) : List Dst :=
  match tag with
  | some r => [.r r]
  | none => []

/-- An entry delivered to the lanes of a QPOP (R232). -/
def Unit.deliver (u : Unit) (d : Reg) (tag : Option Reg) (m : LMask) (e : QWord) : Unit :=
  let u1 := (tagDst tag).foldl Unit.unpend (u.unpend (.r d))
  let u2 := u1.writeVar (.r d) ((lanesOf m).map fun l => (l, zx (e.word l)))
  (tagDst tag).foldl (fun v x => v.writeVar x [(0, zx e.tag)]) u2

/-- The attempt of a QPOP to take an entry for the lanes of a mask: what happens to them, or none where it waits (R232). -/
def qpopTry (uid : Nat) (d : Reg) (q : QueueN) (tag : Option Reg) (m : LMask) (s : State) :
    Option (State × List (Nat × LaneOut)) :=
  match s.takeEntry (s.unit uid).task q with
  | none => none
  | some (e, t) =>
    if hasFlag e.tag tagPoison then
      some (t.modUnit uid fun u => (tagDst tag).foldl Unit.unpend (u.unpend (.r d)),
        (lanesOf m).map fun l => (l, .trap cPoison (poisonInfo q e)))
    else some (t.modUnit uid fun u => u.deliver d tag m e, (lanesOf m).map fun l => (l, .next))

/-- QPOP (R232). -/
def qpopBody (d : Reg) (q : QueueN) (tag : Option Reg) (x : Issue) (s : State) : Res :=
  if x.act == 0#64 then .done s []
  else
    match queueBreach s (s.unit x.uid) q with
    | some info => .done s (x.trapAll cQueue info)
    | none =>
      match qpopTry x.uid d q tag x.act s with
      | some (t, outs) => .done t outs
      | none =>
        .done (s.modUnit x.uid fun u => (tagDst tag).foldl (fun v y => v.pendDst y x.act) (u.pendDst (.r d) x.act))
          (x.lanes.map fun l => (l, .block (.qpop d q tag)))

/-- QPOP (R231, R232). -/
def execQpop (h : Hdr) (d : Reg) (q : QueueN) (tag : Option Reg) (s : State) : Host.Outcome State Fault Refusal :=
  runIssue h (.qpop h d q tag) (qpopBody d q tag) s

/-- The words that a QPUSH appends (R233). -/
def pushWords (u : Unit) (a : Reg) (act : LMask) : List W32 :=
  (List.range u.width).map fun l => if hasLane act l then u.src32 a l else 0#32

/-- The tag word that a QPUSH appends (R233). -/
def pushTag (u : Unit) (fin : Bool) (tag : Option Reg) : W32 :=
  let base := match tag with
    | some r => lo32 (u.src64 r 0) &&& 0x001DFFFF#32
    | none => BitVec.ofNat 32 u.width
  if fin then base ||| tagEnd else base

/-- QPUSH (R233). -/
def qpushBody (fin : Bool) (a : Reg) (q : QueueN) (tag : Option Reg) (x : Issue) (s : State) : Res :=
  let u := s.unit x.uid
  if x.act == 0#64 then .done s []
  else
    match queueBreach s u q with
    | some info => .done s (x.trapAll cQueue info)
    | none =>
      let e : QWord := { words := pushWords u a x.act, tag := pushTag u fin tag }
      match s.putEntry u.task q e with
      | some t => .done t []
      | none => .done s (x.lanes.map fun l => (l, .block (.qpush e.words e.tag q)))

/-- QPUSH (R231, R233). -/
def execQpush (h : Hdr) (fin : Bool) (a : Reg) (q : QueueN) (tag : Option Reg) (s : State) :
    Host.Outcome State Fault Refusal :=
  runIssue h (.qpush h fin a q tag) (qpushBody fin a q tag) s

/-- The state word of a queue (R234). -/
def queueState (t : Task) (qs : QueueSt) : W64 :=
  let headp := qs.count != 0 && hasFlag (t.headEntry qs).tag tagPoison
  BitVec.ofNat 64 (qs.count + 2 ^ 16 * qs.cap + (if headp then 2 ^ 32 else 0) + (if qs.closed then 2 ^ 33 else 0))

/-- QSTA (R234). -/
def qstaBody (d : Reg) (q : QueueN) (x : Issue) (s : State) : Res :=
  let u := s.unit x.uid
  if x.act == 0#64 then .done s []
  else
    match queueBreach s u q with
    | some info => .done s (x.trapAll cQueue info)
    | none =>
      match s.queue u.task q with
      | some qs => .done (s.modUnit x.uid fun v => v.writeVar (.r d) [(0, queueState (s.task u.task) qs)]) []
      | none => .done s []

/-- QSTA (R231, R234). -/
def execQsta (h : Hdr) (d : Reg) (q : QueueN) (s : State) : Host.Outcome State Fault Refusal :=
  runIssue h (.qsta h d q) (qstaBody d q) s

end Sys2Proof.Machine
end

