-- ==== Sys2Proof/Machine/Loop.lean ====
section
/-! DEFINITION. Refill loops: the iteration source and its grants (R165, R166), the release of RFLI (R164, R211), the steps
of RFL (R167), the drain (R168) and the ordered wait (R171). -/

namespace Sys2Proof.Machine

/-- The next word of a loop's source for the lane at the head of the order: none where the grant must wait; `fuel` bounds
the entries read, each of which takes one out of the queue (R165). -/
def State.nextGrant (s : State) (uid : Nat) (lp : Loop) : Nat → Option (State × Loop × Grant)
  | 0 => none
  | fuel + 1 =>
    match lp.src with
    | .range first last =>
      if last.ule first then some (s, { lp with exhausted := true }, .exhausted)
      else some (s, { lp with src := .range (first + 1#32) last, nextAge := lp.nextAge + 1 }, .iter lp.nextAge first)
    | .queue q words ended =>
      match words with
      | w :: ws => some (s, { lp with src := .queue q ws ended, nextAge := lp.nextAge + 1 }, .iter lp.nextAge w)
      | [] =>
        if ended then some (s, { lp with exhausted := true }, .exhausted)
        else
          match s.takeEntry (s.unit uid).task q with
          | none => none
          | some (e, t) =>
            let fin := hasFlag e.tag tagEnd
            let n := if hasFlag e.tag tagEmpty then 0 else tagCount e.tag
            if hasFlag e.tag tagPoison then
              some (t, { lp with src := .queue q [] fin, nextAge := lp.nextAge + 1 }, .poison lp.nextAge (poisonInfo q e))
            else if (s.unit uid).width < n then some (t, { lp with src := .queue q [] fin }, .misuse (tagCount e.tag))
            else t.nextGrant uid { lp with src := .queue q (e.words.take n) fin } fuel

/-- The most entries that one grant reads: those of a full queue and the closed one (R165). -/
def grantFuel : Nat := 258

/-- Grants made to the waiting lanes in their order until one must wait (R166); `fuel` is the count of waiting lanes. -/
def State.feedLoop (s : State) (uid : Nat) : Nat → State
  | 0 => s
  | fuel + 1 =>
    match (s.unit uid).loop with
    | none => s
    | some lp =>
      match lp.waiting with
      | [] => s
      | l :: ls =>
        match s.nextGrant uid lp grantFuel with
        | none => s
        | some (t, lp', g) =>
          (t.modUnit uid fun u =>
            ({ u with loop := some { lp' with waiting := ls } }).modLane l fun y => { y with grant := some g }).feedLoop uid fuel

/-- The waiting lanes of a unit's loop fed (R166). -/
def State.feedGrants (s : State) (uid : Nat) : State :=
  match (s.unit uid).loop with
  | some lp => s.feedLoop uid lp.waiting.length
  | none => s

/-- A grant taken by a lane: it enters `.prologue` at a priority, or becomes Idle, or traps there (R165 to R168). -/
def State.takeGrant (s : State) (uid l : Nat) (prio : BitVec 2) (g : Grant) : State × LaneOut :=
  let u := s.unit uid
  let pro := match u.loop with
    | some lp => lp.bounds.1
    | none => 0#64
  let put (inIter : Bool) (it age : W32) (bad : Bool) : State :=
    s.modUnit uid fun v => v.modLane l fun y =>
      { y with grant := none, inIter := inIter, iter := it, age := age, badGrant := bad }
  match g with
  | .exhausted => (put false (u.lane l).iter (u.lane l).age false, .idle .spent)
  | .iter age it => (put true it (BitVec.ofNat 32 age) false, .jump pro prio)
  | .poison age info =>
    (put true ones32 (BitVec.ofNat 32 age) false, .jumpTrap (s.firstInstr uid pro 255) prio cPoison info)
  | .misuse tag =>
    (put false ones32 ones32 true, .jumpTrap (s.firstInstr uid pro 255) prio cQueue (BitVec.ofNat 64 tag))

/-- A lane that waits for its grant (R165, R166). -/
def grantPoll (bp : BitVec 2) (uid l : Nat) (s : State) : Poll :=
  match ((s.unit uid).lane l).grant with
  | some g =>
    let r := s.takeGrant uid l bp g
    .go r.1 r.2
  | none => .wait s

/-- RFL of one lane after its grant was allocated: the implicit await, the outgoing edge where the lane held a frame, the
end of the retire, then the grant (R167). -/
def rflPoll (bp : BitVec 2) (held : LMask) (uid l : Nat) (s : State) : Poll :=
  let finish (t : State) : Poll :=
    match grantPoll bp uid l ((t.strandEnd uid l).modUnit uid fun u => u.retireDone l) with
    | .wait t1 => .go t1 (.block (.grant bp))
    | p => p
  match s.awaitDone uid l with
  | none => .wait (s.markAwait uid l)
  | some t =>
    if hasLane held l then
      match t.outEdge uid l with
      | .wait t1 => .wait t1
      | .fault t1 c i => .go t1 (.trap c i)
      | .ok t1 => finish t1
    else finish t

/-- The lanes made Idle by exhaustion enter `.drain` together once no lane of the group is live (R168). -/
def checkDrain (uid : Nat) (s : State) : State :=
  let u := s.unit uid
  match u.loop with
  | none => s
  | some lp =>
    let spent := u.lanesIn .spent
    if !u.live.isEmpty || spent.isEmpty then s
    else
      let u1 := spent.foldl (fun v l => v.modLane l fun y =>
        { y with st := .live, inIter := false, iter := ones32, age := ones32, grant := none }) u
      s.setUnit uid (u1.place (maskOf spent) lp.bounds.2.2.2.1 1#2 none)

/-- Whether an entry waits at an RFLI. -/
def Entry.rfliAt (e : Entry) : Option (Bool × IterSrc × LoopLens) :=
  match e.blk with
  | some (.rfli o src lens) => some (o, src, lens)
  | _ => none

/-- The source of a loop instance as the release reads it (R165, R211). -/
def Unit.loopSrc (u : Unit) (src : IterSrc) : LoopSrc :=
  match src with
  | .range n => .range (lo32 (u.s n.val)) (hi32 (u.s n.val))
  | .queue q => .queue q [] false

/-- The release of RFLI once every live lane waits at it: the loop instance is formed and each live lane, in increasing
order, receives its first grant (R164, R211). Entry and drain strands end there, so pending claims lapse (R349). -/
def rfliRelease (uid : Nat) (s : State) : State :=
  let u := s.unit uid
  match u.frontier with
  | [] => s
  | e :: rest =>
    match e.rfliAt with
    | none => s
    | some (o, src, lens) =>
      if rest.all fun f => f.rfliAt.isSome && f.pc == e.pc then
        let ls := u.live
        let lp : Loop :=
          { addr := e.pc, ord := o, lens := lens, src := u.loopSrc src, nextAge := 0, finished := [], waiting := ls,
            exhausted := false }
        let s1 := ls.foldl (fun t l => t.strandEnd uid l) s
        let u1 := { s1.unit uid with loop := some lp }
        let s2 := s1.setUnit uid (u1.place (maskOf ls) e.pc 3#2 (some (.grant 3#2)))
        let s3 := s2.feedGrants uid
        let (s4, outs) := pollLanes (fun l t => (grantPoll 3#2 uid l t).orBlock (.grant 3#2)) ls s3
        let x : Issue := { uid := uid, pc := e.pc, len := 8, mask := maskOf ls, act := maskOf ls, prio := 3#2, opc := 0x75 }
        checkDrain uid (s4.settle x false outs)
      else s

/-- Whether an entry waits at a SYNG. -/
def Entry.atSyng (e : Entry) : Bool := e.blk == some .syng

/-- A blocked entry that satisfies a test released at the instruction after it, whose length is given (R157, R159). -/
def Unit.freeEntries (u : Unit) (len : Nat) (f : Entry → Bool) : Unit :=
  { u with frontier := u.frontier.foldl (fun fr e =>
      addEntry fr (if f e then { e with pc := e.pc + BitVec.ofNat 64 len, blk := none, cnt := 0, aged := false } else e)) [] }

/-- The release of SYNG once every live lane waits at the same PC (R172, R173). -/
def syngRelease (uid : Nat) (s : State) : State :=
  let u := s.unit uid
  match u.frontier with
  | [] => s
  | e :: rest =>
    if e.atSyng && rest.all (fun f => f.atSyng && f.pc == e.pc) then s.setUnit uid (u.freeEntries 8 Entry.atSyng)
    else s

/-- The releases that concern a whole group: SYNG, RFLI and the entry to `.drain` (R164, R168, R172). -/
def groupRelease (uid : Nat) (s : State) : State := checkDrain uid (rfliRelease uid (syngRelease uid s))

end Sys2Proof.Machine
end

