-- ==== Sys2Proof/Machine/Ctrl.lean ====
section
/-! DEFINITION. Control transfer, breakpoints, refill loops and the group barrier (R205 to R213). -/

namespace Sys2Proof.Machine

/-- Every lane of Active sent to one address at the branch's priority (R157, R205). -/
def jumpAll (x : Issue) (bp : BitVec 2) (f : Nat → W64) : List (Nat × LaneOut) := x.lanes.map fun l => (l, .jump (f l) bp)

/-- The target of a displacement: P + 4 × D, D signed (R205). -/
def dispTarget (x : Issue) (disp : BitVec 24) : W64 := x.pc + 4#64 * disp.signExtend 64

/-- BRA (R205). -/
def execBra (h : Hdr) (bp : BitVec 2) (disp : BitVec 24) (s : State) : Host.Outcome State Fault Refusal :=
  runIssue h (.bra h bp disp) (fun x t => .done t (jumpAll x bp fun _ => dispTarget x disp)) s

/-- JMP (R206). -/
def execJmp (h : Hdr) (bp : BitVec 2) (a : Reg) (s : State) : Host.Outcome State Fault Refusal :=
  runIssue h (.jmp h bp a) (fun x t => .done t (jumpAll x bp fun l => (t.unit x.uid).src64 a l)) s

/-- JMP with an index register (R206). -/
def execJmpIndexed (h : Hdr) (bp : BitVec 2) (a b : Reg) (s : State) : Host.Outcome State Fault Refusal :=
  runIssue h (.jmpIndexed h bp a b)
    (fun x t => .done t (jumpAll x bp fun l => (t.unit x.uid).src64 a l + zx ((t.unit x.uid).src32 b l))) s

/-- The register after a vector register; the pair of a link or an address (R207, R227). -/
def nextReg (r : Reg) : Reg := Reg.ofCode (r.code + 1#8)

/-- The link written with the return address, at variable latency (R207). -/
def Unit.writeLink (u : Unit) (link : Reg) (act : LMask) (v : W64) : Unit :=
  if isVec link then
    (u.writeVar (.r link) ((lanesOf act).map fun l => (l, zx (lo32 v)))).writeVar (.r (nextReg link))
      ((lanesOf act).map fun l => (l, zx (hi32 v)))
  else if act == 0#64 then u
  else u.writeVar (.r link) [(0, v)]

/-- CALL to a target of each lane (R207). -/
def callBody (bp : BitVec 2) (link : Reg) (f : Issue → Unit → Nat → W64) (x : Issue) (s : State) : Res :=
  .done (s.modUnit x.uid fun u => u.writeLink link x.act (x.pc + 8#64)) (jumpAll x bp fun l => f x (s.unit x.uid) l)

/-- CALL (R207). -/
def execCall (h : Hdr) (bp : BitVec 2) (link : Reg) (disp : BitVec 24) (s : State) : Host.Outcome State Fault Refusal :=
  runIssue h (.call h bp link disp) (callBody bp link fun x _ _ => dispTarget x disp) s

/-- CALL.r (R207). -/
def execCallR (h : Hdr) (bp : BitVec 2) (link a : Reg) (s : State) : Host.Outcome State Fault Refusal :=
  runIssue h (.callR h bp link a) (callBody bp link fun _ u l => u.src64 a l) s

/-- A link or address register: a vector pair, or a scalar register (R207, R227). -/
def Unit.pair64 (u : Unit) (r : Reg) (l : Nat) : W64 :=
  if isVec r then join64 (u.src32 (nextReg r) l) (u.src32 r l) else u.src64 r l

/-- RET (R207). -/
def execRet (h : Hdr) (bp : BitVec 2) (link : Reg) (s : State) : Host.Outcome State Fault Refusal :=
  runIssue h (.ret h bp link) (fun x t => .done t (jumpAll x bp fun l => (t.unit x.uid).pair64 link l)) s

/-- The record of a stop and its report to the kernel: the comparator, or 4 with the code of a BRK (R392, R399). -/
def State.stopReport (s : State) (uid l : Nat) (pc : W64) (aux : Nat) (data : W32) : State :=
  let t := s.traceLane uid l 0x02 aux pc data
  { t with reports := t.reports ++ [.stop uid l] }

/-- BRK: a stop of each lane of Active where software breakpoints are armed, else nothing (R209, R399). -/
def brkBody (code : BitVec 8) (x : Issue) (s : State) : Res :=
  if (s.core (s.unit x.uid).core).traceSwbk then
    .done (x.lanes.foldl (fun t l => t.stopReport x.uid l x.pc 4 (code.setWidth 32)) s)
      (x.lanes.map fun l => (l, .block (.stopped true)))
  else .done s []

/-- BRK (R209). -/
def execBrk (h : Hdr) (code : BitVec 8) (s : State) : Host.Outcome State Fault Refusal :=
  runIssue h (.brk h code) (brkBody code) s

/-- `%tinfo` of an ILLEGAL_OP that depends on lane state (R84, R211, R212, R240). -/
def stateInfo (i : Instr) (bit : Nat) : W64 := decodeInfo (i.toRaw.toWord.setWidth 32) 0x07 bit

/-- RFLI: checks, then the wait for every live lane (R211) (DEDUCED, assumption log 40). -/
def rfliBody (i : Instr) (ord : Bool) (src : IterSrc) (lens : LoopLens) (x : Issue) (s : State) : Res :=
  let u := s.unit x.uid
  let blockAll : Res := .done s ((lanesOf x.mask).map fun l => (l, .block (.rfli ord src lens)))
  let raise (c : Cause) (info : W64) : Res := .done s ((lanesOf x.mask).map fun l => (l, .trap c info))
  if (lanesOf x.mask).any fun l => (u.lane l).inIter then raise cIllegalOp (stateInfo i 0)
  else
    match src with
    | .range _ => blockAll
    | .queue q => if (s.queue u.task q).isSome then blockAll else raise cQueue (queueInfo q 0x0001)

/-- RFLI (R210, R211). -/
def execRfli (h : Hdr) (src : IterSrc) (lens : LoopLens) (s : State) : Host.Outcome State Fault Refusal :=
  runIssueThen h (.rfli h src lens) (rfliBody (.rfli h src lens) false src lens) rfliRelease s

/-- RFLI.ORD (R210, R211). -/
def execRfliOrd (h : Hdr) (src : IterSrc) (lens : LoopLens) (s : State) : Host.Outcome State Fault Refusal :=
  runIssueThen h (.rfliOrd h src lens) (rfliBody (.rfliOrd h src lens) true src lens) rfliRelease s

/-- Whether an RFL is in its place: a live iteration, the last eight bytes of `.retire`, and the loop's order (R212). -/
def rflOk (u : Unit) (ord : Bool) (pc : W64) (l : Nat) : Bool :=
  match u.loop with
  | some lp => (u.lane l).inIter && pc + 8#64 == lp.bounds.2.2.2.1 && lp.ord == ord
  | none => false

/-- The lanes of an RFL enter the order of grants, those aside that already hold a place or a grant (R166). -/
def Unit.queueGrants (u : Unit) (ls : List Nat) : Unit :=
  { u with loop := u.loop.map fun lp =>
      { lp with waiting := lp.waiting ++ ls.filter fun l => !lp.waiting.contains l && (u.lane l).grant.isNone } }

/-- RFL: the grants are allocated, then each lane retires (R167, R212). -/
def rflBody (i : Instr) (ord : Bool) (bp : BitVec 2) (x : Issue) (s : State) : Res :=
  let u := s.unit x.uid
  let ls := lanesOf x.mask
  if ls.all fun l => rflOk u ord x.pc l then
    let held := maskOf (ls.filter fun l => (u.lane l).frame.isSome)
    let s1 := (s.setUnit x.uid (u.queueGrants ls)).feedGrants x.uid
    let (s2, outs) := pollLanes (fun l t => (rflPoll bp held x.uid l t).orBlock (.rfl bp held)) ls s1
    .done s2 outs
  else .done s (ls.map fun l => (l, .trap cIllegalOp (stateInfo i 52)))

/-- RFL (R167, R212). -/
def execRfl (h : Hdr) (bp : BitVec 2) (s : State) : Host.Outcome State Fault Refusal :=
  runIssueThen h (.rfl h bp) (raiseHeld (rflBody (.rfl h bp) false bp)) groupRelease s

/-- RFL.ORD (R167, R212). -/
def execRflOrd (h : Hdr) (bp : BitVec 2) (s : State) : Host.Outcome State Fault Refusal :=
  runIssueThen h (.rflOrd h bp) (raiseHeld (rflBody (.rflOrd h bp) true bp)) groupRelease s

/-- SYNG: every lane of the mask arrives (R172, R213). -/
def execSyng (h : Hdr) (s : State) : Host.Outcome State Fault Refusal :=
  runIssueThen h (.syng h) (fun x t => .done t ((lanesOf x.mask).map fun l => (l, .block .syng))) syngRelease s

end Sys2Proof.Machine
end

