-- ==== Sys2Proof/Machine/Float.lean ====
section
/-! DEFINITION. Floating point in the formats of R86, exactly: a number is decoded to a sign, an integer and a power of two,
an operation gives the exact result, and one rounding gives the bits (R87, R93 to R96, R196). FEXP2 and FLOG2 are the
evaluations of R99 to R101. -/

namespace Sys2Proof.Machine

/-- An element format: exponent width, fraction width, bias, largest finite magnitude, canonical NaN, and whether it has
infinities (R86, R87). -/
structure Fmt where
  eb : Nat
  fb : Nat
  bias : Nat
  top : Nat
  nan : Nat
  infs : Bool
  deriving DecidableEq, Repr

/-- FP32. -/
def fp32 : Fmt := { eb := 8, fb := 23, bias := 127, top := 0x7F7FFFFF, nan := 0x7FC00000, infs := true }
/-- FP16. -/
def fp16 : Fmt := { eb := 5, fb := 10, bias := 15, top := 0x7BFF, nan := 0x7E00, infs := true }
/-- BF16. -/
def bf16 : Fmt := { eb := 8, fb := 7, bias := 127, top := 0x7F7F, nan := 0x7FC0, infs := true }
/-- E4M3. -/
def e4m3 : Fmt := { eb := 4, fb := 3, bias := 7, top := 0x7E, nan := 0x7F, infs := false }

/-- The bit of the sign. -/
def Fmt.signBit (f : Fmt) : Nat := 2 ^ (f.eb + f.fb)

/-- A number: not a number, an infinity, or (−1)^neg × m × 2^e. -/
inductive Num where
  | nan
  | inf (neg : Bool)
  | fin (neg : Bool) (m : Nat) (e : Int)
  deriving DecidableEq, Repr

/-- The value of an encoding, its special codes read as R108 reads them: the finite value that E and M give. -/
def Fmt.finite (f : Fmt) (v : Nat) : Num :=
  let neg := v / f.signBit % 2 == 1
  let e := nbits v f.fb f.eb
  let m := v % 2 ^ f.fb
  if e == 0 then .fin neg m (1 - (f.bias : Int) - f.fb)
  else .fin neg (2 ^ f.fb + m) ((e : Int) - f.bias - f.fb)

/-- The value of an encoding (R87). -/
def Fmt.decode (f : Fmt) (v : Nat) : Num :=
  let mag := v % f.signBit
  if mag ≤ f.top then f.finite v
  else if f.infs && mag == f.top + 1 then .inf (v / f.signBit % 2 == 1)
  else .nan

/-- Whether an encoding is an infinity or a NaN. -/
def Fmt.special (f : Fmt) (v : Nat) : Bool := decide (f.top < v % f.signBit)

/-- Whether a discarded part rounds the magnitude up: `q` is kept, `r` of `d` is discarded (R93). -/
def roundsUp (rm : Rm) (neg : Bool) (q r d : Nat) : Bool :=
  match rm with
  | .rn => decide (d < 2 * r) || (2 * r == d && q % 2 == 1)
  | .rz => false
  | .ru => !neg && r != 0
  | .rd => neg && r != 0

/-- m × 2^(−sh) rounded to an integer. -/
def roundShift (rm : Rm) (neg : Bool) (m : Nat) (sh : Int) : Nat :=
  if sh ≤ 0 then m * 2 ^ (-sh).toNat
  else
    let d := 2 ^ sh.toNat
    m / d + (if roundsUp rm neg (m / d) (m % d) d then 1 else 0)

/-- The magnitude of m × 2^e rounded to a format's fraction and subnormals with an unbounded exponent above, as the
encoding that the exponent and the fraction would have. -/
def Fmt.roundMag (f : Fmt) (rm : Rm) (neg : Bool) (m : Nat) (e : Int) : Nat :=
  if m == 0 then 0
  else
    let low : Int := 1 - (f.bias : Int) - f.fb
    let q := max (e + Nat.log2 m - f.fb) low
    (q - low).toNat * 2 ^ f.fb + roundShift rm neg m (q - e)

/-- Whether a magnitude beyond the largest finite rounds to infinity, where not to the largest finite (R94). -/
def overflowsToInf (rm : Rm) (neg : Bool) : Bool :=
  match rm with
  | .rn => true
  | .rz => false
  | .ru => !neg
  | .rd => neg

/-- A magnitude with its sign. -/
def Fmt.signed (f : Fmt) (neg : Bool) (mag : Nat) : Nat := if neg then mag + f.signBit else mag

/-- A number rounded once to a format with infinities; NaN is canonical (R94, R95). -/
def Fmt.round (f : Fmt) (rm : Rm) : Num → Nat
  | .nan => f.nan
  | .inf neg => f.signed neg (f.top + 1)
  | .fin neg m e =>
    let mag := f.roundMag rm neg m e
    if mag ≤ f.top then f.signed neg mag
    else f.signed neg (if overflowsToInf rm neg then f.top + 1 else f.top)

/-! ### Exact operations -/

/-- The sign reversed. -/
def Num.neg : Num → Num
  | .nan => .nan
  | .inf n => .inf (!n)
  | .fin n m e => .fin (!n) m e

/-- A finite number as a multiple of 2^e, where e is at most its own exponent. -/
def scaledInt (neg : Bool) (m : Nat) (e low : Int) : Int :=
  let v : Int := m * 2 ^ (e - low).toNat
  if neg then -v else v

/-- The exact sum. An exact zero is +0, or −0 under `.rd`, unless both operands are zero of one sign (R94). -/
def Num.add (rm : Rm) : Num → Num → Num
  | .nan, _ => .nan
  | _, .nan => .nan
  | .inf a, .inf b => if a == b then .inf a else .nan
  | .inf a, _ => .inf a
  | _, .inf b => .inf b
  | .fin na ma ea, .fin nb mb eb =>
    let low := min ea eb
    let v := scaledInt na ma ea low + scaledInt nb mb eb low
    if v == 0 then .fin (if na == nb then na else rm == .rd) 0 0 else .fin (decide (v < 0)) v.natAbs low

/-- The exact product. -/
def Num.mul : Num → Num → Num
  | .nan, _ => .nan
  | _, .nan => .nan
  | .inf a, .inf b => .inf (a != b)
  | .inf a, .fin b m _ => if m == 0 then .nan else .inf (a != b)
  | .fin a m _, .inf b => if m == 0 then .nan else .inf (a != b)
  | .fin a ma ea, .fin b mb eb => .fin (a != b) (ma * mb) (ea + eb)

/-- A quotient of integers to 80 bits past the point, with a last bit that is set where it is not exact. -/
def stickyDiv (a b : Nat) : Nat := 2 * (a * 2 ^ 80 / b) + (if a * 2 ^ 80 % b == 0 then 0 else 1)

/-- The quotient, exact but for a last bit below every rounding position that marks a remainder. -/
def Num.div : Num → Num → Num
  | .nan, _ => .nan
  | _, .nan => .nan
  | .inf _, .inf _ => .nan
  | .inf a, .fin b _ _ => .inf (a != b)
  | .fin a _ _, .inf b => .fin (a != b) 0 0
  | .fin a ma ea, .fin b mb eb =>
    if mb == 0 then (if ma == 0 then .nan else .inf (a != b))
    else if ma == 0 then .fin (a != b) 0 0
    else .fin (a != b) (stickyDiv ma mb) (ea - eb - 81)

/-- The integer square root, one binary digit at a time from the given digit down. -/
def isqrtFrom (n : Nat) : Nat → Nat → Nat
  | 0, r => r
  | k + 1, r => isqrtFrom n k (if (r + 2 ^ k) * (r + 2 ^ k) ≤ n then r + 2 ^ k else r)

/-- The integer square root of a number below 2^144. -/
def isqrt (n : Nat) : Nat := isqrtFrom n 72 0

/-- A number with an even exponent: (integer, half the exponent). -/
def evenExp (m : Nat) (e : Int) : Nat × Int := if e % 2 == 0 then (m, e / 2) else (2 * m, (e - 1) / 2)

/-- The square root, with a last bit that marks a remainder (R196). -/
def Num.sqrt : Num → Num
  | .nan => .nan
  | .inf neg => if neg then .nan else .inf false
  | .fin neg m e =>
    if m == 0 then .fin neg 0 0
    else if neg then .nan
    else
      let (k, h) := evenExp m e
      let n := k * 2 ^ 80
      let r := isqrt n
      .fin false (2 * r + (if r * r == n then 0 else 1)) (h - 41)

/-- The reciprocal square root, with a last bit that marks a remainder (R196). -/
def Num.rsqrt : Num → Num
  | .nan => .nan
  | .inf neg => if neg then .nan else .fin false 0 0
  | .fin neg m e =>
    if m == 0 then .inf neg
    else if neg then .nan
    else
      let (k, h) := evenExp m e
      let r := isqrt (2 ^ 128 / k)
      .fin false (2 * r + (if r * r * k == 2 ^ 128 then 0 else 1)) (-h - 65)

/-- A number times a power of two; beyond ±1024 every power rounds alike (R196). -/
def Num.scale (k : Int) : Num → Num
  | .nan => .nan
  | .inf n => .inf n
  | .fin n m e => .fin n m (e + max (-1024) (min 1024 k))

/-- A number rounded to an integral value; a zero keeps its sign (R196). -/
def Num.integral (rm : Rm) : Num → Num
  | .nan => .nan
  | .inf n => .inf n
  | .fin n m e => if 0 ≤ e then .fin n m e else .fin n (roundShift rm n m (-e)) 0

/-- A finite number rounded to an integer; an infinity gives the bound of its sign, NaN gives 0 (R97). -/
def Num.toInt (rm : Rm) (lo hi : Int) : Num → Int
  | .nan => 0
  | .inf n => if n then lo else hi
  | .fin n m e =>
    let k : Int := roundShift rm n m (-e)
    max lo (min hi (if n then -k else k))

/-- An integer as a number. -/
def Num.ofInt (v : Int) : Num := .fin (decide (v < 0)) v.natAbs 0

/-! ### FP32 -/

/-- A 32-bit word as a number. -/
def num32 (v : W32) : Num := fp32.decode v.toNat

/-- A number rounded to FP32. -/
def round32 (rm : Rm) (x : Num) : W32 := BitVec.ofNat 32 (fp32.round rm x)

/-- One FP32 addition. -/
def add32 (rm : Rm) (a b : W32) : W32 := round32 rm ((num32 a).add rm (num32 b))

/-- One FP32 multiplication. -/
def mul32 (rm : Rm) (a b : W32) : W32 := round32 rm ((num32 a).mul (num32 b))

/-- One FP32 fused multiply-add. -/
def fma32 (rm : Rm) (a b c : W32) : W32 := round32 rm (((num32 a).mul (num32 b)).add rm (num32 c))

/-- Whether an FP32 word is a NaN. -/
def isNan32 (v : W32) : Bool := decide (0x7F800000 < v.toNat % 2 ^ 31)

/-- Order of FP32 words that are not NaN, −0 below +0 (R197). -/
def ordKey (v : W32) : Int := if v.getLsbD 31 then -(v.toNat % 2 ^ 31 : Int) - 1 else v.toNat

/-- Order of FP32 words that are not NaN, −0 equal to +0 (R198). -/
def cmpKey (v : W32) : Int := if v.getLsbD 31 then -(v.toNat % 2 ^ 31 : Int) else v.toNat

/-- FMIN (R197). -/
def fmin32 (a b : W32) : W32 :=
  if isNan32 a then (if isNan32 b then 0x7FC00000#32 else b)
  else if isNan32 b then a
  else if ordKey b < ordKey a then b else a

/-- FMAX (R197). -/
def fmax32 (a b : W32) : W32 :=
  if isNan32 a then (if isNan32 b then 0x7FC00000#32 else b)
  else if isNan32 b then a
  else if ordKey a < ordKey b then b else a

/-- The outcome of FCMP (R198). -/
def fcmp32 (c : FCond) (a b : W32) : Bool :=
  let n := isNan32 a || isNan32 b
  match c with
  | .eq => !n && cmpKey a == cmpKey b
  | .ne => n || cmpKey a != cmpKey b
  | .lt => !n && decide (cmpKey a < cmpKey b)
  | .le => !n && decide (cmpKey a ≤ cmpKey b)
  | .gt => !n && decide (cmpKey b < cmpKey a)
  | .ge => !n && decide (cmpKey b ≤ cmpKey a)
  | .num => !n
  | .nan => n

/-- The class bit of an FP32 word (R199). -/
def classBit (v : W32) : Nat :=
  let mag := v.toNat % 2 ^ 31
  let neg := v.getLsbD 31
  if 0x7F800000 < mag then 0
  else if mag == 0x7F800000 then (if neg then 1 else 7)
  else if mag == 0 then 4
  else if mag < 0x00800000 then (if neg then 3 else 5)
  else if neg then 2 else 6

/-! ### FEXP2 and FLOG2 -/

/-- The table T, nearest to 2^(j/128), entries 0 to 15. -/
def tabT0 : List Nat :=
  [0x3F800000, 0x3F80B1ED, 0x3F8164D2, 0x3F8218AF, 0x3F82CD87, 0x3F838359, 0x3F843A29, 0x3F84F1F6,
   0x3F85AAC3, 0x3F866491, 0x3F871F62, 0x3F87DB35, 0x3F88980F, 0x3F8955EE, 0x3F8A14D5, 0x3F8AD4C6]

/-- The table T, nearest to 2^(j/128), entries 16 to 31. -/
def tabT1 : List Nat :=
  [0x3F8B95C2, 0x3F8C57CA, 0x3F8D1ADF, 0x3F8DDF04, 0x3F8EA43A, 0x3F8F6A81, 0x3F9031DC, 0x3F90FA4D,
   0x3F91C3D3, 0x3F928E72, 0x3F935A2B, 0x3F9426FF, 0x3F94F4F0, 0x3F95C3FF, 0x3F96942D, 0x3F97657D]

/-- The table T, nearest to 2^(j/128), entries 32 to 47. -/
def tabT2 : List Nat :=
  [0x3F9837F0, 0x3F990B88, 0x3F99E046, 0x3F9AB62B, 0x3F9B8D3A, 0x3F9C6573, 0x3F9D3EDA, 0x3F9E196E,
   0x3F9EF532, 0x3F9FD228, 0x3FA0B051, 0x3FA18FAF, 0x3FA27043, 0x3FA3520F, 0x3FA43516, 0x3FA51958]

/-- The table T, nearest to 2^(j/128), entries 48 to 63. -/
def tabT3 : List Nat :=
  [0x3FA5FED7, 0x3FA6E595, 0x3FA7CD94, 0x3FA8B6D5, 0x3FA9A15B, 0x3FAA8D26, 0x3FAB7A3A, 0x3FAC6897,
   0x3FAD583F, 0x3FAE4934, 0x3FAF3B79, 0x3FB02F0E, 0x3FB123F6, 0x3FB21A32, 0x3FB311C4, 0x3FB40AAF]

/-- The table T, nearest to 2^(j/128), entries 64 to 79. -/
def tabT4 : List Nat :=
  [0x3FB504F3, 0x3FB60094, 0x3FB6FD92, 0x3FB7FBF0, 0x3FB8FBAF, 0x3FB9FCD2, 0x3FBAFF5B, 0x3FBC034A,
   0x3FBD08A4, 0x3FBE0F68, 0x3FBF179A, 0x3FC0213B, 0x3FC12C4D, 0x3FC238D2, 0x3FC346CD, 0x3FC4563F]

/-- The table T, nearest to 2^(j/128), entries 80 to 95. -/
def tabT5 : List Nat :=
  [0x3FC5672A, 0x3FC67991, 0x3FC78D75, 0x3FC8A2D8, 0x3FC9B9BE, 0x3FCAD226, 0x3FCBEC15, 0x3FCD078C,
   0x3FCE248C, 0x3FCF4319, 0x3FD06334, 0x3FD184DF, 0x3FD2A81E, 0x3FD3CCF1, 0x3FD4F35B, 0x3FD61B5E]

/-- The table T, nearest to 2^(j/128), entries 96 to 111. -/
def tabT6 : List Nat :=
  [0x3FD744FD, 0x3FD87039, 0x3FD99D16, 0x3FDACB94, 0x3FDBFBB8, 0x3FDD2D82, 0x3FDE60F5, 0x3FDF9613,
   0x3FE0CCDF, 0x3FE2055B, 0x3FE33F89, 0x3FE47B6D, 0x3FE5B907, 0x3FE6F85B, 0x3FE8396A, 0x3FE97C38]

/-- The table T, nearest to 2^(j/128), entries 112 to 127. -/
def tabT7 : List Nat :=
  [0x3FEAC0C7, 0x3FEC0719, 0x3FED4F30, 0x3FEE9910, 0x3FEFE4BA, 0x3FF13231, 0x3FF28177, 0x3FF3D290,
   0x3FF5257D, 0x3FF67A41, 0x3FF7D0DF, 0x3FF9295A, 0x3FFA83B3, 0x3FFBDFED, 0x3FFD3E0C, 0x3FFE9E11]

/-- The table T, nearest to 2^(j/128) (R99). -/
def tabT : List Nat :=
  tabT0 ++ tabT1 ++ tabT2 ++ tabT3 ++ tabT4 ++ tabT5 ++ tabT6 ++ tabT7

/-- The table L, nearest to log2(1 + j/128), entries 0 to 15. -/
def tabL0 : List Nat :=
  [0x00000000, 0x3C37F286, 0x3CB73CB4, 0x3D08E68F, 0x3D35D69C, 0x3D626FD6, 0x3D8759C5, 0x3D9D517F,
   0x3DB31FB8, 0x3DC8C50B, 0x3DDE4212, 0x3DF39761, 0x3E0462C4, 0x3E0EE68D, 0x3E19574F, 0x3E23B550]

/-- The table L, nearest to log2(1 + j/128), entries 16 to 31. -/
def tabL1 : List Nat :=
  [0x3E2E00D2, 0x3E383A17, 0x3E42615F, 0x3E4C76E8, 0x3E567AF1, 0x3E606DB6, 0x3E6A4F72, 0x3E74205F,
   0x3E7DE0B6, 0x3E83C857, 0x3E88983F, 0x3E8D602E, 0x3E92203D, 0x3E96D888, 0x3E9B8926, 0x3EA03232]

/-- The table L, nearest to log2(1 + j/128), entries 32 to 47. -/
def tabL2 : List Nat :=
  [0x3EA4D3C2, 0x3EA96DF0, 0x3EAE00D2, 0x3EB28C7F, 0x3EB7110E, 0x3EBB8E96, 0x3EC0052B, 0x3EC474E4,
   0x3EC8DDD4, 0x3ECD4012, 0x3ED19BB0, 0x3ED5F0C4, 0x3EDA3F60, 0x3EDE8797, 0x3EE2C97D, 0x3EE70525]

/-- The table L, nearest to log2(1 + j/128), entries 48 to 63. -/
def tabL3 : List Nat :=
  [0x3EEB3A9F, 0x3EEF69FF, 0x3EF39355, 0x3EF7B6B4, 0x3EFBD42B, 0x3EFFEBCD, 0x3F01FED4, 0x3F0404E8,
   0x3F060828, 0x3F08089E, 0x3F0A0650, 0x3F0C0146, 0x3F0DF989, 0x3F0FEF1F, 0x3F11E20F, 0x3F13D260]

/-- The table L, nearest to log2(1 + j/128), entries 64 to 79. -/
def tabL4 : List Nat :=
  [0x3F15C01A, 0x3F17AB44, 0x3F1993E3, 0x3F1B7A00, 0x3F1D5DA0, 0x3F1F3ECA, 0x3F211D84, 0x3F22F9D5,
   0x3F24D3C2, 0x3F26AB53, 0x3F28808C, 0x3F2A5374, 0x3F2C2411, 0x3F2DF268, 0x3F2FBE80, 0x3F31885C]

/-- The table L, nearest to log2(1 + j/128), entries 80 to 95. -/
def tabL5 : List Nat :=
  [0x3F335004, 0x3F35157D, 0x3F36D8CB, 0x3F3899F5, 0x3F3A58FF, 0x3F3C15EE, 0x3F3DD0C8, 0x3F3F8991,
   0x3F41404F, 0x3F42F506, 0x3F44A7BA, 0x3F465872, 0x3F480731, 0x3F49B3FB, 0x3F4B5ED7, 0x3F4D07C7]

/-- The table L, nearest to log2(1 + j/128), entries 96 to 111. -/
def tabL6 : List Nat :=
  [0x3F4EAED0, 0x3F5053F7, 0x3F51F740, 0x3F5398AF, 0x3F553848, 0x3F56D60F, 0x3F587209, 0x3F5A0C3A,
   0x3F5BA4A4, 0x3F5D3B4E, 0x3F5ED039, 0x3F60636A, 0x3F61F4E5, 0x3F6384AD, 0x3F6512C7, 0x3F669F35]

/-- The table L, nearest to log2(1 + j/128), entries 112 to 127. -/
def tabL7 : List Nat :=
  [0x3F6829FB, 0x3F69B31E, 0x3F6B3A9F, 0x3F6CC083, 0x3F6E44CD, 0x3F6FC781, 0x3F7148A1, 0x3F72C832,
   0x3F744636, 0x3F75C2B0, 0x3F773DA4, 0x3F78B714, 0x3F7A2F04, 0x3F7BA578, 0x3F7D1A71, 0x3F7E8DF2]

/-- The table L, nearest to log2(1 + j/128) (R99). -/
def tabL : List Nat :=
  tabL0 ++ tabL1 ++ tabL2 ++ tabL3 ++ tabL4 ++ tabL5 ++ tabL6 ++ tabL7

/-- The table I, nearest to 128 / (128 + j) (R99). -/
def tabI (j : Nat) : W32 := round32 .rn (Num.div (.fin false 128 0) (.fin false (128 + j) 0))

/-- An entry of the table T. -/
def entryT (j : Nat) : W32 := BitVec.ofNat 32 (tabT.getD j 0)

/-- An entry of the table L. -/
def entryL (j : Nat) : W32 := BitVec.ofNat 32 (tabL.getD j 0)

/-- The polynomial of FEXP2 (R100). -/
def exp2Poly (f : W32) : W32 :=
  let q := fma32 .rn 0x3D635847#32 f 0x3E75FDF0#32
  mul32 .rn (fma32 .rn q f 0x3F317218#32) f

/-- FEXP2 (R100). -/
def fexp2 (x : W32) : W32 :=
  if isNan32 x then 0x7FC00000#32
  else if cmpKey 0x43000000#32 ≤ cmpKey x then 0x7F800000#32
  else if cmpKey x ≤ cmpKey 0xC3200000#32 then 0#32
  else
    let n := (Num.scale 7 (num32 x)).toInt .rn (-(2 ^ 31)) (2 ^ 31)
    let j := n % 128
    let k := (n - j) / 128
    let f := round32 .rn ((num32 x).add .rn (Num.scale (-7) (Num.ofInt (-n))))
    let t := entryT j.toNat
    round32 .rn (Num.scale k (num32 (fma32 .rn t (exp2Poly f) t)))

/-- The polynomial of FLOG2 (R101). -/
def log2Poly (t : W32) : W32 :=
  let q := fma32 .rn 0x3EF6384F#32 t 0xBF38AA3B#32
  mul32 .rn (fma32 .rn q t 0x3FB8AA3B#32) t

/-- FLOG2 (R101). -/
def flog2 (x : W32) : W32 :=
  match num32 x with
  | .nan => 0x7FC00000#32
  | .inf neg => if neg then 0x7FC00000#32 else 0x7F800000#32
  | .fin neg m e =>
    if m == 0 then 0xFF800000#32
    else if neg then 0x7FC00000#32
    else
      let top := Nat.log2 m
      let frac := m * 2 ^ (23 - top) % 2 ^ 23
      let j := frac / 2 ^ 16
      let d := round32 .rn (.fin false (frac % 2 ^ 16) (-23))
      let s := add32 .rn (entryL j) (log2Poly (mul32 .rn d (tabI j)))
      add32 .rn s (round32 .rn (Num.ofInt (e + top)))

end Sys2Proof.Machine
end

