-- ==== Sys2Proof/Machine/Tile.lean ====
section
/-! DEFINITION. Clearing-table entries and tile headers: names and aliases (R258, R284), the layout of a header and of a
payload (R260 to R263), the checks of R264, and the writing of a tile. -/

namespace Sys2Proof.Machine

/-! ### Entries -/

/-- `%tinfo` of TILE_STATE (R225). -/
def tileInfo (why t : Nat) : W64 := BitVec.ofNat 64 (256 * why + t)

/-- The entry that a tile name refers to, by its own number; none where the task did not declare the name (R73, R258). -/
def Task.tileKey (t : Task) (n : Nat) : Option Nat := (t.tiles.get n).map TileEnt.aliasOf

/-- An entry as no task has used it (R258). -/
def TileEnt.blank (n : Nat) : TileEnt :=
  { base := 0#20, cap := 0, ring := none, phase := false, st := .empty, aliasOf := n, fault := none }

/-- An entry by its own number. -/
def Task.tileEnt (t : Task) (k : Nat) : TileEnt := (t.tiles.get k).getD (.blank k)

/-- An entry of a task changed. -/
def State.modTile (s : State) (t k : Nat) (f : TileEnt → TileEnt) : State :=
  s.modTask t fun x => { x with tiles := x.tiles.set k (f (x.tileEnt k)) }

/-- The number of a tile state (R258). -/
def TileState.code : TileState → Nat
  | .empty => 0
  | .filling => 1
  | .ready => 2
  | .draining => 3

/-- The state word of TSTA selector 0 for a name (R258). -/
def TileEnt.word (e : TileEnt) (aliasOf : Nat) : W64 :=
  BitVec.ofNat 64 (2 ^ 24 * e.base.toNat + 2 ^ 16 * e.cap + (match e.ring with
    | some r => 2 ^ 12 * r.toNat + 2 ^ 11
    | none => 0) + (if e.phase then 2 ^ 10 else 0) + 2 ^ 8 * e.st.code + aliasOf)

/-! ### Kinds and headers -/

/-- Bits of an element of a KIND; a KIND outside R261 has none. -/
def kindBits (kind : Nat) : Nat :=
  match kind with
  | 1 => 16
  | 2 => 16
  | 3 => 32
  | 4 => 8
  | 5 => 8
  | 6 => 4
  | 7 => 32
  | _ => 0

/-- The most columns of a tile of a KIND (R264). -/
def kindCols (kind : Nat) : Nat := if kind == 4 || kind == 5 then 128 else 64

/-- The fields of a tile header (R260). -/
structure TileHdr where
  kindw : Nat
  rows : Nat
  cols : Nat
  erows : Nat
  ecols : Nat
  version : Nat
  count : Nat
  idxofs : Nat
  status : Nat
  zero : Nat
  codebook : List Byte
  scales : List Byte
  deriving DecidableEq, Repr

/-- A header read from its bytes (R260). -/
def hdrOf (bs : List Byte) : TileHdr :=
  { kindw := field bs 0x00 4, rows := field bs 0x04 2, cols := field bs 0x06 2, erows := field bs 0x08 2,
    ecols := field bs 0x0A 2, version := field bs 0x0C 4, count := field bs 0x10 4, idxofs := field bs 0x14 4,
    status := field bs 0x18 4, zero := field bs 0x1C 4, codebook := (bs.drop 0x20).take 32,
    scales := (bs.drop 0x40).take 128 }

/-- The header in a task's scratchpad at a base. -/
def Task.hdrAt (t : Task) (base : Nat) : TileHdr := hdrOf (t.spad.readN base 0xC0)

/-- KIND (R261). -/
def TileHdr.kind (h : TileHdr) : Nat := h.kindw % 256
/-- SPARSE (R261). -/
def TileHdr.sparse (h : TileHdr) : Nat := nbits h.kindw 8 4
/-- N (R261). -/
def TileHdr.n (h : TileHdr) : Nat := nbits h.kindw 12 4
/-- The M field (R261). -/
def TileHdr.mfield (h : TileHdr) : Nat := nbits h.kindw 16 4
/-- The group size that the M field encodes (R264). -/
def TileHdr.m (h : TileHdr) : Nat := if h.mfield == 0 then 16 else h.mfield

/-- Bits of a position within a group: log2 of 4, 8 or 16. -/
def posBits (m : Nat) : Nat := if m ≤ 4 then 2 else if m ≤ 8 then 3 else 4

/-- a / b rounded up. -/
def ceilDiv (a b : Nat) : Nat := (a + b - 1) / b

/-- Bytes of n elements of a width in bits. -/
def elemBytes (bits n : Nat) : Nat := ceilDiv (n * bits) 8

/-- IDXOFS and COUNT of a payload (R263); `pop` is the population count of a bitmap. -/
def payloadSize (kind sparse rows cols n m pop : Nat) : Nat × Nat :=
  let b := kindBits kind
  match sparse with
  | 1 =>
    let kept := cols * (rows / m) * n
    let v := roundUp (elemBytes b kept) 4
    (v, v + roundUp (ceilDiv (kept * posBits m) 8) 4)
  | 2 =>
    let v := 8 * ceilDiv (rows * cols) 64
    (v, v + roundUp (elemBytes b pop) 4)
  | _ => (0, elemBytes b (rows * cols))

/-! ### Payloads -/

/-- n elements of whole bytes. -/
def chunkElems (size : Nat) : Nat → List Byte → List Nat
  | 0, _ => []
  | n + 1, bs => field bs 0 size :: chunkElems size n (bs.drop size)

/-- The elements packed in bytes, `bits` wide each: low nibble first for four bits (R90, R263). -/
def unpackElems (bits n : Nat) (bs : List Byte) : List Nat :=
  if bits == 4 then
    ((bs.take ((n + 1) / 2)).flatMap (fun (b : Byte) => [b.toNat % 16, b.toNat / 16]) ++ List.replicate n 0).take n
  else chunkElems (bits / 8) n bs

/-- Nibbles packed into bytes, the first in the low half. -/
def packNibbles : List Nat → List Byte
  | [] => []
  | [a] => [BitVec.ofNat 8 (a % 16)]
  | a :: b :: rest => BitVec.ofNat 8 (a % 16 + 16 * (b % 16)) :: packNibbles rest

/-- Elements packed into bytes (R90, R263). -/
def packElems (bits : Nat) (vs : List Nat) : List Byte :=
  if bits == 4 then packNibbles vs else vs.flatMap fun v => valBytes (bits / 8) v

/-- The present elements of a tile, keyed by row-major index; an absent element has no entry (R105). -/
abbrev Elems := SMap Nat

/-- The bitmap of a payload as a number (R263). -/
def bitmapOf (h : TileHdr) (payload : List Byte) : Nat := bytesVal (payload.take (8 * ceilDiv (h.rows * h.cols) 64))

/-- The positions of an N:M payload, in payload order (R263). -/
def positionsOf (h : TileHdr) (payload : List Byte) : List Nat :=
  let kept := h.cols * (h.rows / h.m) * h.n
  let lg := posBits h.m
  let bits := bytesVal (payload.drop h.idxofs)
  (List.range kept).map fun j => bits / 2 ^ (lg * j) % 2 ^ lg

/-- The row-major index of kept value j of an N:M payload at a position within its group (R263). -/
def keptIndex (h : TileHdr) (j pos : Nat) : Nat :=
  let perCol := h.rows / h.m * h.n
  let c := j / perCol
  let g := j % perCol / h.n
  (g * h.m + pos) * h.cols + c

/-- The elements of a payload (R263). -/
def elemsOf (h : TileHdr) (payload : List Byte) : Elems :=
  let b := kindBits h.kind
  match h.sparse with
  | 1 =>
    let ps := positionsOf h payload
    let vs := unpackElems b ps.length payload
    ((List.range ps.length).zip (ps.zip vs)).foldl (fun m x => SMap.set m (keptIndex h x.1 x.2.1) x.2.2) []
  | 2 =>
    let bm := bitmapOf h payload
    let is := (List.range (h.rows * h.cols)).filter fun i => bm.testBit i
    is.zip (unpackElems b is.length (payload.drop h.idxofs))
  | _ => (List.range (h.rows * h.cols)).zip (unpackElems b (h.rows * h.cols) payload)

/-- The payload of an entry's slot, as long as its header counts. -/
def Task.payload (t : Task) (base count : Nat) : List Byte := t.spad.readN (base + 256) count

/-- The elements of the tile in a slot. -/
def Task.elems (t : Task) (base : Nat) (h : TileHdr) : Elems := elemsOf h (t.payload base h.count)

/-! ### Checks -/

/-- A check of a header: a reason with the offset of its byte. -/
abbrev HdrBad := Option (Nat × Nat)

/-- The first bad outcome. -/
def firstBad : List HdrBad → HdrBad
  | [] => none
  | some x :: _ => some x
  | none :: xs => firstBad xs

/-- A reason with its offset where a condition holds. -/
def badIf (c : Bool) (reason off : Nat) : HdrBad := if c then some (reason, off) else none

/-- The index of the first position that is out of range, or repeated within its group (R264). -/
def badPosition (n m : Nat) (ps : List Nat) : Option Nat :=
  (List.range ps.length).find? fun j =>
    let p := ps.getD j 0
    let start := j / n * n
    decide (m ≤ p) || ((ps.drop start).take (j - start)).contains p

/-- The breach of a header, the first in the order of R264 at its lowest byte: reason and offset
(DEDUCED, assumption log 29). -/
def malformed (h : TileHdr) (cap : Nat) (payload : List Byte) : HdrBad :=
  let nm := h.sparse == 1
  let pop := if h.sparse == 2 then
    ((List.range (h.rows * h.cols)).filter fun i => (bitmapOf h payload).testBit i).length else 0
  let sz := payloadSize h.kind h.sparse h.rows h.cols h.n h.m pop
  let early := firstBad
    [badIf (nbits h.kindw 21 3 != 0) 0x08 0x02, badIf (h.kindw / 2 ^ 24 != 1) 0x08 0x03, badIf (h.zero != 0) 0x08 0x1C,
     badIf (kindBits h.kind == 0) 0x01 0x00, badIf (3 ≤ h.sparse) 0x02 0x01,
     badIf (nm && (h.n == 0 || h.m ≤ h.n)) 0x03 0x01,
     badIf (nm && h.mfield != 0 && h.mfield != 4 && h.mfield != 8) 0x03 0x02,
     badIf (!nm && h.n != 0) 0x03 0x01, badIf (!nm && (h.mfield != 0 || nbits h.kindw 20 1 != 0)) 0x03 0x02,
     badIf (64 < h.rows || (nm && h.rows % h.m != 0)) 0x07 0x04, badIf (kindCols h.kind < h.cols) 0x07 0x06,
     badIf (256 * cap < h.count) 0x07 0x10, badIf (h.rows < h.erows) 0x04 0x08, badIf (h.cols < h.ecols) 0x04 0x0A,
     badIf (h.count != sz.2) 0x05 0x10, badIf (h.idxofs != sz.1) 0x05 0x14]
  match early with
  | some x => some x
  | none =>
    if nm then
      match badPosition h.n h.m (positionsOf h payload) with
      | some j => some (0x06, 0x100 + h.idxofs + j * posBits h.m / 8)
      | none => none
    else if h.sparse == 2 then
      let above := bitmapOf h payload / 2 ^ (h.rows * h.cols)
      match (List.range 64).find? fun i => above.testBit i with
      | some i => some (0x0E, 0x100 + (h.rows * h.cols + i) / 8)
      | none => none
    else none

/-- `%tinfo` of META_MALFORMED (R264). -/
def metaInfo (reason off tile : Nat) : W64 := BitVec.ofNat 64 (2 ^ 16 * off + 2 ^ 8 * reason + tile % 256)

/-- A source tile checked: the fault of a slot that ended on a data fault (R277), then the breach of its header (R264). -/
def Task.tileFault (t : Task) (e : TileEnt) (tile : Nat) : Option (Cause × W64) :=
  match e.fault with
  | some f => some f
  | none =>
    let h := t.hdrAt e.base.toNat
    match malformed h e.cap (t.payload e.base.toNat (Nat.min h.count (256 * e.cap))) with
    | some (reason, off) => some (cMeta, metaInfo reason off tile)
    | none => none

/-! ### Writing a tile -/

/-- The bytes 0x00 to 0xBF of a header (R260). -/
def hdrBytes (h : TileHdr) : List Byte :=
  valBytes 4 h.kindw ++ valBytes 2 h.rows ++ valBytes 2 h.cols ++ valBytes 2 h.erows ++ valBytes 2 h.ecols
    ++ valBytes 4 h.version ++ valBytes 4 h.count ++ valBytes 4 h.idxofs ++ valBytes 4 h.status ++ valBytes 4 0
    ++ (h.codebook ++ List.replicate 32 0#8).take 32 ++ (h.scales ++ List.replicate 128 0#8).take 128

/-- The order of the kept values of an N:M tile: by column, then by row (R263). -/
def keptKeys (h : TileHdr) (es : Elems) : List Nat :=
  (List.range h.cols).flatMap fun c =>
    ((List.range h.rows).map fun r => r * h.cols + c).filter fun i => (SMap.get es i).isSome

/-- The payload of dense or N:M elements; an absent element of a dense tile is all-zero bits (R263). -/
def payloadBytes (h : TileHdr) (es : Elems) : List Byte :=
  let b := kindBits h.kind
  if h.sparse == 1 then
    let ks := keptKeys h es
    let vals := packElems b (ks.map fun i => (SMap.get es i).getD 0)
    let lg := posBits h.m
    let pos := (List.range ks.length).zip (ks.map fun i => i / h.cols % h.m)
    let bits := pos.foldl (fun a x => a + x.2 * 2 ^ (lg * x.1)) 0
    (vals ++ List.replicate h.idxofs 0#8).take h.idxofs ++ valBytes (h.count - h.idxofs) bits
  else packElems b ((List.range (h.rows * h.cols)).map fun i => (SMap.get es i).getD 0)

/-- A header with the COUNT and IDXOFS of R263 for its shape, dense or N:M. -/
def TileHdr.sized (h : TileHdr) : TileHdr :=
  let sz := payloadSize h.kind h.sparse h.rows h.cols h.n h.m 0
  { h with idxofs := sz.1, count := sz.2 }

/-- A tile written into a scratchpad: payload, then header; bytes 0xC0 to 0xFF of the slot stay (R259, R260). -/
def writeTile (spad : Memory) (base : Nat) (h : TileHdr) (es : Elems) : Memory :=
  (spad.writeN (base + 256) (payloadBytes h es)).writeN base (hdrBytes h)

/-- A header of a kind word and a shape with nothing else in it. -/
def TileHdr.plain (kindw rows cols : Nat) : TileHdr :=
  { kindw := kindw, rows := rows, cols := cols, erows := 0, ecols := 0, version := 0, count := 0, idxofs := 0, status := 0,
    zero := 0, codebook := [], scales := [] }

end Sys2Proof.Machine
end

