-- ==== Sys2Proof/Machine/LaneMem.lean ====
section
/-! DEFINITION. Lane access to memory: the coalescer's translation of an instruction (R54, R220, R247, R409), requests to this
package and to others (R46, R403, R412), sampling (R395, R396), and LD, ST, LDS, STS, LDT, STT and PREF (R214 to R226). -/

namespace Sys2Proof.Machine

/-! ### Sizes and data registers (R216) -/

/-- Bytes of an access. -/
def sizeBytes : Size → Nat
  | .b32 => 4
  | .s8 => 1
  | .z8 => 1
  | .s16 => 2
  | .z16 => 2
  | .b64 => 8
  | .b128 => 16

/-- What a load writes for a value of its size, in the low register: sign- or zero-extended. -/
def extendTo (size : Size) (w v : Nat) : Nat :=
  match size with
  | .s8 => wrapNat w (sgnOf 8 v)
  | .s16 => wrapNat w (sgnOf 16 v)
  | _ => v

/-- The registers that a load writes, with each lane's value (R216). -/
def loadWrites (d : Reg) (size : Size) (vals : List (Nat × Nat)) : List (Dst × List (Nat × W64)) :=
  let part (k w : Nat) : Dst × List (Nat × W64) :=
    (.r (Reg.ofCode (d.code + BitVec.ofNat 8 k)), vals.map fun x => (x.1, BitVec.ofNat 64 (x.2 / 2 ^ (w * k) % 2 ^ w)))
  match size with
  | .b64 => if isVec d then [part 0 32, part 1 32] else [part 0 64]
  | .b128 => if isVec d then [part 0 32, part 1 32, part 2 32, part 3 32] else [part 0 64, part 1 64]
  | _ => [(.r d, vals.map fun x => (x.1, BitVec.ofNat 64 (extendTo size (if isVec d then 32 else 64) x.2)))]

/-- The data that a store takes from its data register (R216). -/
def Unit.storeVal (u : Unit) (d : Reg) (size : Size) (l : Nat) : Nat :=
  let reg (k : Nat) : Nat := (u.src64 (Reg.ofCode (d.code + BitVec.ofNat 8 k)) l).toNat
  match size with
  | .b64 => if isVec d then reg 0 + 2 ^ 32 * reg 1 else reg 0
  | .b128 => if isVec d then reg 0 + 2 ^ 32 * reg 1 + 2 ^ 64 * reg 2 + 2 ^ 96 * reg 3 else reg 0 + 2 ^ 64 * reg 1
  | _ => reg 0

/-- Whether an optional register is a vector register. -/
def optVec : Option Reg → Bool
  | some r => isVec r
  | none => false

/-- The lanes that perform an access: every lane of Active where an operand is a vector register, else the lowest (R178,
R217). -/
def memLanes (act : LMask) (vec : Bool) : List Nat := if vec then lanesOf act else (lanesOf act).take 1

/-- The effective address of a global access (R218). -/
def Unit.ea (u : Unit) (a : Reg) (off : Option Reg) (disp : Disp) (l : Nat) : W64 :=
  u.src64 a l + (match off with
    | some b => zx (u.src32 b l)
    | none => 0#64) + BitVec.ofInt 64 (dispInt disp)

/-! ### Translation of an instruction -/

/-- What the coalescer finds for one lane: the physical address of each byte, a fault, or pages that are not mapped. -/
inductive LaneX where
  | ok (pas : List Nat)
  | fault (cause : Cause) (info : W64)
  | miss (pages : List Nat)
  deriving DecidableEq, Repr

/-- The access of one lane translated. An aligned access lies in one page; a misaligned one is emulated byte by byte (R54).
A page that is not mapped faults the lane where the kernel cannot deliver it (R250) (DEDUCED, assumption log 47). -/
def State.laneXlat (s : State) (uid : Nat) (va : W64) (n : Nat) (p : Perm) : LaneX :=
  let u := s.unit uid
  let t := s.task u.task
  let starts : List Nat := if va.toNat % n == 0 then [va.toNat] else (List.range n).map fun k => (va + BitVec.ofNat 64 k).toNat
  let rs : List (Nat × Xl) := starts.map fun a => (a, s.translate u.core t.part t.asn a p)
  let missing : List Nat := (rs.filter fun r => r.2 == .pageFault).map fun r => r.1 / 2 ^ 16
  if missing.any fun g => s.undeliv t.asn g then .fault cPage va
  else if !missing.isEmpty then .miss (sortN missing)
  else if rs.any fun r => r.2 == .prot then .fault cProt va
  else if rs.any fun r => r.2 == .linkDown then .fault cLink va
  else
    .ok (rs.flatMap fun (r : Nat × Xl) =>
      match r.2 with
      | .ok pa => if starts.length == 1 then (List.range n).map fun k => pa + k else [pa]
      | _ => [])

/-- The lanes that a translation leaves with an access to perform. -/
def okLanes (xs : List (Nat × LaneX)) : List (Nat × List Nat) :=
  xs.filterMap fun x => match x.2 with
    | .ok pas => some (x.1, pas)
    | _ => none

/-- The traps of the lanes that a translation faults. -/
def faultLanes (xs : List (Nat × LaneX)) : List (Nat × LaneOut) :=
  xs.filterMap fun x => match x.2 with
    | .fault c i => some (x.1, .trap c i)
    | _ => none

/-- The pages that a translation finds not mapped, in increasing order (R409). -/
def missPages (xs : List (Nat × LaneX)) : List Nat :=
  sortN (xs.flatMap fun (x : Nat × LaneX) => match x.2 with
    | .miss ps => ps
    | _ => [])

/-- The lanes whose access meets a page that is not mapped. -/
def missLanes (xs : List (Nat × LaneX)) : LMask :=
  maskOf (xs.filterMap fun x => match x.2 with
    | .miss _ => some x.1
    | _ => none)

/-- A global access: every lane is translated before any is performed (R247). A page that is not mapped leaves the whole
instruction without effect; in run-ahead it joins the batch, and the other lanes are performed (R248). -/
def globalAccess (i : Instr) (x : Issue) (xs : List (Nat × LaneX)) (vas : Nat → W64)
    (perform : List (Nat × List Nat) → State → Res) (s : State) : Res :=
  let u := s.unit x.uid
  let pages := missPages xs
  if !pages.isEmpty && u.runAhead.isNone then .wait (s.pageFault x i pages)
  else
    let s1 := if pages.isEmpty then s else s.aheadMiss x.uid (missLanes xs) pages
    let oks := okLanes xs
    let s2 := oks.foldl (fun t p => t.fillTlb u.core (t.task u.task).asn (vas p.1).toNat) s1
    match perform oks s2 with
    | .wait t => .wait t
    | .done t outs => .done t (outs ++ faultLanes xs)

/-! ### Reads through the L1 and from other packages -/

/-- What stands between a lane and a byte of another package that its L1 lacks. -/
inductive FarSt where
  | absent
  | pending
  | lost
  | have (b : Byte)
  deriving DecidableEq, Repr

/-- The request of a lane that covers an address. -/
def Core.farOf (c : Core) (uid l pa : Nat) (atomic : Bool) : Option Far :=
  c.far.vals.find? fun f =>
    f.unit == uid && f.lane == l && f.atomic == atomic && f.line == lineOf pa && f.mask.getLsbD (pa % 128)

/-- What a lane's request has brought of an address (R411). -/
def Core.farByte (c : Core) (uid l pa : Nat) : FarSt :=
  match c.farOf uid l pa false with
  | none => .absent
  | some f =>
    match f.data with
    | some bs => .have (bs.getD (pa % 128) 0#8)
    | none => if f.lost then .lost else .pending

/-- A message to another package with its last flit only (R417). -/
def farFlit (pkg dst tag line : Nat) (mask : BitVec 128) (payload : List Byte) : Flit :=
  { src := pkg, dst := dst, tag := tag % 2 ^ 16, addr := 128 * line, mask := mask, payload := payload, last := true,
    err := false }

/-- A request of a lane sent to another package: a message of a TYPE, kept until it is answered or its target is lost
(R403, R411, R417). A target with no route that is up is lost. -/
def State.sendFar (s : State) (core uid l pkg line : Nat) (mask : BitVec 128) (atomic : Bool) (ty : Nat)
    (payload : List Byte) : State :=
  let (id, t) := s.fresh
  let f : Far :=
    { unit := uid, lane := l, pkg := pkg, line := line, mask := mask, atomic := atomic,
      stamp := (t.core core).fillCtr.toNat, data := none, lost := (t.routePort pkg).isNone }
  let t1 := t.modCore core fun c =>
    { c with far := c.far.set id f, fillCtr := if atomic then c.fillCtr else c.fillCtr + 1#64 }
  match t.routePort pkg with
  | some port => t1.sendFlit port ty (farFlit t1.pkg pkg id line mask payload)
  | none => t1

/-- The mask of the sectors of a line that hold some addresses of a list. -/
def sectorMask (pas : List Nat) : BitVec 128 :=
  pas.foldl (fun m pa => m ||| BitVec.ofNat 128 ((2 ^ 32 - 1) * 2 ^ (pa % 128 / 32 * 32))) 0#128

/-- The lines of a list of addresses, each once. -/
def linesIn (pas : List Nat) : List Nat := dedupN (pas.map lineOf)

/-- Reads sent for the bytes of a lane that other packages hold and that no request covers (R403). -/
def State.sendReads (s : State) (core uid l : Nat) (pas : List Nat) : State :=
  (linesIn pas).foldl (fun t line =>
    match remotePkg t (128 * line) with
    | some k => t.sendFar core uid l k line (sectorMask (pas.filter fun a => lineOf a == line)) false 1 (List.replicate 128 0#8)
    | none => t) s

/-- The requests of a unit's lanes forgotten, once the instruction is done; a prefetch, numbered from 64, goes on. -/
def State.clearFar (s : State) (core uid : Nat) : State :=
  s.modCore core fun c => { c with far := c.far.keep fun _ f => f.unit != uid || decide (64 ≤ f.lane) }

/-- The bytes of a lane's access that lie in other packages and that its core's L1 lacks. -/
def State.farPas (s : State) (core : Nat) (pas : List Nat) : List Nat :=
  pas.filter fun a => ((s.core core).l1.get a).isNone && (remotePkg s a).isSome

/-- One byte as a load of a lane returns it: the L1, then the lane's request to another package, then home (R41, R47). -/
def State.laneByte (s : State) (core uid l pa : Nat) : Byte :=
  match (s.core core).l1.get pa with
  | some b => b.val
  | none =>
    match (s.core core).farByte uid l pa with
    | .have b => b
    | _ => s.homeByte pa

/-- Whether a byte that an L1 lacks waits for an engine that owns its line (R50) (DESIGN CHOICE, assumption log 58). -/
def State.byteWaits (s : State) (core pa : Nat) : Bool := ((s.core core).l1.get pa).isNone && s.owned pa

/-- The reads of several lanes: they wait, or each lane has its bytes or its target is lost. -/
inductive Reads where
  | wait (s : State)
  | done (s : State) (vals : List (Nat × List Byte)) (lost : List Nat) (fill : List FillByte)

/-- The reads of the lanes of an instruction (R41, R46, R50, R403). Bytes of other packages are asked for once and waited for
in place; bytes of this package and of the host come from the L1 or from home, with a fill for each sector that is not
whole. -/
def State.readLanes (s : State) (core uid : Nat) (ls : List (Nat × List Nat)) : Reads :=
  let c := s.core core
  let need : List (Nat × List Nat) := ls.map fun p =>
    (p.1, (s.farPas core p.2).filter fun a => c.farByte uid p.1 a == .absent)
  if need.any fun p => !p.2.isEmpty then
    if (s.unit uid).runAhead.isSome then .wait s
    else .wait (need.foldl (fun t p => t.sendReads core uid p.1 p.2) s)
  else if ls.any fun p => (s.farPas core p.2).any fun a => c.farByte uid p.1 a == .pending then .wait s
  else if ls.any fun p => p.2.any fun a => s.byteWaits core a then .wait s
  else
    let lost := (ls.filter fun p => (s.farPas core p.2).any fun a => c.farByte uid p.1 a == .lost).map Prod.fst
    let good := ls.filter fun p => !lost.contains p.1
    let vals : List (Nat × List Byte) := good.map fun p => (p.1, p.2.map fun a => s.laneByte core uid p.1 a)
    let secs := sortN (((good.flatMap Prod.snd).filter fun a => (remotePkg s a).isNone).map fun a => a / 32)
    let r := s.requestSectors core secs
    .done (r.2.clearFar core uid) vals lost r.1

/-- Registers that a request will write, outstanding until it returns (R76). -/
def Unit.pendReq (u : Unit) (id : Nat) (ws : List (Dst × List (Nat × W64))) : Unit :=
  ws.foldl (fun v w =>
    { v with
      late := dropLate v.late w.1 (w.2.map Prod.fst),
      vpend := v.vpend ++ [{ dst := w.1, mask := maskOf (w.2.map Prod.fst), req := id }] }) u

/-- A request left outstanding with what it writes and brings; in run-ahead the registers are written at once (R56, R248). A
request that writes and brings nothing is not made. -/
def State.request (s : State) (core uid : Nat) (ws : List (Dst × List (Nat × W64))) (fill : List FillByte) : Option Nat × State :=
  let ws := ws.filter fun w => !w.2.isEmpty
  let ahead := (s.unit uid).runAhead.isSome
  let s0 := if ahead then s.modUnit uid fun u => ws.foldl (fun v w => v.writeVar w.1 w.2) u else s
  let ws := if ahead then [] else ws
  if ws.isEmpty && fill.isEmpty then (none, s0)
  else
    let (id, t) := s0.fresh
    let t1 := t.modCore core fun c => { c with reqs := c.reqs.set id { unit := uid, writes := ws, fill := fill } }
    (some id, t1.modUnit uid fun u => u.pendReq id ws)

/-! ### Sampling (R395, R396) -/

/-- The body of a sample (R396): MASK, the queue times, which the spec gives no rate for, the replays, and QDR. -/
def sampleBody (mask : LMask) (ql2 ql1 rpl qdr : Nat) : List Byte :=
  let w (v : Nat) : List Byte := valBytes 2 (Nat.min v 0xFFFF)
  valBytes 8 mask.toNat ++ [0#8, 0#8] ++ w rpl ++ w ql1 ++ w ql2 ++ w qdr ++ [0#8, 0#8]

/-- The head and the body of a sample written (R396). -/
def State.writeSample (s : State) (core : Nat) (m : Sample) : State :=
  let c := s.core core
  if !(c.traceEn && c.traceSmp) then s
  else
    let u := s.unit m.unit
    let s1 := s.traceLane m.unit m.lane 0x05 m.opc.toNat m.pc (BitVec.ofNat 32 m.sectors)
    let (a, s2) := s1.draw
    let (b, s3) := s2.draw
    let (q, s4) := s3.draw
    let d := s4.die (dieOf core)
    let r : TraceRec :=
      { seq := d.seq, aux := m.opc.toNat, ty := 0x06, cyc := c.cyc, pc := m.pc, data := 0#32, core := core,
        part := s4.corePart core, unit := u.kind.code, lane := u.laneSlot m.lane,
        body := some (sampleBody m.mask (Config.queueCycles a) (Config.queueCycles b) m.replays (Config.queueCycles q)) }
    s4.setDie (dieOf core) (({ d with seq := d.seq + 1 } : Die).addRecord r)

/-- An issue of a memory instruction counted, and its sample kept where it is the one in 2^PERIOD (R395). A sample whose data
is outstanding waits for its request. -/
def State.countSample (s : State) (core : Nat) (x : Issue) (done : List (Nat × List Nat)) (req : Option Nat) : State :=
  let c := s.core core
  if !(c.traceEn && c.traceSmp) || x.act == 0#64 || (s.unit x.uid).runAhead.isSome then s
  else
    let n := c.sampleCtr + 1
    let s1 := s.setCore core { c with sampleCtr := n }
    match done.getLast? with
    | none => s1
    | some p =>
      if n % 2 ^ nbits c.traceCtl.toNat 16 4 != 0 then s1
      else
        let m : Sample :=
          { unit := x.uid, lane := p.1, pc := x.pc, opc := BitVec.ofNat 8 x.opc, mask := x.act,
            sectors := (dedupN ((done.flatMap Prod.snd).map fun a => a / 32)).length, replays := (s.unit x.uid).replays,
            req := req }
        s1.modCore core fun k => { k with samples := k.samples ++ [m] }

/-! ### LD, ST, PREF -/

/-- LD performed for the lanes that translate (R218). -/
def ldPerform (size : Size) (d : Reg) (x : Issue) (ls : List (Nat × List Nat)) (ea : Nat → W64) (s : State) : Res :=
  let core := (s.unit x.uid).core
  match s.readLanes core x.uid ls with
  | .wait t => .wait t
  | .done t vals lost fill =>
    let (id, t1) := t.request core x.uid (loadWrites d size (vals.map fun p => (p.1, bytesVal p.2))) fill
    .done (t1.countSample core x (ls.filter fun p => !lost.contains p.1) id) (lost.map fun l => (l, .trap cLink (ea l)))

/-- LD (R214 to R220). -/
def ldBody (i : Instr) (size : Size) (d a : Reg) (off : Option Reg) (disp : Disp) (x : Issue) (s : State) : Res :=
  let u := s.unit x.uid
  let ea := u.ea a off disp
  let xs := (memLanes x.act (isVec d || optVec off)).map fun l => (l, s.laneXlat x.uid (ea l) (sizeBytes size) .r)
  globalAccess i x xs ea (fun ls t => ldPerform size d x ls ea t) s

/-- LD (R218). -/
def execLd (h : Hdr) (size : Size) (d a : Reg) (off : Option Reg) (disp : Disp) (s : State) :
    Host.Outcome State Fault Refusal :=
  runIssue h (.ld h size d a off disp) (ldBody (.ld h size d a off disp) size d a off disp) s

/-- Bytes stored by a lane at the addresses of a list, into the core's L1 (R218); a store to another package sets the
strand's remote-dirty bit (R412). -/
def State.storeBytes (s : State) (core uid l : Nat) (pas : List Nat) (bs : List Byte) : State :=
  let t := (pas.zip bs).foldl (fun t p => t.l1Store core p.1 p.2) s
  if (pas.any fun a => (remotePkg s a).isSome) && !((s.unit uid).lane l).remoteDirty then
    t.modUnit uid fun u => u.modLane l fun y => { y with remoteDirty := true, lossSeen := s.losses }
  else t

/-- ST performed for the lanes that translate, in increasing lane order (R218, R219). -/
def stPerform (size : Size) (d : Reg) (x : Issue) (ls : List (Nat × List Nat)) (s : State) : Res :=
  let u := s.unit x.uid
  let t := ls.foldl (fun t p => t.storeBytes u.core x.uid p.1 p.2 (valBytes (sizeBytes size) (u.storeVal d size p.1))) s
  .done (t.countSample u.core x ls none) []

/-- ST (R214 to R220). -/
def stBody (i : Instr) (size : Size) (d a : Reg) (off : Option Reg) (disp : Disp) (x : Issue) (s : State) : Res :=
  let u := s.unit x.uid
  let ea := u.ea a off disp
  let xs := (memLanes x.act (isVec d || optVec off)).map fun l => (l, s.laneXlat x.uid (ea l) (sizeBytes size) .w)
  globalAccess i x xs ea (fun ls t => stPerform size d x ls t) s

/-- ST (R218). -/
def execSt (h : Hdr) (size : Size) (d a : Reg) (off : Option Reg) (disp : Disp) (s : State) :
    Host.Outcome State Fault Refusal :=
  runIssue h (.st h size d a off disp) (stBody (.st h size d a off disp) size d a off disp) s

/-- One prefetch request: dropped and counted where it would fault, else a fill of the line into the L1, or under `.l2` into
its home slice where that is of the core's own die (R226). -/
def State.prefetch (s : State) (core uid l part asn : Nat) (l2 : Bool) (va : W64) : State :=
  match s.translate core part asn va.toNat .r with
  | .ok pa =>
    let s1 := s.fillTlb core asn va.toNat
    if l2 then (if pa / 2 ^ 39 == 0 && paDie pa == dieOf core then s1.slicePrefetch pa else s1)
    else
      match remotePkg s1 pa with
      | some k =>
        if (s1.unit uid).runAhead.isSome then s1
        else s1.sendFar core uid (64 + l) k (lineOf pa) (BitVec.allOnes 128) false 1 (List.replicate 128 0#8)
      | none =>
        if s1.owned pa then s1
        else
          let r := (s1.slicePrefetch pa).requestSectors core ((List.range 4).map fun k => pa / 128 * 4 + k)
          (r.2.request core uid [] r.1).2
  | _ => s.modCore core fun c => { c with prefDrops := c.prefDrops + 1 }

/-- PREF (R226). -/
def prefBody (l2 : Bool) (a : Reg) (off : Option Reg) (disp : Disp) (x : Issue) (s : State) : Res :=
  let u := s.unit x.uid
  let t := s.task u.task
  .done ((memLanes x.act (optVec off)).foldl
    (fun st l => st.prefetch u.core x.uid l t.part t.asn l2 (u.ea a off disp l)) s) []

/-- PREF (R226). -/
def execPref (h : Hdr) (l2 : Bool) (a : Reg) (off : Option Reg) (disp : Disp) (s : State) :
    Host.Outcome State Fault Refusal :=
  runIssue h (.pref h l2 a off disp) (prefBody l2 a off disp) s

/-! ### Scratchpad -/

/-- The scratchpad offset of a lane, exact (R221). -/
def Unit.spadOff (u : Unit) (a : Reg) (off : Option Reg) (disp : Disp) (l : Nat) : Int :=
  ((u.src32 a l).toNat : Int) + (match off with
    | some b => ((u.src32 b l).toNat : Int)
    | none => 0) + dispInt disp

/-- Whether n bytes at a scratchpad offset lie within the task's scratchpad (R221). -/
def spadIn (size : Nat) (o : Int) (n : Nat) : Bool := decide (0 ≤ o) && decide (o + n ≤ size)

/-- The lanes of a scratchpad access that are within bounds, and the traps of the others (R221). -/
def spadSplit (size n : Nat) (ls : List (Nat × Int)) : List (Nat × Nat) × List (Nat × LaneOut) :=
  ((ls.filter fun p => spadIn size p.2 n).map fun p => (p.1, p.2.toNat),
   (ls.filter fun p => !spadIn size p.2 n).map fun p => (p.1, .trap cSpad (BitVec.ofInt 64 p.2)))

/-- Registers of a load that completes within its issue, at variable latency (R76). -/
def State.writeAll (s : State) (uid : Nat) (ws : List (Dst × List (Nat × W64))) : State :=
  s.modUnit uid fun u => (ws.filter fun w => !w.2.isEmpty).foldl (fun v w => v.writeVar w.1 w.2) u

/-- Bytes written into a task's scratchpad. -/
def State.spadWrite (s : State) (t a : Nat) (bs : List Byte) : State :=
  s.modTask t fun k => { k with spad := k.spad.writeN a bs }

/-- LDS (R221). -/
def ldsBody (size : Size) (d a : Reg) (off : Option Reg) (disp : Disp) (x : Issue) (s : State) : Res :=
  let u := s.unit x.uid
  let t := s.task u.task
  let n := sizeBytes size
  let sp := spadSplit t.spadSize n
    ((memLanes x.act (isVec d || isVec a || optVec off)).map fun l => (l, u.spadOff a off disp l))
  .done (s.writeAll x.uid (loadWrites d size (sp.1.map fun p => (p.1, bytesVal (t.spad.readN p.2 n))))) sp.2

/-- LDS (R221). -/
def execLds (h : Hdr) (size : Size) (d a : Reg) (off : Option Reg) (disp : Disp) (s : State) :
    Host.Outcome State Fault Refusal :=
  runIssue h (.lds h size d a off disp) (ldsBody size d a off disp) s

/-- STS: lanes write in increasing order (R219, R221). -/
def stsBody (size : Size) (d a : Reg) (off : Option Reg) (disp : Disp) (x : Issue) (s : State) : Res :=
  let u := s.unit x.uid
  let n := sizeBytes size
  let sp := spadSplit (s.task u.task).spadSize n
    ((memLanes x.act (isVec d || isVec a || optVec off)).map fun l => (l, u.spadOff a off disp l))
  .done (sp.1.foldl (fun st p => st.spadWrite u.task p.2 (valBytes n (u.storeVal d size p.1))) s) sp.2

/-- STS (R221). -/
def execSts (h : Hdr) (size : Size) (d a : Reg) (off : Option Reg) (disp : Disp) (s : State) :
    Host.Outcome State Fault Refusal :=
  runIssue h (.sts h size d a off disp) (stsBody size d a off disp) s

/-! ### Tiles -/

/-- PayloadCount of a tile in a task (R224). -/
def Task.payloadCount (t : Task) (e : TileEnt) : Nat :=
  Nat.min (t.hdrAt e.base.toNat).count (Nat.min (256 * e.cap) (t.spadSize - e.base.toNat - 256))

/-- What the state of a tile lets LDT or STT do (R224): wait, raise a fault on every lane of Active, or go on. A slot that a
copy's data fault has filled delivers that fault (R277). -/
inductive TileGo where
  | wait
  | fault (cause : Cause) (info : W64)
  | go (e : TileEnt)
  deriving DecidableEq, Repr

/-- The state check of LDT and STT (R224). -/
def Task.tileGo (t : Task) (n : Nat) (load : Bool) : TileGo :=
  match t.tileKey n with
  | none => .fault cTile (tileInfo 0x01 n)
  | some k =>
    let e := t.tileEnt k
    match e.st with
    | .filling => .wait
    | .empty => .fault cTile (tileInfo 0x02 n)
    | .draining => if load then .go e else .wait
    | .ready =>
      match e.fault with
      | some (c, i) => .fault c i
      | none => .go e

/-- LDT and STT past the state check: lanes beyond the payload raise TILE_STATE 0x03, the others are performed in
increasing order (R224). -/
def tileAccess (n : Nat) (load : Bool) (vec : Bool) (bytes : Nat) (off : Nat → Nat) (x : Issue)
    (perform : Nat → List (Nat × Nat) → State → State) (s : State) : Res :=
  let t := s.task (s.unit x.uid).task
  if x.act == 0#64 then .done s []
  else
    match t.tileGo n load with
    | .wait => .wait s
    | .fault c i => .done s (x.trapAll c i)
    | .go e =>
      let ls : List (Nat × Nat) := (memLanes x.act vec).map fun l => (l, off l)
      let pc := t.payloadCount e
      let good := ls.filter fun p => decide (p.2 + bytes ≤ pc)
      let bad := ls.filter fun p => !decide (p.2 + bytes ≤ pc)
      .done (perform (e.base.toNat + 256) good s) (bad.map fun p => (p.1, .trap cTile (tileInfo 0x03 n)))

/-- LDT (R223, R224). -/
def ldtBody (size : Size) (d a : Reg) (tn : Tile) (imm : W32) (x : Issue) (s : State) : Res :=
  let u := s.unit x.uid
  let n := sizeBytes size
  tileAccess tn.toNat true (isVec d || isVec a) n (fun l => (u.src32 a l).toNat + imm.toNat) x
    (fun base ls st => st.writeAll x.uid (loadWrites d size
      (ls.map fun p => (p.1, bytesVal ((st.task u.task).spad.readN (base + p.2) n))))) s

/-- LDT (R224). -/
def execLdt (h : Hdr) (size : Size) (d a : Reg) (t : Tile) (imm : W32) (s : State) : Host.Outcome State Fault Refusal :=
  runIssue h (.ldt h size d a t imm) (ldtBody size d a t imm) s

/-- STT (R223, R224). -/
def sttBody (size : Size) (d a : Reg) (tn : Tile) (imm : W32) (x : Issue) (s : State) : Res :=
  let u := s.unit x.uid
  let n := sizeBytes size
  tileAccess tn.toNat false (isVec d || isVec a) n (fun l => (u.src32 a l).toNat + imm.toNat) x
    (fun base ls st => ls.foldl (fun t p => t.spadWrite u.task (base + p.2) (valBytes n (u.storeVal d size p.1))) st) s

/-- STT (R224). -/
def execStt (h : Hdr) (size : Size) (d a : Reg) (t : Tile) (imm : W32) (s : State) : Host.Outcome State Fault Refusal :=
  runIssue h (.stt h size d a t imm) (sttBody size d a t imm) s

end Sys2Proof.Machine
end

