-- ==== Sys2Proof/Machine/Atomic.lean ====
section
/-! DEFINITION. Atomics: what each writes (R228), the accesses at home of this package and of others (R42, R403), the marks
`.pub` and `.sub` (R43), and ATOM, ATOMF and CAS (R227, R229). -/

namespace Sys2Proof.Machine

/-- An atomic as it stands at the home slice: the opcode, its OP and Z, the width in bytes, the operand, and the compare
value of a CAS. -/
structure AtomCode where
  opc : Nat
  op : Nat
  z : Bool
  n : Nat
  b : Nat
  c : Nat
  deriving DecidableEq, Repr

/-- Number of an ATOM operation (R228). -/
def atomOpNum : AtomOp → Nat
  | .add => 0
  | .min => 1
  | .max => 2
  | .and => 3
  | .or => 4
  | .xor => 5
  | .xchg => 6

/-- Number of an ATOMF operation (R228). -/
def atomFOpNum : AtomFOp → Nat
  | .fadd => 0
  | .fmin => 1
  | .fmax => 2

/-- The value that an ATOM writes over m (R228). -/
def atomInt (op : Nat) (z : Bool) (w m b : Nat) : Nat :=
  match op with
  | 0 => (m + b) % 2 ^ w
  | 1 => if decide (valOf w z b < valOf w z m) then b else m
  | 2 => if decide (valOf w z m < valOf w z b) then b else m
  | 3 => m &&& b
  | 4 => m ||| b
  | 5 => m ^^^ b
  | _ => b

/-- The value that an ATOMF writes over m (R228). -/
def atomFloat (op : Nat) (m b : Nat) : Nat :=
  let x := BitVec.ofNat 32 m
  let y := BitVec.ofNat 32 b
  (match op with
    | 0 => add32 .rn x y
    | 1 => fmin32 x y
    | _ => fmax32 x y).toNat

/-- The value written over m, or none where a CAS fails (R228, R229). -/
def AtomCode.apply (k : AtomCode) (m : Nat) : Option Nat :=
  if k.opc == 0x86 then some (atomInt k.op k.z (8 * k.n) m k.b)
  else if k.opc == 0x87 then some (atomFloat k.op m k.b)
  else if m == k.c then some k.b else none

/-- The payload of an atomic message. The manual gives the message no inner layout: OPC, OP, Z and the width lie in bytes 0
to 3, the operand in bytes 8 to 15 and the compare value in bytes 16 to 23 (DESIGN CHOICE, assumption log 9). -/
def AtomCode.payload (k : AtomCode) : List Byte :=
  [BitVec.ofNat 8 k.opc, BitVec.ofNat 8 k.op, if k.z then 1#8 else 0#8, BitVec.ofNat 8 k.n, 0#8, 0#8, 0#8, 0#8]
    ++ valBytes 8 k.b ++ valBytes 8 k.c ++ List.replicate 104 0#8

/-- An atomic read from the payload of a message. -/
def atomOf (p : List Byte) : AtomCode :=
  { opc := field p 0 1, op := field p 1 1, z := field p 2 1 == 1, n := field p 3 1, b := field p 8 8, c := field p 16 8 }

/-- The strand's engine operations are done and its dirty bytes can be written back (R45). -/
def State.edgeReady (s : State) (uid l : Nat) : Bool := !s.strandBusy uid l && s.wbFree (s.unit uid).core

/-- Whether a strand's next outgoing edge raises LINK_DOWN (R412). -/
def State.edgeLost (s : State) (uid l : Nat) : Bool :=
  let x := (s.unit uid).lane l
  x.remoteDirty && x.lossSeen != s.losses

/-- The outgoing edges of the lanes of a `.pub` atomic, all before any is performed (R43, R45): none where some must wait. -/
def State.pubEdges (s : State) (uid : Nat) (ls : List Nat) : Option State :=
  let core := (s.unit uid).core
  if ls.any fun l => !s.edgeReady uid l then none
  else
    let t := s.wbAll core
    if !t.remoteOps.isEmpty then none
    else
      some (t.modUnit uid fun u => ls.foldl (fun v l =>
        v.modLane l fun y => { y with remoteDirty := false, lossSeen := t.losses }) u)

/-- The atomics of an issue performed at home in increasing lane order, with each lane's old value (R42, R229). Those of
another package have answered before. -/
def State.doAtomics (s : State) (core uid : Nat) (code : Nat → AtomCode) (ls : List (Nat × List Nat)) :
    List (Nat × Nat) × State :=
  ls.foldl (fun acc p =>
    let pa := p.2.headD 0
    let k := code p.1
    match remotePkg acc.2 pa with
    | some _ =>
      let old := match (acc.2.core core).farOf uid p.1 pa true with
        | some f => field (f.data.getD []) 0 k.n
        | none => 0
      (acc.1 ++ [(p.1, old)], acc.2)
    | none =>
      let r := acc.2.atomicN core pa k.n k.apply
      (acc.1 ++ [(p.1, r.1)], r.2)) ([], s)

/-- The request of one lane's atomic sent to another package, after the lane's own dirty bytes (R42, R403). -/
def State.sendAtomic (s : State) (core uid l : Nat) (k : AtomCode) (pa pkg : Nat) : State :=
  (s.flushRange core pa k.n).sendFar core uid l pkg (lineOf pa)
    (BitVec.ofNat 128 ((2 ^ k.n - 1) * 2 ^ (pa % 128))) true 4 k.payload

/-- An atomic instruction performed for the lanes that translate (R229). -/
def atomPerform (pub sub : Bool) (d : Reg) (size : Size) (code : Nat → AtomCode) (addr : Nat → W64) (x : Issue)
    (ls : List (Nat × List Nat)) (s : State) : Res :=
  let core := (s.unit x.uid).core
  let lost := if pub then (ls.filter fun p => s.edgeLost x.uid p.1) else []
  let ls' := ls.filter fun p => !lost.contains p
  let edge := if pub && !ls'.isEmpty then s.pubEdges x.uid (ls'.map Prod.fst) else some s
  match edge with
  | none => .wait (s.wbAll core)
  | some s0 =>
    let far := ls'.filter fun p => (remotePkg s0 (p.2.headD 0)).isSome
    let fresh := far.filter fun p => ((s0.core core).farOf x.uid p.1 (p.2.headD 0) true).isNone
    if !fresh.isEmpty then
      .wait (fresh.foldl (fun t p => t.sendAtomic core x.uid p.1 (code p.1) (p.2.headD 0)
        ((remotePkg t (p.2.headD 0)).getD 0)) s0)
    else
      let st (p : Nat × List Nat) : Option Far := (s0.core core).farOf x.uid p.1 (p.2.headD 0) true
      if far.any fun p => match st p with
        | some f => f.data.isNone && !f.lost
        | none => false then .wait s0
      else if ls'.any fun p => s0.ownedRange (p.2.headD 0) 1 then .wait s0
      else
        let down := far.filter fun p => match st p with
          | some f => f.data.isNone
          | none => true
        let go := ls'.filter fun p => !down.contains p
        let (olds, s1) := s0.doAtomics core x.uid code go
        let (id, s2) := (s1.clearFar core x.uid).request core x.uid (loadWrites d size olds) []
        let s3 := if sub && !go.isEmpty then s2.incomingEdge core else s2
        let s4 := lost.foldl (fun t p => t.modUnit x.uid fun u => u.modLane p.1 fun y =>
          { y with remoteDirty := false, lossSeen := t.losses }) s3
        .done (s4.countSample core x go id)
          (lost.map (fun p => (p.1, LaneOut.trap cLink 0#64)) ++ down.map fun p => (p.1, LaneOut.trap cLink (addr p.1)))

/-- An atomic instruction: misaligned lanes trap (R54), the others are translated and performed (R229). -/
def atomBody (i : Instr) (pub sub : Bool) (d : Reg) (size : Size) (vec : Bool) (addr : Unit → Nat → W64)
    (code : Unit → Nat → AtomCode) (x : Issue) (s : State) : Res :=
  let u := s.unit x.uid
  let n := sizeBytes size
  let xs := (memLanes x.act vec).map fun l =>
    (l, if (addr u l).toNat % n == 0 then s.laneXlat x.uid (addr u l) n .rw else .fault cMisalign (addr u l))
  let go (y : Issue) (t : State) : Res :=
    globalAccess i y xs (addr u) (fun ls t' => atomPerform pub sub d size (code u) (addr u) y ls t') t
  if pub then raiseHeld go x s else go x s

/-- The address of an atomic (R227). -/
def Unit.atomAddr (u : Unit) (a : Reg) (disp : Disp) (l : Nat) : W64 := u.pair64 a l + BitVec.ofInt 64 (dispInt disp)

/-- An operand of an atomic: 64 bits from a pair or a scalar register, or bits [31:0] (R227). -/
def Unit.atomVal (u : Unit) (wide : Bool) (r : Reg) (l : Nat) : Nat :=
  if wide then (u.pair64 r l).toNat else (u.src32 r l).toNat

/-- The size of an atomic. -/
def atomSize (wide : Bool) : Size := if wide then .b64 else .b32

/-- ATOM (R227 to R229). -/
def execAtom (h : Hdr) (op : AtomOp) (z pub sub wide : Bool) (d a b : Reg) (disp : Disp) (s : State) :
    Host.Outcome State Fault Refusal :=
  runIssue h (.atom h op z pub sub wide d a b disp)
    (atomBody (.atom h op z pub sub wide d a b disp) pub sub d (atomSize wide) (isVec d || isVec a || isVec b)
      (fun u l => u.atomAddr a disp l)
      (fun u l =>
        { opc := 0x86, op := atomOpNum op, z := z, n := sizeBytes (atomSize wide), b := u.atomVal wide b l, c := 0 })) s

/-- ATOMF (R227 to R229). -/
def execAtomf (h : Hdr) (op : AtomFOp) (pub sub : Bool) (d a b : Reg) (disp : Disp) (s : State) :
    Host.Outcome State Fault Refusal :=
  runIssue h (.atomf h op pub sub d a b disp)
    (atomBody (.atomf h op pub sub d a b disp) pub sub d .b32 (isVec d || isVec a || isVec b)
      (fun u l => u.atomAddr a disp l)
      (fun u l => { opc := 0x87, op := atomFOpNum op, z := false, n := 4, b := u.atomVal false b l, c := 0 })) s

/-- CAS (R227 to R229). -/
def execCas (h : Hdr) (pub sub wide : Bool) (d a b : Reg) (disp : Disp) (s : State) : Host.Outcome State Fault Refusal :=
  runIssue h (.cas h pub sub wide d a b disp)
    (atomBody (.cas h pub sub wide d a b disp) pub sub d (atomSize wide) (isVec d || isVec a || isVec b)
      (fun u l => u.atomAddr a disp l)
      (fun u l =>
        { opc := 0x88, op := 0, z := false, n := sizeBytes (atomSize wide), b := u.atomVal wide b l,
          c := u.atomVal wide d l })) s

end Sys2Proof.Machine
end

