-- ==== Sys2Proof/Machine/Desc.lean ====
section
/-! DEFINITION. Tensor descriptors (R265 to R267), boxes and their elements (R268), and the storage formats' expansion and
compaction (R266). -/

namespace Sys2Proof.Machine

/-! ### Descriptors -/

/-- A descriptor with the coordinates of a box (R265, R268); `box` holds BOX_0 and BOX_1 as EXT or the tile replaces them. -/
structure Desc where
  base : Nat
  fmt : Nat
  size : List Nat
  box : List Nat
  step : List Int
  scale : Nat
  codebook : Nat
  meta_ : Nat
  version : Nat
  coord : List Int
  deriving DecidableEq, Repr

/-- Storage code (R266). -/
def Desc.sto (d : Desc) : Nat := d.fmt % 256
/-- Canonical KIND (R265). -/
def Desc.kind (d : Desc) : Nat := nbits d.fmt 8 8
/-- NDIM (R265). -/
def Desc.ndim (d : Desc) : Nat := nbits d.fmt 18 3
/-- TRANSPOSE (R265). -/
def Desc.trans (d : Desc) : Bool := nbits d.fmt 21 1 == 1
/-- SPARSE (R265). -/
def Desc.sparse (d : Desc) : Nat := nbits d.fmt 22 2
/-- A canonical image (R266). -/
def Desc.image (d : Desc) : Bool := d.sto == 0x0C
/-- 2:4 storage (R266). -/
def Desc.twoFour (d : Desc) : Bool := d.sto == 0x08 || d.sto == 0x09 || d.sto == 0x0A
/-- Packed storage: INT4, K4 and 2:4 (R265). -/
def Desc.packed (d : Desc) : Bool := d.sto == 0x06 || d.sto == 0x07 || d.twoFour
/-- Storage with E8 scales (R266). -/
def Desc.scaled (d : Desc) : Bool := d.sto == 0x04 || d.sto == 0x07

/-- The canonical KIND of a storage code; an image takes any, and a code outside R266 has none. -/
def stoKind (sto : Nat) : Nat :=
  match sto with
  | 0x01 => 1
  | 0x02 => 2
  | 0x03 => 3
  | 0x04 => 4
  | 0x05 => 5
  | 0x06 => 5
  | 0x07 => 6
  | 0x08 => 1
  | 0x09 => 2
  | 0x0A => 5
  | 0x0B => 7
  | _ => 0

/-- Bytes of a storage element, or of one packed value of 2:4 storage (R266). -/
def stoBytes (sto : Nat) : Nat :=
  match sto with
  | 0x01 => 2
  | 0x02 => 2
  | 0x03 => 4
  | 0x08 => 2
  | 0x09 => 2
  | 0x0B => 4
  | _ => 1

/-- The multiple that BASE and the steps keep (R265). -/
def Desc.unitBytes (d : Desc) : Nat := if d.packed then 1 else stoBytes d.sto

/-- The value at a key of a list of dimensions. -/
def boxOf (bs : List Byte) (k : Nat) : Nat := field bs (0x14 + 16 * k) 2

/-- A descriptor read from its bytes, with coordinates and EXT (R265, R268). -/
def descOf (bs : List Byte) (coord : List Int) (ext : Option Nat) : Desc :=
  { base := field bs 0x00 8, fmt := field bs 0x08 4, size := (List.range 5).map fun k => field bs (0x10 + 16 * k) 4,
    box := (match ext with
      | some v => [v % 2 ^ 16, nbits v 16 16, boxOf bs 2, boxOf bs 3, boxOf bs 4]
      | none => (List.range 5).map (boxOf bs)),
    step := (List.range 5).map fun k => sgnOf 64 (field bs (0x18 + 16 * k) 8), scale := field bs 0x60 8,
    codebook := field bs 0x68 8, meta_ := field bs 0x70 8, version := field bs 0x78 8, coord := coord }

/-- BOX_1 × BOX_2 × BOX_3 × BOX_4. -/
def Desc.outer (d : Desc) : Nat := (d.box.drop 1).foldl (fun n b => n * b) 1

/-- The tile's rows and columns (R268). -/
def Desc.shape (d : Desc) : Nat × Nat := if d.trans then (d.box.getD 0 0, d.outer) else (d.outer, d.box.getD 0 0)

/-- Whether a load's box has zero extent (R269) (DEDUCED, assumption log 19). -/
def Desc.zeroBox (d : Desc) : Bool := !d.image && (d.shape.1 == 0 || d.shape.2 == 0)

/-- Breaches with REASON 0x12 (R267); `full` where the device reads every field. -/
def descBad12 (bs : List Byte) (d : Desc) (full zero : Bool) : List HdrBad :=
  [badIf (full && d.base % d.unitBytes != 0) 0x12 0x00, badIf (nbits d.fmt 16 2 != 0) 0x12 0x0A,
   badIf (full && field bs 0x0C 4 != 0) 0x12 0x0C]
    ++ (List.range 5).map (fun k => badIf (full && field bs (0x16 + 16 * k) 2 != 0) 0x12 (0x16 + 16 * k))
    ++ [badIf (!zero && d.version % 4 != 0) 0x12 0x78]

/-- Breaches with REASON 0x10 (R266, R267). -/
def descBad10 (d : Desc) : List HdrBad :=
  [badIf (!d.image && stoKind d.sto == 0) 0x10 0x08,
   badIf (kindBits d.kind == 0 || (!d.image && d.kind != stoKind d.sto)) 0x10 0x09,
   badIf (d.sparse != 0 && !(d.sparse == 1 && d.twoFour && d.fmt / 2 ^ 24 == 0x42 && d.trans)) 0x10 0x0A]

/-- Breaches with REASON 0x11; the shape is checked for a load (R264, R267). -/
def descBad11 (d : Desc) (load : Bool) : List HdrBad :=
  let rows := d.shape.1
  let cols := d.shape.2
  let overR := decide (64 < rows) || (d.sparse == 1 && rows % 4 != 0)
  let overC := decide (kindCols d.kind < cols)
  let inner := if d.trans then overR else overC
  let outer := if d.trans then overC else overR
  [badIf (d.ndim == 0 || decide (5 < d.ndim)) 0x11 0x0A, badIf (load && !d.image && inner) 0x11 0x14,
   badIf (load && !d.image && outer) 0x11 0x24]

/-- Breaches with REASON 0x16, record by record (R265, R267). -/
def descBad16 (bs : List Byte) (d : Desc) : List HdrBad :=
  let step (k : Nat) : Int := d.step.getD k 0
  [badIf ((step 0 != 0) == d.packed || step 0 % d.unitBytes != 0) 0x16 0x18]
    ++ (List.range 5).flatMap fun k =>
      if k == 0 then []
      else if d.ndim ≤ k then
        [badIf (field bs (0x10 + 16 * k) 4 != 1) 0x16 (0x10 + 16 * k), badIf (boxOf bs k != 1) 0x16 (0x14 + 16 * k),
         badIf (step k != 0) 0x16 (0x18 + 16 * k)]
      else [badIf (step k % d.unitBytes != 0) 0x16 (0x18 + 16 * k)]

/-- Breaches with REASON 0x13 (R267). -/
def descBad13 (d : Desc) : List HdrBad :=
  [badIf (d.scaled && (decide (2 < d.ndim) || d.coord.getD 1 0 % 32 != 0)) 0x13 0x0A,
   badIf (d.twoFour && d.size.getD 0 0 % 4 != 0) 0x13 0x10, badIf (d.sto == 0x07 && d.codebook == 0) 0x13 0x68]

/-- The breach of a descriptor, the first in the order of R267 at its lowest byte. A box of zero extent reads only FMT and the
shape (R269); an image only BASE, FMT and VERSION (R265). -/
def descBad (bs : List Byte) (d : Desc) (load aon : Bool) : HdrBad :=
  let zero := load && d.zeroBox
  let full := !d.image && !zero
  firstBad (descBad12 bs d full zero ++ descBad10 d ++ descBad11 d load ++ (if full then descBad16 bs d else [])
    ++ (if full then descBad13 d else []) ++ [badIf (aon && !zero && d.version == 0) 0x15 0x78])

/-! ### Boxes (R268) -/

/-- The indices of a flattened index over extents, the first fastest. -/
def splitIdx : List Nat → Nat → List Nat
  | [], _ => []
  | b :: bs, q => q % b :: splitIdx bs (q / b)

/-- The tensor coordinates of tile element (r, c). -/
def Desc.pos (d : Desc) (r c : Nat) : List Int :=
  let i0 := if d.trans then r else c
  let q := if d.trans then c else r
  ((i0 :: splitIdx (d.box.drop 1) q).zip d.coord).map fun p => (p.1 : Int) + p.2

/-- Whether coordinates lie in the tensor. -/
def Desc.inRange (d : Desc) (j : List Int) : Bool := (j.zip d.size).all fun p => decide (0 ≤ p.1) && decide (p.1 < p.2)

/-- An address modulo 2^64. -/
def addr64 (v : Int) : Nat := wrapNat 64 v

/-- BASE + Σ jk × STEP_k, before it is taken modulo 2^64. -/
def Desc.at (d : Desc) (j : List Int) : Int := (j.zip d.step).foldl (fun a p => a + p.1 * p.2) d.base

/-- The flattened index of dimensions 1 to 4, dimension 1 fastest, over the tensor's sizes (R266). -/
def Desc.rowIndex (d : Desc) (j : List Int) : Int :=
  let x (k : Nat) : Int := j.getD k 0
  let n (k : Nat) : Int := d.size.getD k 1
  x 1 + n 1 * (x 2 + n 2 * (x 3 + n 3 * x 4))

/-- Dimension 0 of in-range coordinates. -/
def dim0 (j : List Int) : Nat := (j.getD 0 0).toNat

/-- The address of the metadata byte of a 2:4 element (R266). -/
def Desc.nibbleAt (d : Desc) (j : List Int) : Int :=
  (d.meta_ : Int) + d.rowIndex j * (4 * ceilDiv (d.size.getD 0 0) 32 : Nat) + (dim0 j / 4 / 2 : Nat)

/-- The address of the first packed value of the group of a 2:4 element (R266). -/
def Desc.groupAt (d : Desc) (j : List Int) : Int := d.at j + (2 * (dim0 j / 4) * stoBytes d.sto : Nat)

/-- The addresses of n bytes from one upward, modulo 2^64. -/
def addrsFrom (a : Int) (n : Nat) : List Nat := (List.range n).map fun (k : Nat) => addr64 (a + (k : Int))

/-- The bytes that the element at in-range coordinates takes from memory: its own, the byte that holds its nibble, or the
metadata byte and both values of its group (R265, R266). -/
def Desc.elemVas (d : Desc) (j : List Int) : List Nat :=
  if d.twoFour then addrsFrom (d.nibbleAt j) 1 ++ addrsFrom (d.groupAt j) (2 * stoBytes d.sto)
  else if d.packed then addrsFrom (d.at j + (dim0 j / 2 : Nat)) 1
  else addrsFrom (d.at j) (stoBytes d.sto)

/-- The tile elements of a shape that are in range, in row-major order, with their coordinates. -/
def Desc.cells (d : Desc) (rows cols : Nat) : List ((Nat × Nat) × List Int) :=
  ((List.range rows).flatMap fun r => (List.range cols).map fun c => ((r, c), d.pos r c)).filter fun x => d.inRange x.2

/-- EXTENT: one plus the highest row and column that hold an in-range element (R268). -/
def extentOf (xs : List ((Nat × Nat) × List Int)) : Nat × Nat :=
  xs.foldl (fun a x => (Nat.max a.1 (x.1.1 + 1), Nat.max a.2 (x.1.2 + 1))) (0, 0)

/-- The addresses of the scale bytes of a box of an extent along dimension 1; a block wholly outside the tensor has none
(R266). -/
def Desc.scaleVas (d : Desc) (ext : Nat) : List (Option Nat) :=
  if !d.scaled || d.scale == 0 then []
  else
    let k0 := d.coord.getD 1 0
    (List.range (ceilDiv ext 32)).map fun j =>
      let lo : Int := k0 + (32 * j : Nat)
      if lo + 31 < 0 || (d.size.getD 1 0 : Int) ≤ lo then none else some (addr64 ((d.scale : Int) + k0 / 32 + (j : Nat)))

/-! ### Expansion (R266) -/

/-- What the storage bytes of an element give: a value, with whether it was a reserved INT4 code; no value, at a position that
2:4 data does not keep; or malformed metadata. -/
inductive Dec where
  | val (v : Nat) (rev : Bool)
  | absent
  | bad
  deriving DecidableEq, Repr

/-- The nibble of a byte. -/
def nibble (b : Byte) (high : Bool) : Nat := if high then b.toNat / 16 else b.toNat % 16

/-- An element expanded to its canonical kind (R89, R266). -/
def Desc.decode (d : Desc) (j : List Int) (bs : List Byte) : Dec :=
  let j0 := dim0 j
  if d.twoFour then
    let m := nibble (bs.headD 0#8) (j0 / 4 % 2 == 1)
    let e := stoBytes d.sto
    if m / 4 ≤ m % 4 then .bad
    else if j0 % 4 == m % 4 then .val (field bs 1 e) false
    else if j0 % 4 == m / 4 then .val (field bs (1 + e) e) false
    else .absent
  else if d.packed then
    let v := nibble (bs.headD 0#8) (j0 % 2 == 1)
    if d.sto == 0x07 then .val v false
    else if v == 8 then .val 0 true
    else .val (wrapNat 8 (sgnOf 4 v)) false
  else .val (field bs 0 (stoBytes d.sto)) false

/-- What a box expands to: its elements, whether a reserved code was met, and whether its metadata is malformed. -/
structure Expanded where
  elems : Elems
  rev : Bool
  bad : Bool
  deriving DecidableEq, Repr

/-- The elements of a box from its bytes, n for each element (R266). -/
def Desc.expand (d : Desc) (cols n : Nat) : List ((Nat × Nat) × List Int) → List Byte → Expanded → Expanded
  | [], _, acc => acc
  | x :: xs, bs, acc =>
    d.expand cols n xs (bs.drop n)
      (match d.decode x.2 (bs.take n) with
        | .val v rev => { acc with elems := acc.elems ++ [(x.1.1 * cols + x.1.2, v)], rev := acc.rev || rev }
        | .absent => acc
        | .bad => { acc with bad := true })

/-- The pairs of positions of a group of four, in order. -/
def groupPairs : List (List Nat) := [[0, 1], [0, 2], [0, 3], [1, 2], [1, 3], [2, 3]]

/-- The two positions that stand for a group's kept ones: themselves where they are two; else an open choice among the pairs
that hold them, or lie among them (R266, DESIGN CHOICE, assumption log 10). -/
def pairFor (draw group : Nat) (kept : List Nat) : List Nat :=
  if kept.length == 2 then kept
  else
    let ok := groupPairs.filter fun p =>
      if kept.length < 2 then kept.all fun k => p.contains k else p.all fun k => kept.contains k
    ok.getD (Config.groupPair draw group % ok.length) [0, 1]

/-- The elements of an N:M tile of 2:4 data: two in each group of four rows of a column (R266). -/
def twoFourTile (draw rows cols : Nat) (es : Elems) : Elems :=
  ((List.range cols).flatMap fun c => (List.range (rows / 4)).map fun g => (c, g)).foldl (fun (m : Elems) (x : Nat × Nat) =>
    let idx (p : Nat) : Nat := (4 * x.2 + p) * cols + x.1
    let kept := (List.range 4).filter fun p => (SMap.get es (idx p)).isSome
    (pairFor draw (x.1 * (rows / 4) + x.2) kept).foldl (fun (m : Elems) (p : Nat) =>
      SMap.set m (idx p) ((SMap.get es (idx p)).getD 0)) m) []

/-! ### Compaction (R266) -/

/-- The order of magnitudes of R364, as a number: NaN above infinity above the finite values; a K4 code by its entry. -/
def magKey (kind : Nat) (codebook : List Byte) (v : Nat) : Nat :=
  match kind with
  | 5 => (sgnOf 8 v).natAbs
  | 4 => v % 2 ^ 7
  | 2 => Nat.min (v % 2 ^ 15) 0x7C01
  | 6 => Nat.min (field codebook (2 * v) 2 % 2 ^ 15) 0x7F81
  | 3 => Nat.min (v % 2 ^ 31) 0x7F800001
  | 7 => (sgnOf 32 v).natAbs
  | _ => Nat.min (v % 2 ^ 15) 0x7F81

/-- Insertion into a list ordered by descending magnitude, an equal one after those that are there. -/
def insertMag (x : Nat × Nat) : List (Nat × Nat) → List (Nat × Nat)
  | [] => [x]
  | y :: ys => if y.1 < x.1 then x :: y :: ys else y :: insertMag x ys

/-- The indices of the n greatest of keyed indices, a tie to the earlier, in increasing order (R364). -/
def greatest (n : Nat) (xs : List (Nat × Nat)) : List Nat :=
  sortN (((xs.foldl (fun acc x => insertMag x acc) []).take n).map Prod.snd)

/-- The lowest K4 code whose codebook entry is ±0 (R105, R272). -/
def zeroCode (codebook : List Byte) : Option Nat := (List.range 16).find? fun c => field codebook (2 * c) 2 % 2 ^ 15 == 0

/-- An INT8 value clamped to ±7 and kept in four bits (R97). -/
def toInt4 (v : Nat) : Nat := wrapNat 4 (Max.max (-7) (Min.min 7 (sgnOf 8 v)))

/-- The bytes of a value as destination bytes at an address. -/
def valCells (a : Int) (n v : Nat) : Cells := (addrsFrom a n).zip ((valBytes n v).map fun b => (b, 0xFF#8))

/-- A nibble as a destination byte. -/
def nibbleCell (a : Int) (high : Bool) (v : Nat) : Cells :=
  [(addr64 a, if high then (BitVec.ofNat 8 (16 * v), 0xF0#8) else (BitVec.ofNat 8 v, 0x0F#8))]

/-- The destination bytes of the in-range elements of a source in a format that is not 2:4 (R272). -/
def Desc.compact (d : Desc) (h : TileHdr) (es : Elems) (xs : List ((Nat × Nat) × List Int)) : Cells :=
  xs.flatMap fun x =>
    let e := SMap.get es (x.1.1 * h.cols + x.1.2)
    let j := x.2
    if d.packed then
      let v := if d.sto == 0x07 then e.getD ((zeroCode h.codebook).getD 0) else toInt4 (e.getD 0)
      nibbleCell (d.at j + (dim0 j / 2 : Nat)) (dim0 j % 2 == 1) v
    else valCells (d.at j) (stoBytes d.sto) (e.getD 0)

/-- The in-range elements of a box by group of four positions along dimension 0, groups in the order in which the elements
meet them: the flattened row and group number, with the members. -/
def Desc.groups (d : Desc) (xs : List ((Nat × Nat) × List Int)) :
    List ((Int × Nat) × List ((Nat × Nat) × List Int)) :=
  xs.foldl (fun acc x =>
    let k : Int × Nat := (d.rowIndex x.2, dim0 x.2 / 4)
    if acc.any fun g => g.1 == k then acc.map fun g => if g.1 == k then (g.1, g.2 ++ [x]) else g
    else acc ++ [(k, [x])]) []

/-- The destination bytes of one group of 2:4 storage: the metadata nibble and the kept values (R266, R272). -/
def Desc.groupCells (d : Desc) (h : TileHdr) (es : Elems) (draw n : Nat) (ms : List ((Nat × Nat) × List Int)) : Cells :=
  match ms with
  | [] => []
  | m :: _ =>
    let val (x : (Nat × Nat) × List Int) : Option Nat := SMap.get es (x.1.1 * h.cols + x.1.2)
    let at_ (p : Nat) : Option Nat := (ms.find? fun x => dim0 x.2 % 4 == p).bind val
    let here := (List.range 4).filter fun p => (at_ p).isSome
    let kept := if h.sparse == 0 then greatest 2 (here.map fun p => (magKey h.kind h.codebook ((at_ p).getD 0), p)) else here
    let ps := pairFor draw n kept
    let e := stoBytes d.sto
    let put (i p : Nat) : Cells := match at_ p with
      | some v => valCells (d.groupAt m.2 + (i * e : Nat)) e v
      | none => []
    nibbleCell (d.nibbleAt m.2) (dim0 m.2 / 4 % 2 == 1) (ps.getD 0 0 + 4 * ps.getD 1 0)
      ++ put 0 (ps.getD 0 0) ++ put 1 (ps.getD 1 0)

/-- The destination bytes of the in-range elements of a source in 2:4 storage (R272). -/
def Desc.compactTwoFour (d : Desc) (h : TileHdr) (es : Elems) (draw : Nat) (xs : List ((Nat × Nat) × List Int)) : Cells :=
  let gs := d.groups xs
  ((List.range gs.length).zip gs).flatMap fun g => d.groupCells h es draw g.1 g.2.2

/-- The descriptor with the box that a store forms from its tile (R272); none where the division leaves a remainder. -/
def Desc.storeBox (d : Desc) (h : TileHdr) : Option Desc :=
  let p := (d.box.drop 2).foldl (fun n b => n * b) 1
  let b0 := if d.trans then h.rows else h.cols
  let bl := if d.trans then h.cols else h.rows
  if p == 0 then (if bl == 0 then some { d with box := b0 :: 0 :: d.box.drop 2 } else none)
  else if bl % p != 0 then none
  else some { d with box := b0 :: (bl / p) :: d.box.drop 2 }

/-- The destination bytes of a store in the order in which the engine meets them: elements, scales and codebook; an image
whole (R266, R269, R272). A tile of extent 0 writes nothing. -/
def Desc.storeCells (d : Desc) (bs : List Byte) (h : TileHdr) (payload : List Byte) (draw : Nat) : Cells :=
  if h.erows == 0 || h.ecols == 0 then []
  else if d.image then
    (addrsFrom d.base (256 + payload.length)).zip ((bs ++ payload).map fun b => (b, 0xFF#8))
  else
    let es := elemsOf h payload
    let xs := (d.cells h.rows h.cols).filter fun x => decide (x.1.1 < h.erows) && decide (x.1.2 < h.ecols)
    let sv := d.scaleVas (d.box.getD 1 0)
    let scales : Cells := ((List.range sv.length).zip sv).filterMap fun p => p.2.map fun a =>
      (a, h.scales.getD p.1 0#8, 0xFF#8)
    (if d.twoFour then d.compactTwoFour h es draw xs else d.compact h es xs) ++ scales
      ++ if d.sto == 0x07 then (addrsFrom d.codebook 32).zip (h.codebook.map fun b => (b, 0xFF#8)) else []

end Sys2Proof.Machine
end

