-- ==== Sys2Proof/Machine/Copy.lean ====
section
/-! DEFINITION. The copy engine after issue: the translation of a copy's addresses (R277), fills (R260, R266, R271, R273, R274),
stores with their lines and version word (R50, R52, R272), completion, data faults and page-fault service (R259, R277). -/

namespace Sys2Proof.Machine

/-! ### Copies of a core -/

/-- A copy in flight of a core. -/
def State.copyOp (s : State) (core id : Nat) : Option CopyOp := (s.core core).ctx.copies.get id

/-- A copy replaced. -/
def State.setCopy (s : State) (core id : Nat) (o : CopyOp) : State :=
  s.modCtx core fun c => { c with copies := c.copies.set id o }

/-- A copy that is done. -/
def State.dropCopy (s : State) (core id : Nat) : State :=
  s.modCore core fun c =>
    { c with ctx := { c.ctx with copies := c.ctx.copies.del id }, far := c.far.keep fun _ f => f.unit != id }

/-- A task whose engine operation has completed has acted (R253). -/
def State.acted (s : State) (t : Nat) : State :=
  s.modTask t fun k => { k with lastAct := (s.core k.core).cyc, hungSent := false }

/-- Addresses translated for an engine: all of them, or those before the first that stops it, at a page that is not mapped or
at a fault (R277). -/
inductive CopyX where
  | ok (pas : List Nat)
  | miss (page : Nat)
  | fault (pas : List Nat) (cause : Cause) (va : Nat)
  deriving DecidableEq, Repr

/-- Addresses translated in order, one page at a time; `last` is the page last translated, `acc` the addresses so far, last
first. -/
def copyXlat (x : Nat → Xl) (undeliv : Nat → Bool) : List Nat → Option (Nat × Xl) → List Nat → CopyX
  | [], _, acc => .ok acc.reverse
  | va :: vas, last, acc =>
    let g := va / 2 ^ 16
    let r := match last with
      | some (h, y) => if h == g then y else x g
      | none => x g
    match r with
    | .ok b => copyXlat x undeliv vas (some (g, r)) ((b + va % 2 ^ 16) :: acc)
    | .pageFault => if undeliv g then .fault acc.reverse cPage va else .miss g
    | .prot => .fault acc.reverse cProt va
    | .linkDown => .fault acc.reverse cLink va

/-- Addresses of a task translated for the copy engine of its core. -/
def State.engineXlat (s : State) (core t : Nat) (p : Perm) (vas : List Nat) : CopyX :=
  let k := s.task t
  copyXlat (fun g => s.translate core k.part k.asn (g * 2 ^ 16) p) (s.undeliv k.asn) vas none []

/-- The TLB filled for the pages of addresses (R409). -/
def State.fillTlbs (s : State) (core t : Nat) (vas : List Nat) : State :=
  (sortN (vas.map fun a => a / 2 ^ 16)).foldl (fun st g => st.fillTlb core (s.task t).asn (g * 2 ^ 16)) s

/-- A page that a copy has met not mapped: the coalescer is told once (R251, R277). -/
def State.copyMiss (s : State) (core id : Nat) (o : CopyOp) (page : Nat) : State :=
  if o.served.contains page then s
  else
    (s.setCopy core id { o with served := o.served ++ [page] }).coalEvent core
      (s.coalRecord o.unit o.lane 0 cPage (BitVec.ofNat 64 (page * 2 ^ 16)) o.pc)

/-! ### Reads of an engine -/

/-- The number that stands, in the requests of an engine to another package, for reads that bypass the L1 (R53). -/
def bypassLane : Nat := 300

/-- What an engine's reads at given addresses come to: they wait, the target of one is lost, or their bytes. -/
inductive EngRead where
  | wait (s : State)
  | lost (s : State) (index : Nat)
  | got (s : State) (bytes : List Byte)

/-- The index of the first address of a list whose read is lost. -/
def lostIndex (c : Core) (id l : Nat) (pas : List Nat) : Nat :=
  ((List.range pas.length).find? fun k => c.farByte id l (pas.getD k 0) == .lost).getD 0

/-- Reads through the core's L1 (R276). -/
def State.engineRead (s : State) (core id : Nat) (pas : List Nat) : EngRead :=
  match s.readLanes core id [(0, pas)] with
  | .wait t => .wait t
  | .done t vals lost fill =>
    if lost.isEmpty then .got (t.installFill core fill) (vals.flatMap Prod.snd)
    else .lost t (lostIndex (s.core core) id 0 pas)

/-- One byte that bypasses every L1: home, or another package's answer (R53). -/
def State.bypassByte (s : State) (core id pa : Nat) : Byte :=
  match (s.core core).farByte id bypassLane pa with
  | .have b => b
  | _ => s.homeByte pa

/-- Reads that bypass every L1 (R53). -/
def State.bypassRead (s : State) (core id : Nat) (pas : List Nat) : EngRead :=
  let c := s.core core
  let far := pas.filter fun a => (remotePkg s a).isSome
  let need := far.filter fun a => c.farByte id bypassLane a == .absent
  if !need.isEmpty then .wait (s.sendReads core id bypassLane need)
  else if far.any fun a => c.farByte id bypassLane a == .pending then .wait s
  else if far.any fun a => c.farByte id bypassLane a == .lost then .lost s (lostIndex c id bypassLane pas)
  else if pas.any fun a => s.owned a then .wait s
  else .got s (pas.map fun a => s.bypassByte core id a)

/-! ### Version words (R52, R53) -/

/-- What an atomic of an engine at a version word comes to: it waits, its target is lost, or the old value. -/
inductive VerRead where
  | wait (s : State)
  | lost (s : State)
  | got (s : State) (old : Nat)

/-- The requests of a copy to another package of a number forgotten. -/
def State.clearFarLane (s : State) (core id l : Nat) : State :=
  s.modCore core fun c => { c with far := c.far.keep fun _ f => f.unit != id || f.lane != l }

/-- An atomic of an engine at a version word, at home here or in another package (R42, R403). -/
def State.versionOp (s : State) (core id l : Nat) (k : AtomCode) (pa : Nat) : VerRead :=
  match remotePkg s pa with
  | some pkg =>
    match (s.core core).farOf id l pa true with
    | none => .wait (s.sendAtomic core id l k pa pkg)
    | some f =>
      match f.data with
      | some bs => .got (s.clearFarLane core id l) (field bs 0 4)
      | none => if f.lost then .lost (s.clearFarLane core id l) else .wait s
  | none =>
    if s.owned pa then .wait s
    else
      let r := s.atomicN core pa 4 k.apply
      .got r.2 r.1

/-- A read of a version word. -/
def verRead : AtomCode := { opc := 0x86, op := 4, z := true, n := 4, b := 0, c := 0 }
/-- An increment of a version word, modulo 2^32. -/
def verInc : AtomCode := { opc := 0x86, op := 0, z := true, n := 4, b := 1, c := 0 }
/-- The change of a version word from an even value to the odd one after it: its bit 0 set (R52). An odd word stays. -/
def verHold : AtomCode := { opc := 0x86, op := 4, z := true, n := 4, b := 1, c := 0 }

/-! ### Fills -/

/-- What a fill comes to: it waits, it meets a page that is not mapped, it stops at a data fault with the header that it
leaves, or it is done, with header and payload. -/
inductive FillRun where
  | wait (s : State)
  | miss (s : State) (page : Nat)
  | fault (s : State) (cause : Cause) (info : W64) (h : TileHdr)
  | done (s : State) (hdr payload : List Byte)

/-- The bytes that the spec does not give of the header of a faulted slot (DESIGN CHOICE, assumption log 11): CODEBOOK and SCALES. -/
def faultedBytes (draw off n : Nat) : List Byte := (List.range n).map fun k => Config.faultedByte draw (off + k)

/-- The header of a slot whose fill stopped at a data fault: FAULT, FCAUSE and COUNT 0 (R262, R277). CLIP and REV, the codebook
and the scales are open (DESIGN CHOICE, assumption log 11). -/
def TileHdr.faulted (h : TileHdr) (draw : Nat) (cause : Cause) : TileHdr :=
  { h with
    version := 0, count := 0, zero := 0, status := 2 ^ 24 * cause + 8 + (Config.faultedByte draw 0x18).toNat % 4,
    codebook := faultedBytes draw 0x20 32, scales := faultedBytes draw 0x40 128 }

/-- The kind word of a load (R261, R266). -/
def Desc.kindw (d : Desc) : Nat := 2 ^ 24 + d.kind + if d.sparse == 1 then 2 ^ 16 * 4 + 2 ^ 12 * 2 + 2 ^ 8 else 0

/-- The header of a load but for its codebook, scales, version and status bits of its data (R260, R268). -/
def Desc.loadHdr (d : Desc) : TileHdr :=
  let rows := d.shape.1
  let cols := d.shape.2
  let e := extentOf (d.cells rows cols)
  ({ TileHdr.plain d.kindw rows cols with erows := e.1, ecols := e.2 }).sized

/-- The descriptor of a load or a store. -/
def CopyOp.d (o : CopyOp) : Desc := descOf o.desc o.coords o.ext

/-- The bytes that a load reads: its elements, then its scales, then its codebook (R266). -/
def Desc.loadVas (d : Desc) : List Nat :=
  ((d.cells d.shape.1 d.shape.2).flatMap fun x => d.elemVas x.2) ++ (d.scaleVas (d.box.getD 1 0)).filterMap id
    ++ if d.sto == 0x07 then addrsFrom d.codebook 32 else []

/-- The scale bytes of a load, from the bytes read for its blocks: 127 throughout where SCALE is zero, and 0 for a block
wholly outside the tensor (R265, R266). -/
def scalesOf : List (Option Nat) → List Byte → List Byte
  | [], _ => []
  | none :: xs, bs => 0#8 :: scalesOf xs bs
  | some _ :: xs, bs => bs.headD 0#8 :: scalesOf xs (bs.drop 1)

/-- A box expanded from the bytes read for it: header and payload, or malformed metadata (R266, R268, R277). -/
def Desc.loadTile (d : Desc) (draw version : Nat) (bytes : List Byte) : Option (List Byte × List Byte) :=
  let rows := d.shape.1
  let cols := d.shape.2
  let xs := d.cells rows cols
  let n := if d.twoFour then 1 + 2 * stoBytes d.sto else if d.packed then 1 else stoBytes d.sto
  let x := d.expand cols n xs bytes { elems := [], rev := false, bad := false }
  if x.bad then none
  else
    let rest := bytes.drop (n * xs.length)
    let sv := d.scaleVas (d.box.getD 1 0)
    let scales := if !d.scaled then [] else if d.scale == 0 then List.replicate 128 127#8 else scalesOf sv rest
    let book := if d.sto == 0x07 then rest.drop (sv.filterMap id).length else []
    let es := if d.sparse == 1 then twoFourTile draw rows cols x.elems else x.elems
    let clip := decide (xs.length < rows * cols)
    let h := { d.loadHdr with
      version := version, codebook := book, scales := scales,
      status := (if clip then 2 else 0) + (if x.rev then 1 else 0) }
    some (hdrBytes h, payloadBytes h es)

/-- The bytes of an image as it fills a slot: its own, but for VERSION and STATUS (R260). -/
def imageHdr (version : Nat) (hdr : List Byte) : List Byte :=
  hdr.take 0x0C ++ valBytes 4 version ++ (hdr.drop 0x10).take 8 ++ valBytes 4 0 ++ (hdr.drop 0x1C).take 0xA4

/-- A load's data read: an image's header first, then its payload; any other box whole (R260, R271, R277)
(DEDUCED, assumption log 26). -/
def loadData (rd : State → List Nat → EngRead) (o : CopyOp) (cap : Nat) (core : Nat) (s : State)
    (version : Nat) : FillRun :=
  let d := o.d
  let fall (t : State) (h : TileHdr) (cause : Cause) (va : Nat) : FillRun := .fault t cause (BitVec.ofNat 64 va) h
  let read (vas : List Nat) (h : TileHdr) (go : State → List Byte → FillRun) : FillRun :=
    match s.engineXlat core o.task .r vas with
    | .miss g => .miss s g
    | .fault _ c va => fall s h c va
    | .ok pas =>
      match rd (s.fillTlbs core o.task vas) pas with
      | .wait t => .wait t
      | .lost t k => fall t h cLink (vas.getD k 0)
      | .got t bs => go t bs
  if d.image then
    let blank := TileHdr.plain d.kindw 0 0
    let headVas := addrsFrom d.base 256
    read headVas blank fun _ head =>
      let h := hdrOf head
      let n := Nat.min h.count (256 * cap)
      read (headVas ++ addrsFrom (d.base + 256) n) h fun t all =>
        if 256 * cap < h.count then .fault t cTile (tileInfo 0x03 o.tile) h
        else .done t (imageHdr version (all.take 0xC0)) (all.drop 256)
  else
    read d.loadVas d.loadHdr fun t bs =>
      match d.loadTile o.draw version bs with
      | some (h, p) => .done t h p
      | none => .fault t cMeta (metaInfo 0x17 0x70 0xFF) d.loadHdr

/-- A retry of an `.aon` load, counted (R53) (DESIGN CHOICE, assumption log 61). -/
def State.aonRetry (s : State) (core id : Nat) (o : CopyOp) : State :=
  ((s.setCopy core id { o with version := none }).modCore core fun c => { c with aonRetries := c.aonRetries + 1 }).clearFarLane
    core id bypassLane

/-- A load under `.aon`: the version read, the data past every L1, and the version again (R53). -/
def aonLoad (o : CopyOp) (cap core id : Nat) (s : State) : FillRun :=
  let d := o.d
  let h := if d.image then TileHdr.plain d.kindw 0 0 else d.loadHdr
  match s.engineXlat core o.task .r [d.version] with
  | .miss g => .miss s g
  | .fault _ c va => .fault s c (BitVec.ofNat 64 va) h
  | .ok pas =>
    let pa := pas.headD 0
    let first : VerRead := match o.version with
      | some v => .got s v
      | none => s.versionOp core id (bypassLane + 1) verRead pa
    match first with
    | .wait t => .wait t
    | .lost t => .fault t cLink (BitVec.ofNat 64 d.version) h
    | .got t v1 =>
      if v1 % 2 == 1 then .wait (t.aonRetry core id o)
      else
        let o1 := { o with version := some v1 }
        match loadData (fun st ps => st.bypassRead core id ps) o1 cap core (t.setCopy core id o1) v1 with
        | .done t1 hdr p =>
          match t1.versionOp core id (bypassLane + 2) verRead pa with
          | .wait t2 => .wait t2
          | .lost t2 => .fault t2 cLink (BitVec.ofNat 64 d.version) h
          | .got t2 v2 => if v2 == v1 then .done t2 hdr p else .wait (t2.aonRetry core id o1)
        | r => r

/-- The payload of a transposed dense tile (R274). -/
def transposed (h : TileHdr) (payload : List Byte) : List Byte :=
  let es := elemsOf h payload
  packElems (kindBits h.kind) ((List.range h.cols).flatMap fun c => (List.range h.rows).map fun r =>
    (SMap.get es (r * h.cols + c)).getD 0)

/-- A fill brought as far as it can be (R260, R271, R273, R274). -/
def State.runFill (s : State) (core id : Nat) (o : CopyOp) : FillRun :=
  let t := s.task o.task
  let cap := (t.tileEnt o.tile).cap
  match o.kind with
  | .load false => loadData (fun st ps => st.engineRead core id ps) o cap core s 0
  | .load true => aonLoad o cap core id s
  | .fill kindw =>
    let rows := o.b.toNat % 2 ^ 16
    let cols := nbits o.b.toNat 16 16
    let h := ({ TileHdr.plain kindw.toNat rows cols with
      erows := rows, ecols := cols, scales := List.replicate 128 127#8 }).sized
    .done s (hdrBytes h) (packElems (kindBits h.kind) (List.replicate (rows * cols) (o.a.toNat % 2 ^ kindBits h.kind)))
  | .move tr src =>
    let h := hdrOf o.hdr
    let p := t.payload (t.tileEnt src).base.toNat o.count
    if tr then
      .done s (hdrBytes { h with rows := h.cols, cols := h.rows, erows := h.ecols, ecols := h.erows }) (transposed h p)
    else .done s (o.hdr.take 0xC0) p
  | .store .. => .wait s

/-- A slot made READY: payload, then header, then the state, with the ring's sticky REV (R259, R260, R278). -/
def State.fillSlot (s : State) (t k : Nat) (hdr payload : List Byte) (fault : Option (Nat × W64)) : State :=
  let e := (s.task t).tileEnt k
  let rev := field hdr 0x18 4 % 2 == 1
  (s.modTask t fun x =>
    { x with
      spad := (x.spad.writeN (e.base.toNat + 256) payload).writeN e.base.toNat hdr,
      rings := (match e.ring with
        | some r => if rev then x.rings.adjust (fun g => { g with rev := true }) r.toNat else x.rings
        | none => x.rings) }).modTile t k fun x => { x with st := .ready, fault := fault }

/-! ### Stores (R50, R52, R272) -/

/-- Whether a store of the same strand that was issued earlier has not yet asked for its lines (R276). -/
def CoreCtx.earlierStore (c : CoreCtx) (id : Nat) (o : CopyOp) : Bool :=
  c.copies.any fun p => decide (p.1 < id) && p.2.unit == o.unit && p.2.lane == o.lane && !p.2.started && match p.2.kind with
    | .store .. => true
    | _ => false

/-- Destination bytes gathered line by line; a later byte of a list comes after an earlier one. -/
def byLine (cs : Cells) : List (Nat × Cells) :=
  (cs.foldl (fun (m : SMap Cells) c => m.set (lineOf c.1) (c :: (m.get (lineOf c.1)).getD [])) []).map fun p =>
    (p.1, p.2.reverse)

/-- A byte with some of its bits written. -/
def mergeByte (old v mask : Byte) : Byte := (old &&& ~~~mask) ||| (v &&& mask)

/-- Destination bytes of one line written at home. -/
def State.writeCells (s : State) (cs : Cells) : State :=
  cs.foldl (fun t c => t.homeWrite c.1 (mergeByte (t.homeByte c.1) c.2.1 c.2.2)) s

/-- The dirty bytes of a core's L1 in a line, as destination bytes, with the line clean in the L1: the writeback that R272 places
ahead of the store takes its turn at the home slice with the line's ownership. -/
def State.dirtyCells (s : State) (core line : Nat) : Cells × State :=
  let ds := (s.core core).l1.keep fun a b => b.dirty && lineOf a == line
  let clean (a : Nat) (b : L1Byte) : L1Byte :=
    if b.dirty && lineOf a == line then { b with dirty := false, stamp := none, epoch := s.epoch a } else b
  (ds.map fun p => (p.1, p.2.val, 0xFF#8), s.modCore core fun c => { c with l1 := c.l1.mapVal clean })

/-- Ownership of a line asked for by an operation: granted where no one owns the line, else after those that wait (R50). -/
def State.askLine (s : State) (line : Nat) (who : Nat × Nat × Nat) : State :=
  let d := s.lineDir line
  let d1 : LineDir :=
    if d.owner.isNone then { d with owner := some who, epoch := d.epoch + 1#16 } else { d with queue := d.queue ++ [who] }
  { s with lines := s.lines.set line d1 }

/-- A line released, and granted to the next that waits (R50). -/
def State.releaseLine (s : State) (line : Nat) : State :=
  let d := s.lineDir line
  let d1 : LineDir := match d.queue with
    | [] => { d with owner := none }
    | w :: ws => { owner := some w, queue := ws, epoch := d.epoch + 1#16 }
  { s with lines := s.lines.set line d1 }

/-- Lines asked for by an operation of an engine, after the core's own dirty bytes in them (R272). -/
def State.askLines (s : State) (who : Nat × Nat × Nat) : List (Nat × Cells) → List (Nat × Cells) × State
  | [] => ([], s)
  | (line, cs) :: ls =>
    let r := s.dirtyCells who.1 line
    let q := (r.2.askLine line who).askLines who ls
    ((line, r.1 ++ cs) :: q.1, q.2)

/-- Bytes of another package that a store writes in part, merged over what their home holds. -/
def State.mergeFar (s : State) (core id : Nat) (cs : Cells) : List (Nat × Byte) :=
  cs.foldl (fun (m : List (Nat × Byte)) c =>
    SMap.set m c.1 (mergeByte ((SMap.get m c.1).getD (s.bypassByte core id c.1)) c.2.1 c.2.2)) []

/-- The bytes of a store that other packages hold and that it writes only in part (R266). -/
def partBytes (cs : Cells) : List Nat :=
  ((byLine cs).flatMap Prod.snd).foldl (fun (m : List (Nat × Byte)) c =>
    SMap.set m c.1 ((SMap.get m c.1).getD 0#8 ||| c.2.2)) [] |>.filterMap fun p => if p.2 == 0xFF#8 then none else some p.1

/-- A store past its translation: the bytes up to a fault are written, those of other packages by messages, the others under
the ownership of their lines (R50, R272, R403). -/
def State.storeGo (s : State) (core id : Nat) (o : CopyOp) (cs : Cells) (fault : Option (Nat × W64)) : State :=
  let far := cs.filter fun c => (remotePkg s c.1).isSome
  let near := cs.filter fun c => (remotePkg s c.1).isNone
  match s.bypassRead core id (partBytes far) with
  | .wait t => t
  | .lost t k =>
    t.setCopy core id { o with
      started := true, fault := some (cLink, BitVec.ofNat 64 ((partBytes far).getD k 0)) }
  | .got t _ =>
    let t1 := (linesIn (far.map Prod.fst)).foldl (fun st line =>
      ((st.core core).l1.keep fun a b => b.dirty && lineOf a == line).keys.foldl (fun x a => x.wbByte core a) st) t
    let t2 := (t.mergeFar core id far).foldl (fun st p => match remotePkg st p.1 with
      | some k => st.remoteWrite k p.1 p.2
      | none => st) t1
    let r := t2.askLines (core, 0, id) (byLine near)
    r.2.setCopy core id { o with
      started := true, fault := fault, lines := r.1, wrote := o.wrote || !cs.isEmpty }

/-- Whether a store's source has extent 0, so that it writes nothing (R269). -/
def CopyOp.writesNone (o : CopyOp) : Bool := (hdrOf o.hdr).erows == 0 || (hdrOf o.hdr).ecols == 0

/-- A store's version word made odd before its lines (R52): it waits while the word is odd. -/
def State.holdVersion (s : State) (core id : Nat) (o : CopyOp) (go : CopyOp → State → State) : State :=
  let stop (t : State) (c : Cause) (va : Nat) : State :=
    t.setCopy core id { o with started := true, fault := some (c, BitVec.ofNat 64 va) }
  match o.version with
  | some _ => go o s
  | none =>
    match s.engineXlat core o.task .rw [o.d.version] with
    | .miss g => s.copyMiss core id o g
    | .fault _ c va => stop s c va
    | .ok pas =>
      let pa := pas.headD 0
      match s.versionOp core id (bypassLane + 1) verHold pa with
      | .wait t => t
      | .lost t => stop t cLink o.d.version
      | .got t old =>
        if old % 2 == 1 then t
        else
          let o1 := { o with version := some pa, wrote := true }
          go o1 (t.setCopy core id o1)

/-- A store begun where nothing stands before it: its version word, its translation, then its lines (R52, R272, R276). -/
def State.startStore (s : State) (core id : Nat) : State :=
  match s.copyOp core id with
  | none => s
  | some o =>
    match o.kind with
    | .store _ aon =>
      if o.started || (s.core core).ctx.earlierStore id o then s
      else
        let t := s.task o.task
        let e := t.tileEnt o.tile
        let payload := t.payload e.base.toNat o.count
        let cs := o.d.storeCells o.hdr (hdrOf o.hdr) payload o.draw
        let go (o1 : CopyOp) (st : State) : State :=
          match st.engineXlat core o.task .w (cs.map Prod.fst) with
          | .miss g => st.copyMiss core id o1 g
          | .fault pas c va =>
            st.storeGo core id o1 (pas.zip (cs.map Prod.snd)) (some (c, BitVec.ofNat 64 va))
          | .ok pas => (st.fillTlbs core o.task (cs.map Prod.fst)).storeGo core id o1 (pas.zip (cs.map Prod.snd)) none
        if aon && !o.writesNone then s.holdVersion core id o go else go o s
    | _ => s

/-- The next stores of a strand begun once one of its stores has. -/
def State.startStores (s : State) (core : Nat) : State :=
  ((s.core core).ctx.copies.keys).foldl (fun t id => t.startStore core id) s

/-- The source of a store in its completion state (R272). -/
def State.storeDone (s : State) (core id : Nat) (o : CopyOp) (keep : Bool) : State :=
  let s1 := (s.modTile o.task o.tile fun e => { e with st := if keep then .ready else .empty }).modUnit o.unit fun u =>
    { u with
      copyWrote := u.copyWrote || o.wrote,
      copyFault := (match u.copyFault with
        | some f => some f
        | none => o.fault) }
  (s1.dropCopy core id).acted o.task

/-- The end of a store whose lines are all released: the version word made even again, then completion (R52, R277). -/
def State.finishStore (s : State) (core id : Nat) (o : CopyOp) (keep : Bool) : State :=
  if !o.started || !o.lines.isEmpty || !s.remoteOps.isEmpty then s
  else
    match o.version with
    | none => s.storeDone core id o keep
    | some pa =>
      match s.versionOp core id (bypassLane + 2) verInc pa with
      | .wait t => t
      | .got t _ => t.storeDone core id o keep
      | .lost t =>
        t.storeDone core id { o with fault := (match o.fault with
          | some f => some f
          | none => some (cLink, BitVec.ofNat 64 o.d.version)) } keep

/-! ### Events -/

/-- A fill's slot made READY with its data (R259, R260). -/
def State.fillDone (s : State) (core id : Nat) (o : CopyOp) (hdr payload : List Byte) : State :=
  ((s.fillSlot o.task o.tile hdr payload none).dropCopy core id).acted o.task

/-- COPY_COMPLETION: a fill that has all its data makes its slot READY; a store whose lines are released empties its source or
leaves it READY (R259, R272). A copy that cannot complete yet makes what progress it can. -/
def evCopyCompletion (core id : Nat) (s : State) : State :=
  match s.copyOp core id with
  | none => s
  | some o =>
    match o.kind with
    | .store keep _ => if !o.started then s.startStore core id else if o.fault.isSome then s else s.finishStore core id o keep
    | _ =>
      match s.runFill core id o with
      | .wait t => t
      | .miss t g => match t.copyOp core id with
        | some o1 => t.copyMiss core id o1 g
        | none => t
      | .fault .. => s
      | .done t hdr p => t.fillDone core id o hdr p

/-- COPY_DATA_FAULT: a fill that stops at a fault makes its slot READY with FAULT; a store's fault is held once its lines are
released (R277). -/
def evCopyDataFault (core id : Nat) (s : State) : State :=
  match s.copyOp core id with
  | none => s
  | some o =>
    match o.kind with
    | .store keep _ => if o.fault.isSome then s.finishStore core id o keep else s
    | _ =>
      match s.runFill core id o with
      | .fault t c info h =>
        ((t.fillSlot o.task o.tile (hdrBytes (h.faulted o.draw c)) [] (some (c, info))).dropCopy core id).acted o.task
      | _ => s

/-- The page at which a copy waits, if it does (R277). -/
def State.copyPage (s : State) (core id : Nat) (o : CopyOp) : Option Nat :=
  match o.kind with
  | .store _ aon =>
    if o.started then none
    else
      let t := s.task o.task
      let cs := o.d.storeCells o.hdr (hdrOf o.hdr) (t.payload (t.tileEnt o.tile).base.toNat o.count) o.draw
      let ver := if aon && !o.writesNone && o.version.isNone then s.engineXlat core o.task .rw [o.d.version] else .ok []
      match ver with
      | .miss g => some g
      | _ =>
        match s.engineXlat core o.task .w (cs.map Prod.fst) with
        | .miss g => some g
        | _ => none
  | _ =>
    match s.runFill core id o with
    | .miss _ g => some g
    | _ => none

/-- Pages that the kernel could not deliver to an address space (R250). -/
def State.addUndeliverable (s : State) (asn : Nat) (pages : List Nat) : State :=
  pages.foldl (fun t g =>
    if t.undeliverable.contains (asn, g) then t else { t with undeliverable := t.undeliverable ++ [(asn, g)] }) s

/-- COPY_PAGE_FAULT_SERVICE: the kernel has served the page at which a copy waits, by mapping it or by naming it
undeliverable; the copy goes on (R250, R277). -/
def evCopyPageFaultService (core id : Nat) (undeliverable : List Nat) (s : State) : State :=
  match s.copyOp core id with
  | none => s
  | some o =>
    let s1 := match s.copyPage core id o with
      | some g =>
        if undeliverable.contains g then s.addUndeliverable (s.task o.task).asn [g] else s.copyMiss core id o g
      | none => s
    match o.kind with
    | .store .. => s1.startStores core
    | _ => s1

/-- AON_VERSION_WAIT: a store that found its version word odd goes on once the word is even (R52). -/
def evAonVersionWait (core id : Nat) (s : State) : State :=
  match s.copyOp core id with
  | none => s
  | some o =>
    match o.kind with
    | .store _ true => if o.version.isNone && !o.started then s.startStores core else s
    | _ => s

/-- A copy's writes to a line that it owns finished, and the line released (R50). -/
def copyLineRelease (line core id : Nat) (s : State) : State :=
  match s.copyOp core id with
  | none => s.releaseLine line
  | some o =>
    let cs := (o.lines.filter fun p => p.1 == line).flatMap Prod.snd
    let t := ((s.writeCells cs).sliceAccess (128 * line)).releaseLine line
    t.setCopy core id { o with lines := o.lines.filter fun p => p.1 != line }

end Sys2Proof.Machine
end

