-- ==== Sys2Proof/Machine/Access.lean ====
section
/-! DEFINITION. The Understory at issue: handles (R291 to R293), ALD, AST, APRF and AHQ (R300 to R303), QTAKE and QCLR (R306, R308),
and the start of the streaming operations (R288, R299, R305, R307, R309 to R315). -/

namespace Sys2Proof.Machine

/-! ### Handles -/

/-- A handle register as no binding has set it. -/
def HReg.blank : HReg := { declared := false, valid := false, base := 0#64, limit := 0#64, ctl := 0#32, region := 0#15 }

/-- A handle register of a context. -/
def Unit.handle (u : Unit) (h : HandleN) : HReg := (u.handles.get h.toNat).getD .blank

/-- `%tinfo` of ACC_BOUND (R293). -/
def accInfo (reason : Nat) (h : HandleN) (o : Int) : W64 :=
  BitVec.ofNat 64 (2 ^ 60 * reason + 2 ^ 56 * h.toNat + if reason == 2 || reason == 3 then wrapNat 56 o else 0)

/-- A permission that an instruction needs of a handle (R291). -/
inductive HPerm where
  | read | write | combine
  deriving DecidableEq, Repr

/-- Whether a handle carries a permission (R291). -/
def HReg.has (r : HReg) : HPerm → Bool
  | .read => r.ctl.getLsbD 16
  | .write => r.ctl.getLsbD 17
  | .combine => r.ctl.getLsbD 18

/-- The refusal of a handle as a whole, but for its permission: REASON 0x4 for an entry of another tenant, else 0x1 (R293). -/
def HReg.refused (r : HReg) : Option Nat :=
  if r.declared && r.valid then none else if r.declared && r.ctl.getLsbD 31 then some 4 else some 1

/-- Whether n bytes at an offset lie within a handle's region (R293). -/
def HReg.inBounds (r : HReg) (o : Int) (n : Nat) : Bool := decide (0 ≤ o) && decide (o + n ≤ r.limit.toNat)

/-- The refusal of an access of n bytes at an offset (R293) (DEDUCED, assumption log 35). -/
def HReg.refuse (r : HReg) (h : HandleN) (o : Int) (n : Nat) (p : HPerm) : Option W64 :=
  match r.refused with
  | some k => some (accInfo k h o)
  | none =>
    if !r.inBounds o n then some (accInfo 2 h o) else if !r.has p then some (accInfo 3 h o) else none

/-- The refusal of a handle at the issue of a streaming instruction (R309, R321). -/
def HReg.refuseWhole (r : HReg) (h : HandleN) (o : Int) (p : HPerm) : Option W64 :=
  match r.refused with
  | some k => some (accInfo k h o)
  | none => if r.has p then none else some (accInfo 3 h o)

/-- The address of an offset (R293). -/
def HReg.va (r : HReg) (o : Int) : W64 := BitVec.ofInt 64 ((r.base.toNat : Int) + o)

/-! ### ALD, AST, APRF, AHQ -/

/-- The offset of ALD, AST and APRF, exact (R300). -/
def Unit.accOff (u : Unit) (off : Option Reg) (disp : Disp) : Int :=
  (match off with
    | some r => ((u.src64 r 0).toNat : Int)
    | none => 0) + dispInt disp

/-- ALD and AST past the handle (R301). -/
def accAccess (i : Instr) (hn : HandleN) (off : Option Reg) (disp : Disp) (n : Nat) (p : HPerm) (q : Perm)
    (perform : W64 → List (Nat × List Nat) → State → Res) (x : Issue) (s : State) : Res :=
  let u := s.unit x.uid
  let r := u.handle hn
  let o := u.accOff off disp
  if x.act == 0#64 then .done s []
  else
    match r.refuse hn o n p with
    | some info => .done s (x.trapAll cAccBound info)
    | none =>
      let va := r.va o
      globalAccess i x [(0, s.laneXlat x.uid va n q)] (fun _ => va) (perform va) s

/-- ALD (R300, R301). -/
def execAld (h : Hdr) (size : Size) (d : Reg) (hn : HandleN) (off : Option Reg) (disp : Disp) (s : State) :
    Host.Outcome State Fault Refusal :=
  runIssue h (.ald h size d hn off disp)
    (fun x t => accAccess (.ald h size d hn off disp) hn off disp (sizeBytes size) .read .r
      (fun va ls t' => ldPerform size d x ls (fun _ => va) t') x t) s

/-- AST (R300, R301). -/
def execAst (h : Hdr) (size : Size) (d : Reg) (hn : HandleN) (off : Option Reg) (disp : Disp) (s : State) :
    Host.Outcome State Fault Refusal :=
  runIssue h (.ast h size d hn off disp)
    (fun x t => accAccess (.ast h size d hn off disp) hn off disp (sizeBytes size) .write .w
      (fun _ ls t' => stPerform size d x ls t') x t) s

/-- APRF: a prefetch that a refusal drops and counts (R302). -/
def aprfBody (l2 : Bool) (hn : HandleN) (off : Option Reg) (disp : Disp) (x : Issue) (s : State) : Res :=
  let u := s.unit x.uid
  let t := s.task u.task
  let r := u.handle hn
  let o := u.accOff off disp
  if x.act == 0#64 then .done s []
  else if (r.refuse hn o 1 .read).isSome then
    .done (s.modCore u.core fun c => { c with prefDrops := c.prefDrops + 1 }) []
  else .done (s.prefetch u.core x.uid 0 t.part t.asn l2 (r.va o)) []

/-- APRF (R300, R302). -/
def execAprf (h : Hdr) (l2 : Bool) (hn : HandleN) (off : Option Reg) (disp : Disp) (s : State) :
    Host.Outcome State Fault Refusal :=
  runIssue h (.aprf h l2 hn off disp) (aprfBody l2 hn off disp) s

/-- The word of a selector of AHQ (R303). -/
def HReg.query (r : HReg) (sel : AhqSel) : W64 :=
  match sel with
  | .lim => if r.refused.isSome then 0#64 else r.limit
  | .base => if r.refused.isSome then 0#64 else r.base
  | .ctl =>
    let region := BitVec.ofNat 64 (2 ^ 32 * r.region.toNat)
    match r.refused with
    | none => zx r.ctl + region
    | some 4 => zx (r.ctl &&& 0x7FFFFFFF#32) + region
    | some _ => 0#64

/-- AHQ (R303). -/
def execAhq (h : Hdr) (sel : AhqSel) (d : Reg) (hn : HandleN) (s : State) : Host.Outcome State Fault Refusal :=
  runIssue h (.ahq h sel d hn)
    (fun x t => if x.act == 0#64 then .done t []
      else .done (t.modUnit x.uid fun u => u.writeVar (.r d) [(0, (u.handle hn).query sel)]) []) s

/-! ### Streams of a context -/

/-- The queues that a streaming instruction produces into. -/
def prodOf : Instr → List QueueN
  | .strm _ _ q _ _ _ _ => [q]
  | .gth _ _ q _ _ _ _ _ => [q]
  | .gthQ _ _ q _ _ _ _ => [q]
  | .hprb _ _ q _ _ _ _ _ => [q]
  | .isct _ _ q _ _ _ _ => [q, q + 1#3, q + 2#3]
  | .walk _ q _ _ _ _ _ => [q]
  | .qput _ _ q _ _ => [q]
  | .qend _ q => [q]
  | .qendX _ (some q) => [q]
  | _ => []

/-- The queues that a streaming instruction consumes from. -/
def consOf : Instr → List QueueN
  | .gthQ _ _ _ _ _ qs _ => [qs]
  | .sct _ _ _ _ qv qi => [qv, qi]
  | .hprb _ _ _ _ _ _ qk _ => [qk]
  | _ => []

/-- Whether a stream of a context produces into a queue. -/
def Unit.producing (u : Unit) (q : QueueN) : Bool := u.streams.vals.any fun x => (prodOf x.instr).contains q
/-- Whether a stream of a context consumes from a queue. -/
def Unit.consuming (u : Unit) (q : QueueN) : Bool := u.streams.vals.any fun x => (consOf x.instr).contains q

/-- A stream as it begins. -/
def Stream.start (i : Instr) (seq : Nat) (pc a b c : W64) : Stream :=
  { instr := i, seq := seq, pc := pc, a := a, b := b, c := c, item := 0, words := (prodOf i).map fun _ => [], out := [],
    src := [], srcTag := none, first := false, count := 0, row := none, rowNext := 0, pos := 0, pos2 := 0, lines := [],
    halt := none, served := [], finished := false }

/-- Stream slots of a context (R288). -/
def streamSlots : Nat := 4

/-- The lowest free stream slot of a context. -/
def Unit.freeSlot (u : Unit) : Option Nat := (List.range streamSlots).find? fun k => (u.streams.get k).isNone

/-- A streaming operation put into a free slot; with none free it waits in place (R288). -/
def startStream (i : Instr) (a b c : Option Reg) (d : Option Reg) (f : Stream → Stream) (x : Issue) (s : State) : Res :=
  let u := s.unit x.uid
  match u.freeSlot with
  | none => .wait s
  | some k =>
    let (id, s1) := s.fresh
    let v (r : Option Reg) : W64 := match r with
      | some y => u.src64 y 0
      | none => 0#64
    let st := f (Stream.start i id x.pc (v a) (v b) (v c))
    .done (s1.setUnit x.uid ((tagDst d).foldl (fun w y => w.pendDst y 1#64) { u with streams := u.streams.set k st })) []

/-- The first queue of a list that the task did not declare (R299). -/
def State.undeclared (s : State) (t : Nat) (qs : List QueueN) : Option QueueN := qs.find? fun q => (s.queue t q).isNone

/-- A streaming instruction that reads through a handle: its checks at issue, then its start (R309, R316). -/
def streamBody (i : Instr) (hn : HandleN) (p : HPerm) (a b c d : Option Reg) (qs : List QueueN)
    (misuse : Task → Option W64) (x : Issue) (s : State) : Res :=
  let u := s.unit x.uid
  if x.act == 0#64 then .done s []
  else
    let o : Int := match a with
      | some r => (u.src64 r 0).toNat
      | none => 0
    match (u.handle hn).refuseWhole hn o p with
    | some info => .done s (x.trapAll cAccBound info)
    | none =>
      match s.undeclared u.task qs with
      | some q => .done s (x.trapAll cQueue (queueInfo q 0x0001))
      | none =>
        match misuse (s.task u.task) with
        | some info => .done s (x.trapAll cQueue info)
        | none => startStream i a b c d id x s

/-- No misuse beside undeclared queues. -/
def noMisuse (_ : Task) : Option W64 := none

/-- STRM (R310). -/
def execStrm (h : Hdr) (size : Size) (q : QueueN) (hn : HandleN) (a b c : Reg) (s : State) :
    Host.Outcome State Fault Refusal :=
  runIssue h (.strm h size q hn a b c)
    (streamBody (.strm h size q hn a b c) hn .read (some a) (some b) (some c) none [q] noMisuse) s

/-- GTH from memory (R311). -/
def execGth (h : Hdr) (sx : Bool) (q : QueueN) (hn : HandleN) (a b c : Reg) (e : BitVec 9) (s : State) :
    Host.Outcome State Fault Refusal :=
  runIssue h (.gth h sx q hn a b c e)
    (streamBody (.gth h sx q hn a b c e) hn .read (some a) (some b) (some c) none [q] fun t =>
      if 4 * t.wq < e.toNat then some (queueInfo q 0x0005) else none) s

/-- GTH from a queue (R297, R311). -/
def execGthQ (h : Hdr) (sx : Bool) (q : QueueN) (hn : HandleN) (a : Reg) (qs : QueueN) (e : BitVec 9) (s : State) :
    Host.Outcome State Fault Refusal :=
  runIssue h (.gthQ h sx q hn a qs e)
    (streamBody (.gthQ h sx q hn a qs e) hn .read (some a) none none none [q, qs] fun t =>
      if 4 * t.wq < e.toNat then some (queueInfo q 0x0005) else if q == qs then some (queueInfo q 0x0008) else none) s

/-- SCT (R312). -/
def execSct (h : Hdr) (comb : Comb) (hn : HandleN) (a : Reg) (qv qi : QueueN) (s : State) :
    Host.Outcome State Fault Refusal :=
  runIssue h (.sct h comb hn a qv qi)
    (streamBody (.sct h comb hn a qv qi) hn (if comb == .st then .write else .combine) (some a) none none none [qv, qi]
      fun _ => if qv == qi then some (queueInfo qv 0x0008) else none) s

/-- HPRB (R313). -/
def execHprb (h : Hdr) (d : Reg) (q : QueueN) (hn : HandleN) (a b : Reg) (qk : QueueN) (bits : BitVec 6) (s : State) :
    Host.Outcome State Fault Refusal :=
  runIssue h (.hprb h d q hn a b qk bits)
    (streamBody (.hprb h d q hn a b qk bits) hn .read (some a) (some b) none (some d) [q, qk]
      fun _ => if q == qk then some (queueInfo q 0x0008) else none) s

/-- ISCT (R314). -/
def execIsct (h : Hdr) (d : Reg) (q : QueueN) (hn : HandleN) (a b c : Reg) (s : State) :
    Host.Outcome State Fault Refusal :=
  runIssue h (.isct h d q hn a b c)
    (streamBody (.isct h d q hn a b c) hn .read (some a) (some b) (some c) (some d)
      ([q, q + 1#3, q + 2#3].take (8 - q.toNat)) fun _ => if 5 < q.toNat then some (queueInfo q 0x0006) else none) s

/-- WALK (R315). -/
def execWalk (h : Hdr) (q : QueueN) (hn : HandleN) (a b : Reg) (rows : BitVec 16) (depth : BitVec 4) (s : State) :
    Host.Outcome State Fault Refusal :=
  runIssue h (.walk h q hn a b rows depth)
    (streamBody (.walk h q hn a b rows depth) hn .read (some a) (some b) none none [q] noMisuse) s

/-! ### QPUT, QEND, QEND.X -/

/-- An operation that appends the entries of a list, and nothing more. -/
def appendBody (i : Instr) (q : QueueN) (e : State → Unit → List (List (List W32) × W32)) (x : Issue) (s : State) : Res :=
  let u := s.unit x.uid
  if x.act == 0#64 then .done s []
  else
    match s.undeclared u.task [q] with
    | some k => .done s (x.trapAll cQueue (queueInfo k 0x0001))
    | none => startStream i none none none none (fun st => { st with out := e s u, finished := true }) x s

/-- The words of QPUT (R305). -/
def qputWords (w : Nat) (v : W64) : List W32 := (List.range w).map fun l => lo32 v + BitVec.ofNat 32 l * hi32 v

/-- The tag word of QPUT (R305). -/
def qputTag (fin : Bool) (v : W64) : W32 :=
  let t := lo32 v &&& 0x001DFFFF#32
  if fin then t ||| tagEnd else t

/-- The entry of QPUT (R305). -/
def qputEntry (fin : Bool) (a b : Reg) (s : State) (u : Unit) : List (List (List W32) × W32) :=
  let tag := qputTag fin (u.src64 b 0)
  let w := (s.task u.task).wq
  [([if hasFlag tag tagEmpty then List.replicate w 0#32 else qputWords w (u.src64 a 0)], tag)]

/-- QPUT (R305). -/
def execQput (h : Hdr) (fin : Bool) (q : QueueN) (a b : Reg) (s : State) : Host.Outcome State Fault Refusal :=
  runIssue h (.qput h fin q a b) (appendBody (.qput h fin q a b) q (qputEntry fin a b)) s

/-- The tag word of an entry that closes a queue (R307). -/
def tagLast : W32 := tagEmpty ||| tagEnd

/-- QEND (R307). -/
def execQend (h : Hdr) (q : QueueN) (s : State) : Host.Outcome State Fault Refusal :=
  runIssue h (.qend h q) (appendBody (.qend h q) q fun _ _ => [([[]], tagLast)]) s

/-- QEND.X: the entry, where a queue is named; then nothing more issues, and the operation ends the context (R307). -/
def qendXBody (i : Instr) (q : Option QueueN) (x : Issue) (s : State) : Res :=
  let r := match q with
    | some k => appendBody i k (fun _ _ => [([[]], tagLast)]) x s
    | none =>
      if x.act == 0#64 then .done s [] else startStream i none none none none (fun st => { st with finished := true }) x s
  match r with
  | .done t [] => .done t (x.lanes.map fun l => (l, .idle .live))
  | y => y

/-- QEND.X (R307). -/
def execQendX (h : Hdr) (q : Option QueueN) (s : State) : Host.Outcome State Fault Refusal :=
  runIssue h (.qendX h q) (qendXBody (.qendX h q) q) s

/-! ### QTAKE, QCLR -/

/-- The value of QTAKE: a word of the entry, and its tag word (R306). -/
def qtakeValue (e : QWord) (k : Nat) : W64 := join64 e.tag (e.word k)

/-- The head entry as QTAKE reads it without `.pop`; none where the queue is empty and open (R306). -/
def State.peekEntry (s : State) (t : Nat) (q : QueueN) : Option QWord :=
  match s.queue t q with
  | none => none
  | some qs => if qs.closed then some closedEntry else if qs.count == 0 then none else some ((s.task t).headEntry qs)

/-- QTAKE (R306). -/
def qtakeBody (pop : Bool) (d : Reg) (q : QueueN) (a : Reg) (x : Issue) (s : State) : Res :=
  let u := s.unit x.uid
  let k := (u.src64 a 0).toNat % 64
  if x.act == 0#64 then .done s []
  else if (s.queue u.task q).isNone then .done s (x.trapAll cQueue (queueInfo q 0x0001))
  else if (s.task u.task).wq ≤ k then .done s (x.trapAll cQueue (queueInfo q 0x0004))
  else if u.consuming q then .wait s
  else
    match s.peekEntry u.task q, s.takeEntry u.task q with
    | some e, some (_, t) =>
      if hasFlag e.tag tagPoison then .done t (x.trapAll cPoison (poisonInfo q e))
      else .done ((if pop then t else s).modUnit x.uid fun v => v.writeVar (.r d) [(0, qtakeValue e k)]) []
    | _, _ => .wait s

/-- QTAKE (R306). -/
def execQtake (h : Hdr) (pop : Bool) (d : Reg) (q : QueueN) (a : Reg) (s : State) : Host.Outcome State Fault Refusal :=
  runIssue h (.qtake h pop d q a) (qtakeBody pop d q a) s

/-- QCLR (R308). -/
def qclrBody (q : QueueN) (x : Issue) (s : State) : Res :=
  let u := s.unit x.uid
  if x.act == 0#64 then .done s []
  else
    match s.queue u.task q with
    | none => .done s (x.trapAll cQueue (queueInfo q 0x0001))
    | some qs =>
      if u.producing q || u.consuming q then .wait s
      else .done (s.setQueue u.task q { qs with head := 0, count := 0, closed := false }) []

/-- QCLR (R308). -/
def execQclr (h : Hdr) (q : QueueN) (s : State) : Host.Outcome State Fault Refusal :=
  runIssue h (.qclr h q) (qclrBody q) s

end Sys2Proof.Machine
end

