-- ==== Sys2Proof/Machine/Convert.lean ====
section
/-! DEFINITION. Conversions between element formats (R88, R89, R97, R98) and the packing and unpacking of small elements
(R203, R204). -/

namespace Sys2Proof.Machine

/-- The format of a floating-point type. -/
def fmtOf : CvtTy → Option Fmt
  | .f32 => some fp32
  | .f16 => some fp16
  | .bf16 => some bf16
  | .e4m3 => some e4m3
  | _ => none

/-- Width of an element (R86, R88). -/
def widthOf : CvtTy → Nat
  | .f32 => 32
  | .f16 => 16
  | .bf16 => 16
  | .e4m3 => 8
  | .s32 => 32
  | .s8 => 8
  | .s4 => 4
  | .z32 => 32
  | .z8 => 8

/-- Whether an integer type is unsigned. -/
def isZ : CvtTy → Bool
  | .z32 => true
  | .z8 => true
  | _ => false

/-- The range of an integer destination (R88, R97). -/
def rangeOf (t : CvtTy) : Int × Int :=
  match t with
  | .s4 => (-7, 7)
  | .z32 => (0, 2 ^ 32 - 1)
  | .z8 => (0, 255)
  | .s8 => (-128, 127)
  | _ => (-(2 ^ 31), 2 ^ 31 - 1)

/-- The value of an INT4 code; the reserved code stands for 0 (R88, R89). -/
def int4 (c : Nat) : Int := if c % 16 == 8 then 0 else sgnOf 4 (c % 16)

/-- The value of an integer element held in the low bits of a word. -/
def intOf (t : CvtTy) (v : Nat) : Int :=
  match t with
  | .s4 => int4 v
  | _ => if isZ t then (v % 2 ^ widthOf t : Nat) else sgnOf (widthOf t) (v % 2 ^ widthOf t)

/-- An element as a number. -/
def numOf (t : CvtTy) (v : Nat) : Num :=
  match fmtOf t with
  | some f => f.decode (v % 2 ^ widthOf t)
  | none => Num.ofInt (intOf t v)

/-- An integer limited to a range. -/
def clampInt (lo hi v : Int) : Int := max lo (min hi v)

/-- An integer result placed in 32 bits: sign copies above a narrow one, zeros under `.z` (R98). -/
def placeInt (t : CvtTy) (v : Int) : W32 :=
  if isZ t then BitVec.ofNat 32 (wrapNat (widthOf t) v)
  else BitVec.ofInt 32 (sgnOf (widthOf t) (wrapNat (widthOf t) v))

/-- A number rounded to E4M3: above 448, and for an infinity, ±448 or 0x7F under `.ovfnan` (R97). -/
def roundE4 (rm : Rm) (ovfnan : Bool) : Num → Nat
  | .nan => 0x7F
  | .inf n => if ovfnan then 0x7F else e4m3.signed n 0x7E
  | .fin n m e =>
    let mag := e4m3.roundMag rm n m e
    if mag ≤ 0x7E then e4m3.signed n mag else if ovfnan then 0x7F else e4m3.signed n 0x7E

/-- A result that `.sat` limits: an infinity becomes the largest finite of its sign (R97). -/
def satInf (f : Fmt) (v : Nat) : Nat := if v % f.signBit == f.top + 1 then v - 1 else v

/-- Whether a pair of types is a row of R97 in which `.sat` acts on a floating-point destination. -/
def satRow (st dt : CvtTy) : Bool :=
  match dt with
  | .f32 => (fmtOf st).isNone
  | .f16 => st != .f16 && st != .e4m3
  | .bf16 => st != .bf16 && st != .e4m3
  | _ => false

/-- A conversion of an element to a floating-point format, as its encoding (R97). -/
def toFloat (st dt : CvtTy) (f : Fmt) (rm : Rm) (sat ovfnan : Bool) (v : Nat) : Nat :=
  let x := numOf st v
  if dt == .e4m3 then (if st == .e4m3 then (match x with
      | .nan => 0x7F
      | _ => v % 256)
    else roundE4 rm ovfnan x)
  else
    let r := f.round rm x
    if sat && satRow st dt then satInf f r else r

/-- A conversion of an integer element to an integer type (R97, R202) (DEDUCED, assumption log 15). -/
def intToInt (st dt : CvtTy) (sat : Bool) (x : Int) : Int :=
  if dt == .s4 then clampInt (-7) 7 x
  else if sat && (dt == .s8 || dt == .z8) && (st == .s32 || st == .z32) then clampInt (rangeOf dt).1 (rangeOf dt).2 x
  else x

/-- CVT: the low bits of a word converted from one type to another and placed in 32 bits (R97, R98, R202). -/
def convert (dt st : CvtTy) (rm : Rm) (sat ovfnan : Bool) (v : Nat) : W32 :=
  match fmtOf dt with
  | some f => BitVec.ofNat 32 (toFloat st dt f rm sat ovfnan v)
  | none =>
    match fmtOf st with
    | some _ => placeInt dt ((numOf st v).toInt rm (rangeOf dt).1 (rangeOf dt).2)
    | none => placeInt dt (intToInt st dt sat (intOf st v))

/-- One converted half or byte of PACK (R203). -/
def packOne (ty : PackTy) (rm : Rm) (sat ovfnan : Bool) (v : W32) : Nat :=
  match ty with
  | .f16 => toFloat .f32 .f16 fp16 rm sat false v.toNat
  | .bf16 => toFloat .f32 .bf16 bf16 rm sat false v.toNat
  | .e4m3 => roundE4 rm ovfnan (num32 v)
  | .s8 => wrapNat 8 (clampInt (-128) 127 v.toInt)

/-- PACK (R203). -/
def packResult (ty : PackTy) (rm : Rm) (sat ovfnan hi : Bool) (a b c : W32) : W32 :=
  let x := packOne ty rm sat ovfnan a
  let y := packOne ty rm sat ovfnan b
  match ty with
  | .f16 => BitVec.ofNat 32 (x + 2 ^ 16 * y)
  | .bf16 => BitVec.ofNat 32 (x + 2 ^ 16 * y)
  | _ =>
    if hi then BitVec.ofNat 32 (c.toNat % 2 ^ 16 + 2 ^ 16 * x + 2 ^ 24 * y)
    else BitVec.ofNat 32 (x + 2 ^ 8 * y + 2 ^ 16 * (c.toNat / 2 ^ 16))

/-- UNPK: element k of a packed word as an FP32 pattern or an integer of 32 bits (R204). -/
def unpkResult (ty : UnpkTy) (a : W32) (k : Nat) : W32 :=
  match ty with
  | .f16 => round32 .rn (numOf .f16 (a.toNat / 2 ^ (16 * k)))
  | .bf16 => round32 .rn (numOf .bf16 (a.toNat / 2 ^ (16 * k)))
  | .e4m3 => round32 .rn (numOf .e4m3 (a.toNat / 2 ^ (8 * k)))
  | .s8 => placeInt .s8 (intOf .s8 (a.toNat / 2 ^ (8 * k)))
  | .z8 => placeInt .z8 (intOf .z8 (a.toNat / 2 ^ (8 * k)))
  | .s4 => placeInt .s4 (intOf .s4 (a.toNat / 2 ^ (4 * k)))

/-- The two formats of a packed instruction's halves: the low 16 bits and the high 16 bits of source b as BSRC gives them
(R201). -/
def bsrcPair (bs : BSrc) (b : W32) : Nat × Nat :=
  let lo := b.toNat % 2 ^ 16
  let hi := b.toNat / 2 ^ 16
  match bs with
  | .none => (lo, hi)
  | .bswap => (hi, lo)
  | .blo => (lo, lo)
  | .bhi => (hi, hi)
  | .bneg => (lo ^^^ 0x8000, hi ^^^ 0x8000)

/-- A packed operation: one operation on each half (R96, R201). -/
def packedOp (f : Fmt) (rm : Rm) (bs : BSrc) (op : Num → Num → Num → Num) (a b c : W32) : W32 :=
  let p := bsrcPair bs b
  let half (x y z : Nat) := f.round rm (op (f.decode x) (f.decode y) (f.decode z))
  let lo := half (a.toNat % 2 ^ 16) p.1 (c.toNat % 2 ^ 16)
  let hi := half (a.toNat / 2 ^ 16) p.2 (c.toNat / 2 ^ 16)
  BitVec.ofNat 32 (lo + 2 ^ 16 * hi)

end Sys2Proof.Machine
end

