-- ==== Sys2Proof/Machine/CopyIns.lean ====
section
/-! DEFINITION. The copy, ring and tile instructions at issue: CPL, CPS, CPF, CPX, CPW, RINI, AWF, RLS, RSTA, TSTA and TBIND (R270 to
R275, R278 to R285). -/

namespace Sys2Proof.Machine

/-! ### Rings and destinations -/

/-- `%tinfo` of RING_MISUSE (R278). -/
def ringInfo (why : Nat) (r : Ring) : W64 := BitVec.ofNat 64 (r.toNat + 256 * why)

/-- A ring that an instruction names (R278). -/
def Task.ringOf (t : Task) (r : Ring) : Except (Cause × W64) RingSt :=
  match t.rings.get r.toNat with
  | none => .error (cRing, ringInfo 0x01 r)
  | some g => if g.init then .ok g else .error (cRing, ringInfo 0x04 r)

/-- A tile that an instruction names: its name and its entry (R225, R258). -/
def Task.tileOf (t : Task) (n : Tile) : Except (Cause × W64) (Nat × Nat) :=
  match t.tileKey n.toNat with
  | none => .error (cTile, tileInfo 0x01 n.toNat)
  | some k => .ok (n.toNat, k)

/-- The destination of a fill: a tile, or the ring's slot at WPTR, by the number that faults name and its entry (R271). -/
def Task.destOf (t : Task) : TileRef → Except (Cause × W64) (Nat × Nat)
  | .tile n => t.tileOf n
  | .ring r =>
    match t.ringOf r with
    | .error e => .error e
    | .ok g => .ok (g.first + g.wptr, g.first + g.wptr)

/-- The source of a store: a tile, or the ring's read slot (R272). -/
def Task.sourceOf (t : Task) : TileRef → Except (Cause × W64) (Nat × Nat)
  | .tile n => t.tileOf n
  | .ring r =>
    match t.ringOf r with
    | .error e => .error e
    | .ok g => .ok (g.first + g.rptr, g.first + g.rptr)

/-- The write pointer moved on (R271). -/
def RingSt.advanceW (g : RingSt) : RingSt :=
  let p := (g.wptr + 1) % g.count
  { g with wptr := p, wph := if p == 0 then !g.wph else g.wph }

/-- The read pointer moved on (R281). -/
def RingSt.advanceR (g : RingSt) : RingSt :=
  let p := (g.rptr + 1) % g.count
  { g with rptr := p, rph := if p == 0 then !g.rph else g.rph }

/-- A ring of a task changed. -/
def State.modRing (s : State) (t : Nat) (r : Ring) (f : RingSt → RingSt) : State :=
  s.modTask t fun x => { x with rings := x.rings.adjust f r.toNat }

/-- A fill begun: the slot FILLING in its phase, and the ring's write pointer moved on (R271). -/
def State.beginFill (s : State) (t : Nat) (dest : TileRef) (k : Nat) : State :=
  match dest with
  | .tile _ => s.modTile t k fun e => { e with st := .filling, phase := false, fault := none }
  | .ring r =>
    let ph := match (s.task t).rings.get r.toNat with
      | some g => g.wph
      | none => false
    (s.modTile t k fun e => { e with st := .filling, phase := ph, fault := none }).modRing t r RingSt.advanceW

/-- A fill that finds its destination not EMPTY waits in place (R271); an instruction that names a slot which a data fault has
filled raises its cause (R277) (DEDUCED, assumption log 27). -/
def destWait (dest : TileRef) (e : TileEnt) (x : Issue) (s : State) : Res :=
  match dest, e.st, e.fault with
  | .tile _, .ready, some (c, info) => .done s (x.trapAll c info)
  | _, _, _ => .wait s

/-! ### Descriptors at issue -/

/-- The outcome of reading a descriptor (R271): it stops the instruction, or gives the descriptor. -/
inductive DescRead where
  | stop (r : Res)
  | got (s : State) (bytes : List Byte)

/-- The descriptor read from global memory by the strand of the lowest lane of Active, or from scratchpad under `.dsp` (R270,
R271, R276). -/
def readDesc (i : Instr) (dsp : Bool) (a : W64) (x : Issue) (s : State) : DescRead :=
  let u := s.unit x.uid
  let t := s.task u.task
  if dsp then
    let off := a.toNat % 2 ^ 20
    if off % 128 != 0 then .stop (.done s (x.trapAll cMisalign (BitVec.ofNat 64 off)))
    else if t.spadSize < off + 128 then .stop (.done s (x.trapAll cSpad (BitVec.ofNat 64 off)))
    else .got s (t.spad.readN off 128)
  else if a.toNat % 128 != 0 then .stop (.done s (x.trapAll cMisalign a))
  else
    match s.laneXlat x.uid a 128 .r with
    | .fault c info => .stop (.done s (x.trapAll c info))
    | .miss pages => .stop (.wait (s.pageFault x i pages))
    | .ok pas =>
      match (s.fillTlb u.core t.asn a.toNat).readLanes u.core x.uid [(lowest x.act, pas)] with
      | .wait q => .stop (.wait q)
      | .done q vals _ fill =>
        match vals with
        | [] => .stop (.done q (x.trapAll cLink a))
        | v :: _ => .got (q.request u.core x.uid [] fill).2 v.2

/-- The coordinates of a box (R268). -/
def Unit.coords (u : Unit) (b : Reg) : List Int :=
  let w (k : Nat) : W64 := u.src64 (Reg.ofCode (b.code + BitVec.ofNat 8 k)) 0
  [(lo32 (w 0)).toInt, (hi32 (w 0)).toInt, (lo32 (w 1)).toInt, (hi32 (w 1)).toInt, (lo32 (w 2)).toInt]

/-- A copy put in flight. -/
def State.putCopy (s : State) (x : Issue) (f : CopyOp → CopyOp) : Nat × State :=
  let u := s.unit x.uid
  let (draw, s1) := s.draw
  let (id, s2) := s1.fresh
  let o : CopyOp :=
    { unit := x.uid, lane := lowest x.act, task := u.task, pc := x.pc, kind := .fill 0#32, desc := [], coords := [],
      ext := none, a := 0#64, b := 0#64, tile := 0, hdr := [], count := 0, version := none, started := false, wrote := false,
      fault := none, lines := [], served := [], draw := draw }
  (id, s2.setCopy u.core id (f o))

/-- A fill put on its way: reads of other packages are sent, and a page that it meets is told to the coalescer (R277). -/
def State.kickFill (s : State) (core id : Nat) : State :=
  match s.copyOp core id with
  | none => s
  | some o =>
    match s.runFill core id o with
    | .wait t => t
    | .miss _ g => s.copyMiss core id o g
    | _ => s

/-! ### CPL -/

/-- A slot filled by a box of zero extent, at once (R269). -/
def State.zeroFill (s : State) (t : Nat) (dest : TileRef) (k kindw rows cols : Nat) (scales : List Byte) : State :=
  let h := ({ TileHdr.plain kindw rows cols with status := 4, scales := scales }).sized
  (s.beginFill t dest k).fillSlot t k (hdrBytes h) [] none

/-- CPL past the reading of its descriptor (R271). -/
def cplGo (aon : Bool) (dest : TileRef) (n k : Nat) (bs : List Byte) (coords : List Int) (ext : Option Nat) (x : Issue)
    (s : State) : Res :=
  let u := s.unit x.uid
  let e := (s.task u.task).tileEnt k
  let d := descOf bs coords ext
  match descBad bs d true aon with
  | some (reason, off) => .done s (x.trapAll cMeta (metaInfo reason off 0xFF))
  | none =>
    if !d.image && decide (256 * e.cap < d.loadHdr.count) then .done s (x.trapAll cTile (tileInfo 0x03 n))
    else if e.st != .empty then destWait dest e x s
    else if d.zeroBox then .done (s.zeroFill u.task dest k d.kindw d.shape.1 d.shape.2 []) []
    else
      let (id, s1) := (s.beginFill u.task dest k).putCopy x fun o =>
        { o with kind := .load aon, desc := bs, coords := coords, ext := ext, tile := k }
      .done (s1.kickFill u.core id) []

/-- CPL (R271). -/
def cplBody (i : Instr) (aon dsp : Bool) (ext : Option Reg) (dest : TileRef) (a b : Reg) (x : Issue) (s : State) : Res :=
  if x.act == 0#64 then .done s []
  else
    let u := s.unit x.uid
    match (s.task u.task).destOf dest with
    | .error (c, info) => .done s (x.trapAll c info)
    | .ok (n, k) =>
      match readDesc i dsp (u.src64 a 0) x s with
      | .stop r => r
      | .got s1 bs => cplGo aon dest n k bs (u.coords b) (ext.map fun r => (u.src32 r 0).toNat) x s1

/-- CPL (R270, R271). -/
def execCpl (h : Hdr) (aon dsp : Bool) (ext : Option Reg) (dest : TileRef) (a b : Reg) (s : State) :
    Host.Outcome State Fault Refusal :=
  runIssue h (.cpl h aon dsp ext dest a b) (cplBody (.cpl h aon dsp ext dest a b) aon dsp ext dest a b) s

/-! ### CPS -/

/-- The mismatch of a source with a storage format, if any: the offset of REASON 0x18 (R267, R272). -/
def sourceMismatch (d : Desc) (h : TileHdr) : Option Nat :=
  if d.image then none
  else if h.kind != stoKind d.sto then some 0x00
  else if d.twoFour && h.sparse != 0 && !(h.sparse == 1 && h.n == 2 && h.m == 4) then some 0x00
  else if d.sto == 0x07 && h.sparse != 0 && (zeroCode h.codebook).isNone then some 0x20
  else none

/-- CPS past the settling of its source's state (R272). -/
def cpsGo (keep aon : Bool) (src : TileRef) (n k : Nat) (bs : List Byte) (coords : List Int) (x : Issue) (s : State) : Res :=
  let u := s.unit x.uid
  let t := s.task u.task
  let e := t.tileEnt k
  let d := descOf bs coords none
  match t.tileFault e n with
  | some (c, info) => .done s (x.trapAll c info)
  | none =>
    let hb := t.spad.readN e.base.toNat 256
    let h := hdrOf hb
    match sourceMismatch d h with
    | some off => .done s (x.trapAll cMeta (metaInfo 0x18 off n))
    | none =>
      match (if d.image then some d else d.storeBox h) with
      | none => .done s (x.trapAll cMeta (metaInfo 0x11 0x34 0xFF))
      | some d1 =>
        let s1 := s.modTile u.task k fun y => { y with st := .draining }
        let s2 := match src with
          | .ring r => s1.modRing u.task r RingSt.advanceR
          | .tile _ => s1
        let (_, s3) := s2.putCopy x fun o =>
          { o with
            kind := .store keep aon, desc := bs, coords := coords,
            ext := if d.image then none else some (d1.box.getD 0 0 + 2 ^ 16 * d1.box.getD 1 0), tile := k, hdr := hb,
            count := h.count }
        .done (s3.startStores u.core) []

/-- Whether a ring's read slot is READY in its phase (R280). -/
def Task.slotReady (t : Task) (g : RingSt) : Bool :=
  let e := t.tileEnt (g.first + g.rptr)
  e.st == .ready && e.phase == g.rph

/-- CPS past the reading of its descriptor: the source's state first (R272). -/
def cpsSource (keep aon dsp : Bool) (src : TileRef) (a b : Reg) (n k : Nat) (bs : List Byte) (coords : List Int) (x : Issue)
    (s : State) : Res :=
  let t := s.task (s.unit x.uid).task
  match descBad bs (descOf bs coords none) false aon with
  | some (reason, off) => .done s (x.trapAll cMeta (metaInfo reason off 0xFF))
  | none =>
    match src with
    | .ring r =>
      match t.rings.get r.toNat with
      | some g =>
        if t.slotReady g then cpsGo keep aon src n k bs coords x s
        else .done s (x.lanes.map fun l => (l, .block (.cps keep aon dsp r a b)))
      | none => .done s []
    | .tile _ =>
      match (t.tileEnt k).st with
      | .filling => .wait s
      | .draining => .wait s
      | .empty => .done s (x.trapAll cTile (tileInfo 0x02 n))
      | .ready => cpsGo keep aon src n k bs coords x s

/-- CPS (R272) (DEDUCED, assumption log 25). -/
def cpsBody (i : Instr) (keep aon dsp : Bool) (src : TileRef) (a b : Reg) (x : Issue) (s : State) : Res :=
  if x.act == 0#64 then .done s []
  else
    let u := s.unit x.uid
    match (s.task u.task).sourceOf src with
    | .error (c, info) => .done s (x.trapAll c info)
    | .ok (n, k) =>
      match readDesc i dsp (u.src64 a 0) x s with
      | .stop r => r
      | .got s1 bs => cpsSource keep aon dsp src a b n k bs (u.coords b) x s1

/-- CPS (R270, R272). -/
def execCps (h : Hdr) (keep aon dsp : Bool) (src : TileRef) (a b : Reg) (s : State) : Host.Outcome State Fault Refusal :=
  runIssue h (.cps h keep aon dsp src a b) (cpsBody (.cps h keep aon dsp src a b) keep aon dsp src a b) s

/-! ### CPF, CPX, CPW -/

/-- The REASON of a kind word and a shape that CPF does not take (R273). -/
def fillBad (kindw : W32) (rows cols : Nat) : Option Nat :=
  let k := kindw.toNat
  let kind := k % 256
  if k / 2 ^ 24 != 1 || nbits k 21 3 != 0 then some 0x08
  else if kindBits kind == 0 then some 0x01
  else if nbits k 8 4 != 0 then some 0x02
  else if nbits k 12 9 != 0 then some 0x03
  else if decide (64 < rows) || decide (kindCols kind < cols) then some 0x07
  else none

/-- CPF (R273) (DEDUCED, assumption log 17). -/
def cpfBody (dest : TileRef) (a b : Reg) (kindw : W32) (x : Issue) (s : State) : Res :=
  if x.act == 0#64 then .done s []
  else
    let u := s.unit x.uid
    match (s.task u.task).destOf dest with
    | .error (c, info) => .done s (x.trapAll c info)
    | .ok (n, k) =>
      let e := (s.task u.task).tileEnt k
      let sh := (u.src64 b 0).toNat
      let rows := sh % 2 ^ 16
      let cols := nbits sh 16 16
      match fillBad kindw rows cols with
      | some reason => .done s (x.trapAll cMeta (metaInfo reason 0 0xFF))
      | none =>
        if 256 * e.cap < elemBytes (kindBits (kindw.toNat % 256)) (rows * cols) then
          .done s (x.trapAll cTile (tileInfo 0x03 n))
        else if e.st != .empty then destWait dest e x s
        else if rows == 0 || cols == 0 then
          .done (s.zeroFill u.task dest k kindw.toNat rows cols (List.replicate 128 127#8)) []
        else
          .done ((s.beginFill u.task dest k).putCopy x fun o =>
            { o with kind := .fill kindw, a := u.src64 a 0, b := u.src64 b 0, tile := k }).2 []

/-- CPF (R270, R273). -/
def execCpf (h : Hdr) (dest : TileRef) (a b : Reg) (kindw : W32) (s : State) : Host.Outcome State Fault Refusal :=
  runIssue h (.cpf h dest a b kindw) (cpfBody dest a b kindw) s

/-- CPX past its names: the source's state and header, then the destination (R274, R285). -/
def cpxGo (tr : Bool) (dest : TileRef) (n k m j : Nat) (x : Issue) (s : State) : Res :=
  let u := s.unit x.uid
  let t := s.task u.task
  let e := t.tileEnt k
  let f := t.tileEnt j
  if f.st == .filling then .wait s
  else if f.st == .empty then .done s (x.trapAll cTile (tileInfo 0x02 m))
  else
    match t.tileFault f m with
    | some (c, info) => .done s (x.trapAll c info)
    | none =>
      let hb := t.spad.readN f.base.toNat 256
      let h := hdrOf hb
      if tr && h.sparse != 0 then .done s (x.trapAll cMeta (metaInfo 0x14 0x01 m))
      else if 256 * e.cap < h.count then .done s (x.trapAll cTile (tileInfo 0x03 n))
      else if e.st != .empty then destWait dest e x s
      else
        .done ((s.beginFill u.task dest k).putCopy x fun o =>
          { o with kind := .move tr j, tile := k, hdr := hb, count := h.count }).2 []

/-- CPX (R274) (DEDUCED, assumption log 18). -/
def cpxBody (tr : Bool) (dest : TileRef) (src : Tile) (x : Issue) (s : State) : Res :=
  if x.act == 0#64 then .done s []
  else
    let t := s.task (s.unit x.uid).task
    match t.destOf dest, t.tileOf src with
    | .error (c, info), _ => .done s (x.trapAll c info)
    | .ok _, .error (c, info) => .done s (x.trapAll c info)
    | .ok (n, k), .ok (m, j) => cpxGo tr dest n k m j x s

/-- CPX (R270, R274). -/
def execCpx (h : Hdr) (tr : Bool) (dest : TileRef) (src : Tile) (s : State) : Host.Outcome State Fault Refusal :=
  runIssue h (.cpx h tr dest src) (cpxBody tr dest src) s

/-- The L1 invalidation of a CPW that waited for a copy which wrote global memory (R47, R275). -/
def cpwEdge (x : Issue) (s : State) : Res :=
  let u := s.unit x.uid
  if u.copyWrote then .done ((s.incomingEdge u.core).modUnit x.uid fun v => { v with copyWrote := false }) [] else .done s []

/-- CPW: the wait for the unit's copies, then a held fault, then the invalidation (R275, R277). -/
def cpwBody (x : Issue) (s : State) : Res :=
  if x.act == 0#64 then .done s []
  else if (s.core (s.unit x.uid).core).ctx.copies.vals.any fun o => o.unit == x.uid then .wait s
  else raiseHeld cpwEdge x s

/-- CPW (R275). -/
def execCpw (h : Hdr) (s : State) : Host.Outcome State Fault Refusal := runIssue h (.cpw h) cpwBody s

/-! ### Rings -/

/-- A slot as RINI leaves it (R279). -/
def TileEnt.slotOf (e : TileEnt) (r : Ring) : TileEnt := { e with st := .empty, phase := false, ring := some r, fault := none }

/-- The slots of a ring of a first tile and a count. -/
def slotsOf (first count : Nat) : List Nat := (List.range count).map fun k => first + k

/-- RINI past its checks (R279). -/
def riniGo (t : Nat) (r : Ring) (g : RingSt) (first count : Nat) (s : State) : State :=
  let new := slotsOf first count
  let gone := (slotsOf g.first g.count).filter fun k => !new.contains k
  let s1 := gone.foldl (fun st k => st.modTile t k fun e => if e.ring == some r then { e with ring := none } else e) s
  let s2 := new.foldl (fun st k => st.modTile t k fun e => e.slotOf r) s1
  s2.modRing t r fun _ =>
    { init := true, first := first, count := count, rptr := 0, rph := false, wptr := 0, wph := false, rev := false }

/-- Whether an entry is FILLING or DRAINING. -/
def TileEnt.busy (e : TileEnt) : Bool := e.st == .filling || e.st == .draining

/-- RINI (R278, R279) (DEDUCED, assumption log 28). -/
def riniBody (r : Ring) (tn : Tile) (count : BitVec 5) (x : Issue) (s : State) : Res :=
  if x.act == 0#64 then .done s []
  else
    let u := s.unit x.uid
    let t := s.task u.task
    match t.rings.get r.toNat with
    | none => .done s (x.trapAll cRing (ringInfo 0x01 r))
    | some g =>
      let n := if count == 0#5 then g.count else count.toNat
      let first := if count == 0#5 then g.first else tn.toNat
      if decide (n < 2) || decide (16 < n) || decide (t.tiles.length < first + n) then
        .done s (x.trapAll cRing (ringInfo 0x03 r))
      else if (slotsOf g.first g.count ++ slotsOf first n).any fun k => (t.tileEnt k).busy then .wait s
      else .done (riniGo u.task r g first n s) []

/-- RINI (R279). -/
def execRini (h : Hdr) (r : Ring) (t : Tile) (count : BitVec 5) (s : State) : Host.Outcome State Fault Refusal :=
  runIssue h (.rini h r t count) (riniBody r t count) s

/-- The word that AWF writes (R280). -/
def awfWord (h : TileHdr) (slot : Nat) : W64 :=
  BitVec.ofNat 64 (h.count % 2 ^ 16 + 2 ^ 16 * slot + 2 ^ 24 * nbits h.status 0 1 + 2 ^ 25 * nbits h.status 2 1
    + 2 ^ 26 * nbits h.status 1 1)

/-- The attempt of an AWF: what happens to its lanes, or none where it waits (R277, R280). -/
def awfTry (uid : Nat) (d : Option Reg) (r : Ring) (m : LMask) (s : State) : Option (State × List (Nat × LaneOut)) :=
  let t := s.task (s.unit uid).task
  match t.rings.get r.toNat with
  | none => none
  | some g =>
    if !t.slotReady g then none
    else
      let k := g.first + g.rptr
      let e := t.tileEnt k
      let s1 := s.modUnit uid fun u => (tagDst d).foldl Unit.unpend u
      match e.fault with
      | some (c, info) => some (s1, (lanesOf m).map fun l => (l, .trap c info))
      | none =>
        let v := awfWord (t.hdrAt e.base.toNat) k
        some (s1.modUnit uid fun u => (tagDst d).foldl (fun w y => w.writeVar y [(0, v)]) u, (lanesOf m).map fun l => (l, .next))

/-- AWF (R280). -/
def awfBody (d : Option Reg) (r : Ring) (x : Issue) (s : State) : Res :=
  if x.act == 0#64 then .done s []
  else
    match (s.task (s.unit x.uid).task).ringOf r with
    | .error (c, info) => .done s (x.trapAll c info)
    | .ok _ =>
      match awfTry x.uid d r x.act s with
      | some (t, outs) => .done t outs
      | none =>
        .done (s.modUnit x.uid fun u => (tagDst d).foldl (fun v y => v.pendDst y x.act) u)
          (x.lanes.map fun l => (l, .block (.awf d r)))

/-- AWF (R280). -/
def execAwf (h : Hdr) (d : Option Reg) (r : Ring) (s : State) : Host.Outcome State Fault Refusal :=
  runIssue h (.awf h d r) (awfBody d r) s

/-- RLS of a ring (R281). -/
def rlsRingBody (r : Ring) (x : Issue) (s : State) : Res :=
  if x.act == 0#64 then .done s []
  else
    let u := s.unit x.uid
    let t := s.task u.task
    match t.ringOf r with
    | .error (c, info) => .done s (x.trapAll c info)
    | .ok g =>
      if !t.slotReady g then .done s (x.trapAll cRing (ringInfo 0x02 r))
      else
        .done ((s.modTile u.task (g.first + g.rptr) fun e => { e with st := .empty, fault := none }).modRing u.task r
          RingSt.advanceR) []

/-- RLS of a ring (R281). -/
def execRlsRing (h : Hdr) (r : Ring) (s : State) : Host.Outcome State Fault Refusal :=
  runIssue h (.rlsRing h r) (rlsRingBody r) s

/-- RLS of a tile (R281). -/
def rlsTileBody (tn : Tile) (x : Issue) (s : State) : Res :=
  if x.act == 0#64 then .done s []
  else
    let u := s.unit x.uid
    match (s.task u.task).tileOf tn with
    | .error (c, info) => .done s (x.trapAll c info)
    | .ok (n, k) =>
      let e := (s.task u.task).tileEnt k
      if e.busy then .wait s
      else if e.st == .empty then .done s (x.trapAll cTile (tileInfo 0x02 n))
      else .done (s.modTile u.task k fun y => { y with st := .empty, fault := none }) []

/-- RLS of a tile (R281). -/
def execRlsTile (h : Hdr) (t : Tile) (s : State) : Host.Outcome State Fault Refusal :=
  runIssue h (.rlsTile h t) (rlsTileBody t) s

/-- The state word of a ring (R282). -/
def ringWord (t : Task) (g : RingSt) : W64 :=
  let rdy := (List.range g.count).foldl (fun n i => if (t.tileEnt (g.first + i)).st == .ready then n + 2 ^ i else n) 0
  let bit (b : Bool) (i : Nat) : Nat := if b then 2 ^ i else 0
  BitVec.ofNat 64 (2 ^ 48 * rdy + bit g.rev 32 + 2 ^ 24 * g.first + 2 ^ 16 * g.count + bit g.wph 12 + 2 ^ 8 * g.wptr
    + bit g.rph 4 + g.rptr)

/-- RSTA (R282). -/
def rstaBody (d : Reg) (r : Ring) (x : Issue) (s : State) : Res :=
  if x.act == 0#64 then .done s []
  else
    let t := s.task (s.unit x.uid).task
    match t.ringOf r with
    | .error (c, info) => .done s (x.trapAll c info)
    | .ok g => .done (s.modUnit x.uid fun u => u.writeVar (.r d) [(0, ringWord t g)]) []

/-- RSTA (R282). -/
def execRsta (h : Hdr) (d : Reg) (r : Ring) (s : State) : Host.Outcome State Fault Refusal :=
  runIssue h (.rsta h d r) (rstaBody d r) s

/-! ### TSTA, TBIND -/

/-- The word of a selector of TSTA (R258, R283). -/
def tstaWord (t : Task) (sel : Nat) (k : Nat) : W64 :=
  let e := t.tileEnt k
  if sel == 0 then e.word k else BitVec.ofNat 64 (field (t.spad.readN (e.base.toNat + 4 * (sel - 1)) 4) 0 4)

/-- TSTA (R283). -/
def tstaBody (sel : BitVec 3) (d : Reg) (tn : Tile) (x : Issue) (s : State) : Res :=
  if x.act == 0#64 then .done s []
  else
    let t := s.task (s.unit x.uid).task
    match t.tileOf tn with
    | .error (c, info) => .done s (x.trapAll c info)
    | .ok (_, k) => .done (s.modUnit x.uid fun u => u.writeVar (.r d) [(0, tstaWord t sel.toNat k)]) []

/-- TSTA (R283). -/
def execTsta (h : Hdr) (sel : BitVec 3) (d : Reg) (t : Tile) (s : State) : Host.Outcome State Fault Refusal :=
  runIssue h (.tsta h sel d t) (tstaBody sel d t) s

/-- TBIND.sp (R284). -/
def tbindSpBody (tn : Tile) (a : Reg) (cap : W32) (x : Issue) (s : State) : Res :=
  if x.act == 0#64 then .done s []
  else
    let u := s.unit x.uid
    let t := s.task u.task
    match t.tileOf tn with
    | .error (c, info) => .done s (x.trapAll c info)
    | .ok (_, k) =>
      let base := (u.src64 a 0).toNat % 2 ^ 20
      let n := cap.toNat
      if (t.tileEnt k).busy then .wait s
      else if base % 256 != 0 || n % 256 != 0 || decide (16384 < n) || decide (t.spadSize < base + 256 + n) then
        .done s (x.trapAll cSpad (BitVec.ofNat 64 base))
      else
        .done (s.modTile u.task k fun e =>
          { e with base := BitVec.ofNat 20 base, cap := n / 256, st := .empty, fault := none }) []

/-- TBIND.sp (R284). -/
def execTbindSp (h : Hdr) (t : Tile) (a : Reg) (cap : W32) (s : State) : Host.Outcome State Fault Refusal :=
  runIssue h (.tbindSp h t a cap) (tbindSpBody t a cap) s

/-- A name of a task bound to an entry (R258, R284). -/
def State.bindName (s : State) (t n k : Nat) : State :=
  s.modTask t fun x => { x with tiles := x.tiles.set n { x.tileEnt n with aliasOf := k } }

/-- TBIND.rd and TBIND.wr: a name bound to a slot of a ring (R284). -/
def tbindRingBody (tn : Tile) (r : Ring) (slot : RingSt → Nat) (x : Issue) (s : State) : Res :=
  if x.act == 0#64 then .done s []
  else
    let u := s.unit x.uid
    let t := s.task u.task
    match t.tileOf tn, t.ringOf r with
    | .error (c, info), _ => .done s (x.trapAll c info)
    | .ok _, .error (c, info) => .done s (x.trapAll c info)
    | .ok (n, _), .ok g => .done (s.bindName u.task n (slot g)) []

/-- TBIND.rd (R284). -/
def execTbindRd (h : Hdr) (t : Tile) (r : Ring) (s : State) : Host.Outcome State Fault Refusal :=
  runIssue h (.tbindRd h t r) (tbindRingBody t r fun g => g.first + g.rptr) s

/-- TBIND.wr (R284). -/
def execTbindWr (h : Hdr) (t : Tile) (r : Ring) (s : State) : Host.Outcome State Fault Refusal :=
  runIssue h (.tbindWr h t r) (tbindRingBody t r fun g => g.first + g.wptr) s

/-- TBIND.self (R284). -/
def tbindSelfBody (tn : Tile) (x : Issue) (s : State) : Res :=
  if x.act == 0#64 then .done s []
  else
    let u := s.unit x.uid
    match (s.task u.task).tileOf tn with
    | .error (c, info) => .done s (x.trapAll c info)
    | .ok (n, _) => .done (s.bindName u.task n n) []

/-- TBIND.self (R284). -/
def execTbindSelf (h : Hdr) (t : Tile) (s : State) : Host.Outcome State Fault Refusal :=
  runIssue h (.tbindSelf h t) (tbindSelfBody t) s

end Sys2Proof.Machine
end

