-- ==== Sys2Proof/Machine/Cross.lean ====
section
/-! DEFINITION. The cross-lane instructions SHFL, VOTE, RDUC and SCAN (R109, R110, R192 to R194). -/

namespace Sys2Proof.Machine

/-- The source lane of SHFL for a lane, if it lies in the group (R192). -/
def shflLane (mode : ShflMode) (gw l : Nat) (k : W32) : Option Nat :=
  let j : Int := match mode with
    | .idx => k.toNat
    | .up => (l : Int) - k.toNat
    | .down => (l : Int) + k.toNat
    | .xor => (l ^^^ k.toNat : Nat)
  if 0 ≤ j ∧ j < gw then some j.toNat else none

/-- The value that SHFL gives a lane (R192). -/
def shflValue (u : Unit) (mode : ShflMode) (act : LMask) (a : Reg) (b : SrcB) (l : Nat) : W32 :=
  match shflLane mode u.width l (u.srcB32 b l) with
  | some j => if hasLane act j then u.src32 a j else u.src32 a l
  | none => u.src32 a l

/-- SHFL (R192). -/
def execShfl (h : Hdr) (mode : ShflMode) (d a : Reg) (b : SrcB) (s : State) : Host.Outcome State Fault Refusal :=
  runIssue h (.shfl h mode d a b) (fun x t => compute 8 d (fun u l => zx (shflValue u mode x.act a b l)) x t) s

/-- VOTE (R193). -/
def voteBody (mode : VoteMode) (d p : BitVec 8) (x : Issue) (s : State) : Res :=
  let pv (u : Unit) := u.p (predOf p) &&& x.act
  match mode with
  | .ballot => compute 8 (Reg.ofCode d) (fun u _ => pv u) x s
  | .any => computePred 8 (predOf d) (fun u _ => pv u != 0#64) x s
  | .all => computePred 8 (predOf d) (fun u _ => pv u == x.act) x s
  | .eq => computePred 8 (predOf d) (fun u _ => pv u == 0#64 || pv u == x.act) x s

/-- VOTE (R193). -/
def execVote (h : Hdr) (mode : VoteMode) (d p : BitVec 8) (s : State) : Host.Outcome State Fault Refusal :=
  runIssue h (.vote h mode d p) (voteBody mode d p) s

/-- One combination of RDUC and SCAN (R194). -/
def combine (op : RedOp) (rm : Rm) (z : Bool) (a b : W32) : W32 :=
  match op with
  | .add => a + b
  | .min => if valOf 32 z b.toNat < valOf 32 z a.toNat then b else a
  | .max => if valOf 32 z a.toNat < valOf 32 z b.toNat then b else a
  | .and => a &&& b
  | .or => a ||| b
  | .xor => a ^^^ b
  | .fadd => add32 rm a b
  | .fmin => fmin32 a b
  | .fmax => fmax32 a b

/-- The identity of a combination (R194). -/
def identityOf (op : RedOp) (z : Bool) : W32 :=
  match op with
  | .add => 0#32
  | .min => if z then 0xFFFFFFFF#32 else 0x7FFFFFFF#32
  | .max => if z then 0#32 else 0x80000000#32
  | .and => 0xFFFFFFFF#32
  | .or => 0#32
  | .xor => 0#32
  | .fadd => 0#32
  | .fmin => 0x7F800000#32
  | .fmax => 0xFF800000#32

/-- A pair of which a member may be absent (R109). -/
def joinOpt (f : W32 → W32 → W32) (a b : Option W32) : Option W32 :=
  match a, b with
  | some x, some y => some (f x y)
  | some x, none => some x
  | none, y => y

/-- One level of the tree: neighbours combined, the lower lanes on the left (R109). -/
def treeLevel (f : W32 → W32 → W32) : List (Option W32) → List (Option W32)
  | a :: b :: rest => joinOpt f a b :: treeLevel f rest
  | xs => xs

/-- The tree of R109 over 2^n lanes. -/
def treeReduce (f : W32 → W32 → W32) : Nat → List (Option W32) → Option W32
  | 0, xs => xs.head?.join
  | n + 1, xs => treeReduce f n (treeLevel f xs)

/-- The result of the tree over the lanes of a mask, or the identity where every lane is absent (R109). -/
def reduceMask (u : Unit) (op : RedOp) (rm : Rm) (z : Bool) (a : Reg) (m : LMask) : W32 :=
  let xs := (List.range u.width).map fun l => if hasLane m l then some (u.src32 a l) else none
  (treeReduce (combine op rm z) (log2w u.width) xs).getD (identityOf op z)

/-- Whether an operation gives integers (R194). -/
def redInt (op : RedOp) : Bool := !(op == .fadd || op == .fmin || op == .fmax)

/-- Latency of RDUC and SCAN (R76). -/
def redLatency (u : Unit) : Nat := 2 * log2w u.width + 4

/-- RDUC: a vector destination receives the result in every lane, a scalar one extended (R194). -/
def rducBody (op : RedOp) (rm : Rm) (z : Bool) (d a : Reg) (x : Issue) (s : State) : Res :=
  compute (redLatency (s.unit x.uid)) d
    (fun u _ =>
      let v := reduceMask u op rm z a x.act
      if redInt op && !z then sx v else zx v) x s

/-- RDUC (R194). -/
def execRduc (h : Hdr) (op : RedOp) (rm : Rm) (z : Bool) (d a : Reg) (s : State) : Host.Outcome State Fault Refusal :=
  runIssue h (.rduc h op rm z d a) (rducBody op rm z d a) s

/-- The lanes of a mask below a lane, or up to it. -/
def prefixMask (excl : Bool) (l : Nat) (m : LMask) : LMask := m &&& fullMask (if excl then l else l + 1)

/-- SCAN (R110, R194). -/
def scanBody (op : RedOp) (rm : Rm) (z excl : Bool) (d a : Reg) (x : Issue) (s : State) : Res :=
  compute (redLatency (s.unit x.uid)) d (fun u l => zx (reduceMask u op rm z a (prefixMask excl l x.act))) x s

/-- SCAN (R194). -/
def execScan (h : Hdr) (op : RedOp) (rm : Rm) (z excl : Bool) (d a : Reg) (s : State) :
    Host.Outcome State Fault Refusal :=
  runIssue h (.scan h op rm z excl d a) (scanBody op rm z excl d a) s

end Sys2Proof.Machine
end

