-- ==== Sys2Proof/Machine/Record.lean ====
section
/-! DEFINITION. Launch records: role descriptors, declarations, the checks of a malformed record (R126 to R129), and what a
task demands of a core (R133). -/

namespace Sys2Proof.Machine

/-! ### Fields -/

/-- The offset of a role's descriptor (R126). -/
def roleOff : Role → Nat
  | .copy => 0x20
  | .matrix => 0x40
  | .vector => 0x60

/-- ENTRY of a role (R128). -/
def roleEntry (r : List Byte) (o : Role) : W64 := BitVec.ofNat 64 (field r (roleOff o) 8)
/-- LMASK of a role (R128). -/
def roleMask (r : List Byte) (o : Role) : W64 := BitVec.ofNat 64 (field r (roleOff o + 8) 8)
/-- CFG of a role (R128). -/
def roleCfg (r : List Byte) (o : Role) : Nat := field r (roleOff o + 16) 4
/-- GROUPS of a role (R128). -/
def roleGroups (r : List Byte) (o : Role) : Nat := nbits (roleCfg r o) 0 9
/-- The group width of a role (R128). -/
def roleWidth (r : List Byte) (o : Role) : Nat := 8 * 2 ^ nbits (roleCfg r o) 14 2
/-- REGS of a role (R128). -/
def roleRegs (r : List Byte) (o : Role) : Nat := nbits (roleCfg r o) 16 8
/-- REGMAX of a role (R128). -/
def roleRegmax (r : List Byte) (o : Role) : Nat := nbits (roleCfg r o) 24 8

/-- The roles of a record that hold groups, copy first, then matrix, then vector (R128, R175). -/
def recRoles (r : List Byte) : List Role := [Role.copy, .matrix, .vector].filter fun o => roleGroups r o != 0

/-- The entry width of a task's queues (R294). -/
def recWq (r : List Byte) : Nat :=
  if recKind r == 2 then 8 else (recRoles r).foldl (fun m o => Nat.max m (roleWidth r o)) 8

/-- The declaration of ring n (R126). -/
def recRing (r : List Byte) (n : Nat) : Nat := field r (0xA0 + 2 * n) 2
/-- The declaration of queue n (R126). -/
def recQueue (r : List Byte) (n : Nat) : Nat := field r (0xC0 + 4 * n) 4
/-- The binding of handle n (R126). -/
def recHandle (r : List Byte) (n : Nat) : Nat := field r (0xE0 + 2 * n) 2

/-! ### Malformed records (R129) -/

/-- The offset of the lowest byte of a value of n bytes that has a bit set under a mask, where one has. -/
def zeroBad (off n v mask : Nat) : List Nat :=
  match (List.range n).find? fun k => (v &&& mask) / 256 ^ k % 256 != 0 with
  | some k => [off + k]
  | none => []

/-- An offset where a condition fails. -/
def needs (off : Nat) (ok : Bool) : List Nat := if ok then [] else [off]

/-- The breaches of a role descriptor (R128). -/
def roleBad (r : List Byte) (o : Role) : List Nat :=
  let b := roleOff o
  let w := roleWidth r o
  zeroBad (b + 16) 4 (roleCfg r o) 0x3E00 ++ zeroBad (b + 20) 12 (field r (b + 20) 12) (2 ^ 96 - 1)
    ++ needs (b + 16) (decide (roleGroups r o ≤ 256))
    ++ if roleGroups r o == 0 || recKind r == 2 then []
       else
         zeroBad (b + 8) 8 (field r (b + 8) 8) (2 ^ 64 - 2 ^ w) ++ needs (b + 8) (roleMask r o != 0#64)
           ++ needs (b + 18) (decide (1 ≤ roleRegs r o) && decide (roleRegs r o ≤ 192))
           ++ needs (b + 19) (decide (roleRegs r o ≤ roleRegmax r o) && decide (roleRegmax r o ≤ 192))

/-- The breaches of the descriptors as KIND asks for them (R128). -/
def kindBad (r : List Byte) : List Nat :=
  let others := zeroBad 0x20 64 (field r 0x20 64) (2 ^ 512 - 1)
  match recKind r with
  | 0 => others
  | 1 => needs 0x30 (!(recRoles r).isEmpty)
  | 2 =>
    others ++ needs 0x68 (roleMask r .vector == 1#64) ++ needs 0x70 (roleGroups r .vector == 1)
      ++ needs 0x71 (roleWidth r .vector == 8) ++ needs 0x72 (roleRegs r .vector == 0)
      ++ needs 0x73 (roleRegmax r .vector == 0)
  | _ => []

/-- The breaches of a ring declaration (R126, R129). -/
def ringBad (r : List Byte) (n : Nat) : List Nat :=
  let o := 0xA0 + 2 * n
  let v := recRing r n
  if recNring r ≤ n then zeroBad o 2 v 0xFFFF
  else
    zeroBad o 2 v 0x40E0 ++ if nbits v 0 5 == 0 then []
      else
        needs o (decide (2 ≤ nbits v 0 5) && decide (nbits v 0 5 ≤ 16))
          ++ needs (o + 1) (decide (nbits v 8 6 + nbits v 0 5 ≤ recNtile r))

/-- The breaches of a queue declaration (R126, R129, R294). -/
def queueBad (r : List Byte) (n : Nat) : List Nat :=
  let o := 0xC0 + 4 * n
  let v := recQueue r n
  if recNqueue r ≤ n then zeroBad o 4 v (2 ^ 32 - 1)
  else
    zeroBad o 4 v 0x000FFE00 ++ if nbits v 0 9 == 0 then []
      else
        needs o (decide (2 ≤ nbits v 0 9) && decide (nbits v 0 9 ≤ 256))
          ++ needs (o + 2) (decide (256 * nbits v 20 12 + nbits v 0 9 * (4 * recWq r + 16) ≤ recSpad r))

/-- The breaches of a handle binding (R129). -/
def handleBad (r : List Byte) (n : Nat) : List Nat :=
  if recNhandle r ≤ n then zeroBad (0xE0 + 2 * n) 2 (recHandle r n) 0xFFFF else []

/-- Every breach of a record, by the offset of its byte; a host launch also reads COUNT (R126 to R129)
(DEDUCED, assumption log 16). -/
def recBreaches (r : List Byte) (host : Bool) : List Nat :=
  needs 3 (nbits (recCtrl r) 24 8 == 1) ++ needs 0 (recKind r != 3) ++ zeroBad 0 4 (recCtrl r) 0x00FFE0CF
    ++ needs 4 (!host || recCount r != 0) ++ needs 8 (recSpad r % 256 == 0 && decide (recSpad r ≤ 917504))
    ++ zeroBad 0x0C 4 (recRsrc r) 0x80E0F0E0 ++ needs 0x0F (decide (recNtile r ≤ 64))
    ++ needs 0x0E (decide (recNring r ≤ 16)) ++ needs 0x0D (decide (recNqueue r ≤ 8))
    ++ needs 0x0C (decide (recNhandle r ≤ 16)) ++ needs 0x10 ((recTrapvec r).toNat % 4 == 0)
    ++ needs 0x18 ((recAccpc r).toNat % 4 == 0 && (recAcc r || recAccpc r == 0#64))
    ++ [Role.copy, .matrix, .vector].flatMap (roleBad r) ++ kindBad r ++ zeroBad 0x88 24 (field r 0x88 24) (2 ^ 192 - 1)
    ++ (List.range 16).flatMap (ringBad r) ++ (List.range 8).flatMap (queueBad r) ++ (List.range 16).flatMap (handleBad r)

/-- `%tinfo` of FOOTPRINT for a malformed record, or none where it is well formed (R129). -/
def recMalformed (r : List Byte) (host : Bool) : Option W64 :=
  match recBreaches r host with
  | [] => none
  | b :: bs => some (BitVec.ofNat 64 (256 * minD b (b :: bs) + 1))

/-! ### Demands (R133) -/

/-- What a task demands of a core (R133). -/
structure Demand where
  widths : List Nat
  regs : Nat
  spad : Nat
  tiles : Nat
  rings : Nat
  queues : Nat
  seqs : Nat
  accs : Nat
  deriving DecidableEq, Repr

/-- The register-file bytes of a group (R19, R133). -/
def groupBytes (width regs : Nat) : Nat := width * regs * 4 + 512

/-- The demand of a record (R133). -/
def recDemand (r : List Byte) : Demand :=
  let roles := if recKind r == 2 then [] else recRoles r
  { widths := roles.flatMap fun o => List.replicate (roleGroups r o) (roleWidth r o),
    regs := roles.foldl (fun n o => n + roleGroups r o * groupBytes (roleWidth r o) (roleRegs r o)) 0,
    spad := recSpad r, tiles := recNtile r, rings := recNring r, queues := recNqueue r,
    seqs := if recKind r == 2 then 1 else 0, accs := if recAcc r then 1 else 0 }

/-- The scratchpad in force on a core (R18). -/
def Core.spadSize (c : Core) : Nat := (14 - c.l1sz.toNat) * 65536

/-- Lane slots of a core (R17). -/
def laneSlots : Nat := 2048
/-- Bytes of a register file (R17). -/
def regFile : Nat := 524288

/-- The lowest first slot of a width that overlaps none of a list of (first slot, width) (R251)
(DEDUCED, assumption log 48). -/
def findSlots (used : List (Nat × Nat)) (w : Nat) : Option Nat :=
  ((List.range (laneSlots / w)).map fun k => k * w).find? fun a =>
    used.all fun p => decide (a + w ≤ p.1) || decide (p.1 + p.2 ≤ a)

/-- First slots for a list of widths, or none where some group finds none. -/
def findAll (used : List (Nat × Nat)) : List Nat → Option (List Nat)
  | [] => some []
  | w :: ws => do
    let a ← findSlots used w
    let rest ← findAll ((a, w) :: used) ws
    pure (a :: rest)

/-- Whether every lane of a unit that was ever live has exited (R154). -/
def Unit.isOver (u : Unit) : Bool := u.lanes.vals.all fun x => x.st == .never || x.st == .exited

/-- The units of a task that hold slots, registers, the sequencer or a context. -/
def State.heldUnits (s : State) (t : Task) : List Unit := (t.units.map s.unit).filter fun u => !u.isOver

/-- What the tasks of a core hold: lane slots as (first, width), and the counts of R133. A pending task holds only what its
successor inherits (R143). -/
def State.held (s : State) (core : Nat) : List (Nat × Nat) × Demand :=
  let ts := ((s.core core).ctx.tasks.map s.task)
  let us := ts.flatMap s.heldUnits
  let groups := us.filter fun u => u.kind == .group
  let live := ts.filter fun t => t.st != .pending
  let sum (f : Task → Nat) (xs : List Task) : Nat := xs.foldl (fun n t => n + f t) 0
  (groups.map fun u => (8 * u.slot, u.width),
   { widths := [], regs := groups.foldl (fun n u => n + groupBytes u.width u.regs) 0,
     spad := sum (fun t => t.spadSize) ts, tiles := sum (fun t => t.tiles.length) ts,
     rings := sum (fun t => recNring t.record) live, queues := sum (fun t => recNqueue t.record) live,
     seqs := (us.filter fun u => u.kind == .seq).length, accs := (us.filter fun u => u.kind == .acc).length })

/-- The first slots that a demand takes on a core beside what is held, of which a continuation holds some scratchpad and
tiles already, or none where it does not fit (R133, R143). -/
def State.fitsBeside (s : State) (core : Nat) (h : List (Nat × Nat) × Demand) (d : Demand) (spad tiles : Nat) :
    Option (List Nat) :=
  if decide (h.2.regs + d.regs ≤ regFile) && decide (h.2.spad + d.spad ≤ (s.core core).spadSize + spad)
      && decide (h.2.tiles + d.tiles ≤ 256 + tiles) && decide (h.2.rings + d.rings ≤ 64)
      && decide (h.2.queues + d.queues ≤ 32) && decide (h.2.seqs + d.seqs ≤ 1) && decide (h.2.accs + d.accs ≤ 8) then
    findAll h.1 d.widths
  else none

/-- Nothing held on a core. -/
def noneHeld : List (Nat × Nat) × Demand :=
  ([], { widths := [], regs := 0, spad := 0, tiles := 0, rings := 0, queues := 0, seqs := 0, accs := 0 })

/-- Whether a record would fit a core with nothing else resident (R133). -/
def State.fitsEmpty (s : State) (core : Nat) (r : List Byte) : Bool :=
  (s.fitsBeside core noneHeld (recDemand r) 0 0).isSome

/-- The cores of a cluster. -/
def clusterCores (cl : Nat) : List Nat := (List.range 4).map fun k => 4 * cl + k

/-- The cores of a partition (R11). -/
def State.partCores (s : State) (part : Nat) : List Nat := (s.part part).clusters.flatMap clusterCores

/-- Whether a record fits no core of a partition (R133). -/
def State.fitsNone (s : State) (part : Nat) (r : List Byte) : Bool := (s.partCores part).all fun c => !s.fitsEmpty c r

end Sys2Proof.Machine
end

