-- ==== Sys2Proof/Machine/Place.lean ====
section
/-! DEFINITION. Launch queues on their levels (R131), placement of tasks, gangs and continuations (R134 to R136, R143, R286,
R292), frames (R137, R138) and the completion of tasks (R138, R143, R349). -/

namespace Sys2Proof.Machine

/-! ### Queues (R131) -/

/-- Task priority of an entry (R127). -/
def QEntry.prio (e : QEntry) : Nat := recPrio e.record

/-- Whether an entry goes before another: higher priority, then older (R131). -/
def QEntry.before (a b : QEntry) : Bool :=
  decide (b.prio < a.prio) || (a.prio == b.prio && decide (a.id < b.id))

/-- An entry put in its place of the order of R131. -/
def insertQ (e : QEntry) : List QEntry → List QEntry
  | [] => [e]
  | x :: xs => if e.before x then e :: x :: xs else x :: insertQ e xs

/-- Entries in the order of R131. -/
def sortQ (es : List QEntry) : List QEntry := es.foldl (fun acc e => insertQ e acc) []

/-- The block of at most eight that leaves a queue: entries that hold claims stay (R131, R349). -/
def blockOf (es : List QEntry) : List QEntry := (sortQ (es.filter fun e => !e.claimed)).take 8

/-- A queue without some entries. -/
def without (es out : List QEntry) : List QEntry := es.filter fun e => !out.any fun x => x.id == e.id

/-- Entries a glade queue holds (R131). -/
def gladeCap : Nat := 64
/-- Entries a copse queue holds (R131). -/
def copseCap : Nat := 256
/-- Entries a canopy queue holds (R131). -/
def canopyCap : Nat := 2048

/-- A partition's entries that await in its overflow area, put there from a die; none where the area is full (R131, R421). -/
def State.pushOverflow (s : State) (die part : Nat) (es : List QEntry) : Option State :=
  let p := s.part part
  if p.overflow.length + es.length ≤ p.arena.ovfCnt.toNat then
    some (s.setPart part { p with overflow := p.overflow ++ es.map fun e => (die, e) })
  else none

/-- An entry arriving at a canopy queue (R131). -/
def State.pushCanopy (s : State) (die : Nat) (e : QEntry) : Option State :=
  let d := s.die die
  if d.canopy.length < canopyCap then some (s.setDie die { d with canopy := d.canopy ++ [e] })
  else
    let b := blockOf (d.canopy.filter fun x => x.part == e.part)
    if b.isEmpty then none
    else (s.pushOverflow die e.part b).map fun t => t.setDie die { d with canopy := without d.canopy b ++ [e] }

/-- A copse queue. -/
def State.copseOf (s : State) (cl : Nat) : List QEntry := (s.copse.get cl).getD []

/-- Entries arriving at a canopy queue one after another. -/
def State.pushCanopies (s : State) (die : Nat) : List QEntry → Option State
  | [] => some s
  | e :: es => (s.pushCanopy die e).bind fun t => t.pushCanopies die es

/-- An entry arriving at a copse queue (R131). -/
def State.pushCopse (s : State) (cl : Nat) (e : QEntry) : Option State :=
  let q := s.copseOf cl
  if q.length < copseCap then some { s with copse := s.copse.set cl (q ++ [e]) }
  else
    let b := blockOf q
    (s.pushCanopies (cl / 16) b).map fun t => { t with copse := t.copse.set cl (without q b ++ [e]) }

/-- Entries arriving at a copse queue one after another. -/
def State.pushCopses (s : State) (cl : Nat) : List QEntry → Option State
  | [] => some s
  | e :: es => (s.pushCopse cl e).bind fun t => t.pushCopses cl es

/-- An entry arriving at a glade queue; none where every level is full (R131). -/
def State.pushGlade (s : State) (core : Nat) (e : QEntry) : Option State :=
  let q := (s.core core).glade
  if q.length < gladeCap then some (s.modCore core fun c => { c with glade := c.glade ++ [e] })
  else
    let b := blockOf q
    if b.isEmpty then none
    else (s.pushCopses (core / 4) b).map fun t => t.modCore core fun c => { c with glade := without c.glade b ++ [e] }

/-! ### Frames (R137, R138) -/

/-- The address of a free frame of a partition's pool, or none (R138, R421). -/
def State.freeFrame (s : State) (part : Nat) : Option Nat :=
  let a := (s.part part).arena
  ((List.range (Nat.min a.frmCnt.toNat (s.frames.length + 1))).map fun k => a.frmBase.toNat + 64 * k).find?
    fun x => (s.frames.get x).isNone

/-- A frame as a strand's first SPAWN opens it (R137, R138). -/
def State.openFrame (s : State) (uid l : Nat) : Option State :=
  let u := s.unit uid
  let t := s.task u.task
  (s.freeFrame t.part).map fun a =>
    let f : Frame :=
      { parent := BitVec.ofNat 64 (t.parent.getD 0), pend := 0, status := 1, depth := (u.lane l).depth, home := u.core,
        cont := 0#64, carg := 0#64, task := u.task, part := t.part }
    ({ s with frames := s.frames.set a f }).modUnit uid fun v => v.modLane l fun y => { y with frame := some a }

/-- A lane's frame given back to the pool (R138). -/
def State.dropFrame (s : State) (uid l : Nat) : State :=
  match ((s.unit uid).lane l).frame with
  | some a => ({ s with frames := s.frames.del a }).modUnit uid fun v => v.modLane l fun y => { y with frame := none }
  | none => s

/-! ### Placement (R134 to R136) -/

/-- A lane as placement leaves it (R136, R153). -/
def Lane.placed (live : Bool) (depth : Nat) (losses : Nat) : Lane :=
  { Lane.blank with st := if live then .live else .never, depth := depth, lossSeen := losses }

/-- A unit as placement leaves it (R136, R153, R286). -/
def Unit.placed (kind : UnitKind) (e : QEntry) (core : Nat) (role : Role) (index slot width regs regmax : Nat)
    (entry : W64) (lmask : LMask) (losses : Nat) : Unit :=
  { Unit.blank with
    kind := kind, task := e.id, core := core, role := role, index := index, slot := slot, width := width, lmask := lmask,
    regs := regs, regmax := regmax, sregs := [(0, e.arg), (1, e.addr)],
    lanes := (List.range width).map fun l => (l, Lane.placed (hasLane lmask l) e.depth losses),
    frontier := [{ pc := entry, prio := 1#2, mask := lmask, blk := none, cnt := 0, aged := false, solo := false }] }

/-- A group still to be placed: its role and index in the task (R175) (DEDUCED, assumption log 54). -/
def groupList (r : List Byte) : List (Role × Nat) :=
  let gs := (recRoles r).flatMap fun o => List.replicate (roleGroups r o) o
  gs.zip (List.range gs.length)

/-- The handle registers of a context (R291, R292). -/
def State.bindHandles (s : State) (part : Nat) (r : List Byte) : SMap HReg :=
  let a := (s.part part).arena
  (List.range (recNhandle r)).map fun n =>
    let b := recHandle r n
    let region := nbits b 0 15
    let e := s.mem.readN (a.htBase.toNat + 32 * region) 32
    let ctl := BitVec.ofNat 32 (field e 0x10 4)
    let bound := nbits b 15 1 == 1
    let inTab := decide (region < a.htCnt.toNat)
    (n, { declared := bound,
          valid := bound && inTab && ctl.getLsbD 31 && ctl.toNat % 256 == part,
          base := BitVec.ofNat 64 (if inTab then field e 0 8 else 0),
          limit := BitVec.ofNat 64 (if inTab then field e 8 8 else 0),
          ctl := if inTab then ctl else 0#32, region := BitVec.ofNat 15 region })

/-- A ring as the record declares it; LAUNCH leaves it as RINI does (R126, R136, R278). -/
def ringPlaced (v : Nat) : RingSt :=
  { init := nbits v 15 1 == 1, first := nbits v 8 6, count := nbits v 0 5, rptr := 0, rph := false, wptr := 0, wph := false,
    rev := false }

/-- The declared rings of a record. -/
def ringsPlaced (r : List Byte) : SMap RingSt :=
  ((List.range (recNring r)).filter fun n => nbits (recRing r n) 0 5 != 0).map fun n => (n, ringPlaced (recRing r n))

/-- The queues of a record, empty and open (R294). -/
def queuesPlaced (r : List Byte) : SMap QueueSt :=
  ((List.range (recNqueue r)).filter fun n => nbits (recQueue r n) 0 9 != 0).map fun n =>
    (n, { base := 256 * nbits (recQueue r n) 20 12, cap := nbits (recQueue r n) 0 9, head := 0, count := 0, closed := false })

/-- The ring of which tile n is a slot at placement, where a LAUNCH ring declares it (R136, R279). -/
def slotRing (r : List Byte) (n : Nat) : Option Ring :=
  ((ringsPlaced r).find? fun (p : Nat × RingSt) =>
    p.2.init && decide (p.2.first ≤ n) && decide (n < p.2.first + p.2.count)).map fun p => BitVec.ofNat 4 p.1

/-- The clearing-table entries of a placed task: inherited ones keep binding, state and alias, a slot of a ring marked LAUNCH
is EMPTY in phase 0 (R136, R143, R258). -/
def tilesPlaced (r : List Byte) (old : SMap TileEnt) : SMap TileEnt :=
  (List.range (recNtile r)).map fun n =>
    let e := (old.get n).getD (.blank n)
    match slotRing r n with
    | some g => (n, { e with ring := some g, phase := false, st := .empty, fault := none })
    | none => (n, { e with ring := none })

/-- The scratchpad of a placed task: the inherited bytes below its size, and zero elsewhere (R143; DESIGN CHOICE, assumption log 5). -/
def spadPlaced (old : Memory) (size : Nat) : Memory := old.filter fun p => decide (p.1 < size)

/-- The bank space of a claim holder (R349). -/
def claimBanks (cs : List Claim) (id : Nat) : SMap Nat :=
  (cs.filter fun k => k.owner == some id).foldl (fun m k => SMap.set m k.name k.bank) []

/-- The lowest access context of a core that no task holds (R17). -/
def State.freeContext (s : State) (core : Nat) : Nat :=
  let used := (((s.core core).ctx.tasks.map s.task).flatMap s.heldUnits).filter fun u => u.kind == .acc
  ((List.range 8).find? fun k => used.all fun u => u.slot != k).getD 0

/-- Units numbered with fresh identifiers. -/
def State.addUnits (s : State) : List Unit → List Nat × State
  | [] => ([], s)
  | u :: us =>
    let (id, t) := s.fresh
    let r := (t.setUnit id u).addUnits us
    (id :: r.1, r.2)

/-- The units of an entry on a core, given the first lane slots of its groups (R136, R286). -/
def State.unitsFor (s : State) (core : Nat) (e : QEntry) (slots : List Nat) : List Unit :=
  let r := e.record
  let main : List Unit :=
    if recKind r == 2 then
      [Unit.placed .seq e core .vector 0 0 1 0 0 (roleEntry r .vector) 1#64 s.losses]
    else
      ((groupList r).zip slots).map fun p =>
        Unit.placed .group e core p.1.1 p.1.2 (p.2 / 8) (roleWidth r p.1.1) (roleRegs r p.1.1) (roleRegmax r p.1.1)
          (roleEntry r p.1.1) (roleMask r p.1.1) s.losses
  let acc : List Unit :=
    if recAcc r then
      [{ Unit.placed .acc e core .vector 0 (s.freeContext core) 1 0 0 (recAccpc r) 1#64 s.losses with
         handles := s.bindHandles e.part r }]
    else []
  main ++ acc

/-- An entry placed on a core, whose groups take the given slots (R135, R136, R143, R286). The first instruction of a child, a
successor or a continuation is the target of an incoming edge (R46). -/
def State.placeOn (s : State) (core : Nat) (e : QEntry) (slots : List Nat) : State :=
  let old := match e.cont with
    | some t => s.task t
    | none => Task.blank
  let (ids, s1) := s.addUnits (s.unitsFor core e slots)
  let t : Task :=
    { Task.blank with
      part := e.part, asn := e.asn, proc := e.proc, launch := e.launch, record := e.record, addr := e.addr,
      index := e.index, depth := e.depth, parent := e.parent, core := core, st := .resident,
      restoring := e.cont.isSome && old.slot.isSome, slot := old.slot, units := ids,
      spad := spadPlaced old.spad (recSpad e.record), spadSize := recSpad e.record,
      tiles := tilesPlaced e.record old.tiles, rings := ringsPlaced e.record, queues := queuesPlaced e.record,
      wq := recWq e.record, banks := claimBanks (s.core core).ctx.claims e.id, lastAct := (s.core core).cyc }
  let gone := e.cont.getD 0
  let s2 := { s1.setTask e.id t with tasks := (s1.tasks.set e.id t).keep fun k _ => e.cont.isNone || k != gone }
  let s3 := s2.modCtx core fun c => { c with tasks := (c.tasks.filter fun k => e.cont.isNone || k != gone) ++ [e.id] }
  if e.parent.isSome || e.cont.isSome then s3.incomingEdge core else s3

/-- Whether what an entry takes over is at hand: the claims passed to it, and what it inherits, on the core or in a spill slot (R143,
R349). A swapped-out set keeps both with it. -/
def State.atHand (s : State) (core : Nat) (e : QEntry) : Bool :=
  let c := (s.core core).ctx
  (!e.claimed || c.claims.any fun k => k.owner == some e.id) && match e.cont with
    | some t => c.tasks.contains t || (s.task t).slot.isSome
    | none => true

/-- The demand of an entry beside what a core holds; a successor or continuation finds what it inherits held for it, unless
that was spilled (R133, R143). -/
def State.fitsNow (s : State) (core : Nat) (e : QEntry) : Option (List Nat) :=
  if !s.atHand core e then none
  else
    match e.cont with
    | some t =>
      let o := s.task t
      let here := (s.core core).ctx.tasks.contains t
      s.fitsBeside core (s.held core) (recDemand e.record) (if here then o.spadSize else 0) (if here then o.tiles.length else 0)
    | none => s.fitsBeside core (s.held core) (recDemand e.record) 0 0

/-- The first entry of a list that fits a core, the entries passed over before it, and its slots. -/
def State.firstFit (s : State) (core : Nat) : List QEntry → Option (List QEntry × QEntry × List Nat)
  | [] => none
  | e :: es =>
    match s.fitsNow core e with
    | some slots => some ([], e, slots)
    | none => (s.firstFit core es).map fun r => (e :: r.1, r.2.1, r.2.2)

/-- The placements after which an entry passed over becomes a blocker (R134). -/
def passLimit : Nat := 256

/-- Entries of a glade queue that cannot fit the core even when it is empty move to the copse queue (R134). -/
def State.shedGlade (s : State) (core : Nat) : State :=
  let bad := (s.core core).glade.filter fun e => !e.claimed && !s.fitsEmpty core e.record
  if bad.isEmpty then s
  else
    match s.pushCopses (core / 4) bad with
    | some t => t.modCore core fun c => { c with glade := without c.glade bad }
    | none => s

/-- The entries that a core considers from its glade queue: a blocker alone, else all in the order of R134. -/
def gladeOrder (es : List QEntry) : List QEntry :=
  match (sortQ es).find? fun e => decide (passLimit ≤ e.passed) with
  | some b => [b]
  | none => sortQ es

/-- One placement by a core: a successor or continuation first, then its glade queue (R134). -/
def State.placeOne (s : State) (core : Nat) : State :=
  let s0 := s.shedGlade core
  let c := s0.core core
  match s0.firstFit core c.conts with
  | some (_, e, slots) => (s0.placeOn core e slots).modCore core fun k => { k with conts := without k.conts [e] }
  | none =>
    match s0.firstFit core (gladeOrder c.glade) with
    | some (ahead, e, slots) =>
      (s0.placeOn core e slots).modCore core fun k =>
        { k with glade := (without k.glade [e]).map fun x =>
            if ahead.any fun y => y.id == x.id then { x with passed := x.passed + 1 } else x }
    | none => s0

/-- Whether a core may place: it holds a partition, and no matrix reset or image failure holds it (R134, R423). -/
def State.mayPlace (s : State) (core : Nat) : Bool := s.corePart core != 0 && !(s.core core).inReset

/-! ### Completion (R138, R143, R349) -/

/-- Whether a task has completed: its strands and its context have ended and its engine operations are done (R138). -/
def State.taskEnded (s : State) (t : Nat) : Bool :=
  let k := s.task t
  let c := (s.core k.core).ctx
  k.st == .resident && (s.tasks.get t).isSome && (k.units.map s.unit).all Unit.isOver
    && !(c.copies.vals.any fun o => o.task == t) && !(c.mops.any fun o => o.task == t)

/-- The claims of a completed task ended, and its banks freed; a bank with a claim left is freed with the last (R348, R349). -/
def CoreCtx.freeTask (c : CoreCtx) (t : Nat) : CoreCtx :=
  let cs := c.claims.filter fun k => k.owner != some t
  let bs := c.banks.mapVal fun _ b => if b.task == t then { b with freeing := true } else b
  { c with
    claims := cs, banks := bs.keep fun n b => !(b.freeing && !cs.any fun k => k.bank == n),
    hold := if c.hold == some t then Option.none else c.hold,
    active := if c.hold == some t then .none else c.active, shadow := if c.hold == some t then .none else c.shadow }

/-- A successor or continuation sent to the core that registered it (R143). -/
def State.launchCont (s : State) (t : Nat) : State :=
  let k := s.task t
  match k.reg with
  | none => s
  | some g =>
    let (id, s1) := s.fresh
    let e : QEntry :=
      { id := id, part := k.part, asn := k.asn, proc := k.proc, launch := k.launch, record := g.record, addr := g.addr,
        arg := g.arg, depth := k.depth, index := k.index, parent := k.parent, home := k.core, claimed := false,
        cont := some t, passed := 0 }
    s1.modCore k.core fun c => { c with conts := c.conts ++ [e] }

/-- One subtracted from a join count; at zero the continuation launches (R143). -/
def State.joinDown (s : State) (t : Nat) : State :=
  let k := s.task t
  let s1 := s.setTask t { k with joins := k.joins - 1 }
  if k.joins ≤ 1 then s1.launchCont t else s1

/-- One subtracted from a host launch's count of live tasks; at zero its completion is reported (R138, R415). -/
def State.launchDown (s : State) (n : Nat) : State :=
  match s.launches.get n with
  | none => s
  | some k =>
    let s1 := { s with launches := s.launches.set n { k with live := k.live - 1 } }
    if k.live ≤ 1 then { s1 with launches := s1.launches.del n, reports := s1.reports ++ [.launchDone n] } else s1

/-- What a task leaves when it completes: its banks and claims, the planes, its units, and its place on the core; with a
registration, what its successor or continuation inherits stays (R138, R143, R348). -/
def State.completeTask (s : State) (t : Nat) : State :=
  let k := s.task t
  let s1 := s.modCtx k.core fun c => c.freeTask t
  let s2 := { s1 with units := s1.units.keep fun n _ => !k.units.contains n }
  match k.reg with
  | none =>
    (s2.setTask t { k with st := .done, units := [], spad := [], spadSize := 0, tiles := [], rings := [], queues := [] }).modCtx
      k.core fun c => { c with tasks := c.tasks.filter fun n => n != t }
  | some g =>
    let n := recSpad g.record
    let p : Task :=
      { k with
        st := .pending, units := [], spad := spadPlaced k.spad n, spadSize := n,
        tiles := k.tiles.keep fun i _ => decide (i < recNtile g.record), rings := [], queues := [], banks := [] }
    let s3 := s2.setTask t p
    if g.join then s3.joinDown t else s3.launchCont t

/-- A frame that counts one completion fewer: a handed frame that empties goes back to the pool and its continuation's join
count falls (R138, R143). -/
def State.frameDown (s : State) (a : Nat) : State :=
  match s.frames.get a with
  | none => s
  | some f =>
    let f' := { f with pend := f.pend - 1 }
    if f'.pend == 0 && f'.status == 3 then ({ s with frames := s.frames.del a }).joinDown f.task
    else { s with frames := s.frames.set a f' }

/-- A completed task reported to what counts it: its parent's frame, or its host launch (R36, R138). -/
def State.childDone (s : State) (t : Nat) : State :=
  let k := s.task t
  let s1 := { s with tasks := s.tasks.del t }
  match k.parent with
  | some a => s1.frameDown a
  | none => s1.launchDown k.launch

end Sys2Proof.Machine
end

