-- ==== Sys2Proof/Machine/Task.lean ====
section
/-! DEFINITION. The task instructions: SPAWN and SPAWN.U (R140), AWAIT (R141), EXIT, EXIT.S and EXITJ (R142, R143), RGROW and
RSHRK (R144, R145, R149), YIELD (R146). -/

namespace Sys2Proof.Machine

/-! ### Reading a launch record -/

/-- The outcome of reading a launch record (R140, R147): it stops the instruction, or gives the record. -/
inductive RecRead where
  | stop (r : Res)
  | got (s : State) (bytes : List Byte)

/-- The launch record at an address, read by the strand of the lowest lane of Active (R140, R147). -/
def readRecord (i : Instr) (a : W64) (x : Issue) (s : State) : RecRead :=
  let u := s.unit x.uid
  let l := lowest x.act
  if a.toNat % 256 != 0 then .stop (.done s (x.trapAll cMisalign a))
  else
    match s.laneXlat x.uid a 256 .r with
    | .fault c info => .stop (.done s (x.trapAll c info))
    | .miss pages => .stop (.wait (s.pageFault x i pages))
    | .ok pas =>
      match (s.fillTlb u.core (s.task u.task).asn a.toNat).readLanes u.core x.uid [(l, pas)] with
      | .wait t => .stop (.wait t)
      | .done t vals _ fill =>
        match vals with
        | [] => .stop (.done t (x.trapAll cLink a))
        | v :: _ => .got (t.request u.core x.uid [] fill).2 v.2

/-! ### SPAWN -/

/-- The fault of a lane that may not spawn a record (R140). -/
def spawnFault (s : State) (u : Unit) (r : List Byte) (l : Nat) : Option (Cause × W64) :=
  if 8 ≤ (u.lane l).depth then some (cDepth, 8#64)
  else
    match recMalformed r false with
    | some info => some (cFootprint, info)
    | none => if s.fitsNone (s.task u.task).part r then some (cFootprint, 2#64) else none

/-- The pending claims of a strand passed to a child (R349) (DEDUCED, assumption log 62). -/
def CoreCtx.passClaims (c : CoreCtx) (uid l child : Nat) : CoreCtx :=
  { c with claims := c.claims.map fun k =>
      if k.owner.isNone && k.unit == uid && k.lane == l then { k with owner := some child } else k }

/-- Whether a strand holds pending claims (R349). -/
def CoreCtx.hasPending (c : CoreCtx) (uid l : Nat) : Bool :=
  c.claims.any fun k => k.owner.isNone && k.unit == uid && k.lane == l

/-- One child created for a lane (R140): its frame, its place in the glade queue, and the claims it receives. -/
def spawnOne (r : List Byte) (addr arg : W64) (index : Nat) (x : Issue) (l : Nat) (s : State) : State × LaneOut × Bool :=
  let u := s.unit x.uid
  let t := s.task u.task
  let new := (u.lane l).frame.isNone
  match (if new then s.openFrame x.uid l else some s) with
  | none => (s, .trap cFrame 1#64, false)
  | some s1 =>
    let back := if new then s1.dropFrame x.uid l else s1
    let (id, s2) := s1.fresh
    let e : QEntry :=
      { id := id, part := t.part, asn := t.asn, proc := t.proc, launch := 0, record := r, addr := addr, arg := arg,
        depth := (u.lane l).depth + 1, index := BitVec.ofNat 32 index, parent := ((s2.unit x.uid).lane l).frame,
        home := u.core, claimed := (s.core u.core).ctx.hasPending x.uid l, cont := none, passed := 0 }
    match s2.pushGlade u.core e with
    | none => (back, .trap cFrame 2#64, false)
    | some s3 =>
      if s.edgeLost x.uid l then
        (back.modUnit x.uid fun v => v.modLane l fun y => { y with remoteDirty := false, lossSeen := s.losses },
          .trap cLink 0#64, false)
      else
        let s4 := s3.modCtx u.core fun c => c.passClaims x.uid l id
        match e.parent with
        | some a => ({ s4 with frames := s4.frames.adjust (fun f => { f with pend := f.pend + 1 }) a }, .next, true)
        | none => (s4, .next, true)

/-- Children created for the spawning lanes in order, numbered as they are created (R140). -/
def spawnAll (r : List Byte) (addr : W64) (arg : Nat → W64) (x : Issue) : List Nat → Nat → State →
    State × List (Nat × LaneOut)
  | [], _, s => (s, [])
  | l :: ls, k, s =>
    match spawnFault s (s.unit x.uid) r l with
    | some (c, info) =>
      let q := spawnAll r addr arg x ls k s
      (q.1, (l, .trap c info) :: q.2)
    | none =>
      let o := spawnOne r addr (arg l) k x l s
      let q := spawnAll r addr arg x ls (if o.2.2 then k + 1 else k) o.1
      (q.1, (l, o.2.1) :: q.2)

/-- SPAWN of a record, past its read (R140). The edges of the strands that spawn are waited for before any effect; under `.U`
every lane of Active performs one, and one that is lost traps its own lane. -/
def spawnPerform (group : Bool) (addr : W64) (arg : Nat → W64) (x : Issue) (r : List Byte) (s : State) : Res :=
  let u := s.unit x.uid
  let spawners := if group then x.lanes.take 1 else x.lanes
  let able := spawners.filter fun l => (spawnFault s u r l).isNone
  let edges := if group && !able.isEmpty then x.lanes else able
  if edges.any fun l => !s.edgeReady x.uid l then .wait (s.wbAll u.core)
  else
    let s1 := if edges.isEmpty then s else s.wbAll u.core
    if !edges.isEmpty && !s1.remoteOps.isEmpty then .wait s1
    else
      let q := spawnAll r addr arg x spawners 0 s1
      let others := (edges.filter fun l => !spawners.contains l && s1.edgeLost x.uid l).map fun l =>
        (l, LaneOut.trap cLink 0#64)
      let s2 := q.1.modUnit x.uid fun v => edges.foldl (fun w l =>
        w.modLane l fun y => { y with remoteDirty := false, lossSeen := q.1.losses }) v
      .done s2 (q.2 ++ others)

/-- SPAWN and SPAWN.U (R140). -/
def spawnBody (i : Instr) (group : Bool) (a b : Reg) (x : Issue) (s : State) : Res :=
  if x.act == 0#64 then .done s []
  else
    let u := s.unit x.uid
    let addr := u.src64 a 0
    match readRecord i addr x s with
    | .stop r => r
    | .got t bytes => spawnPerform group addr (fun l => u.src64 b l) x bytes t

/-- SPAWN (R139, R140). -/
def execSpawn (h : Hdr) (a b : Reg) (s : State) : Host.Outcome State Fault Refusal :=
  runIssue h (.spawn h a b) (raiseHeld (spawnBody (.spawn h a b) false a b)) s

/-- SPAWN.U (R139, R140). -/
def execSpawnU (h : Hdr) (a b : Reg) (s : State) : Host.Outcome State Fault Refusal :=
  runIssue h (.spawnU h a b) (raiseHeld (spawnBody (.spawnU h a b) true a b)) s

/-! ### AWAIT, EXIT, EXIT.S, EXITJ -/

/-- AWAIT (R141). -/
def awaitBody (x : Issue) (s : State) : Res :=
  let r := pollLanes (fun l t => (awaitPoll x.uid l t).orBlock .await) x.lanes s
  .done r.1 r.2

/-- AWAIT (R141). -/
def execAwait (h : Hdr) (s : State) : Host.Outcome State Fault Refusal := runIssue h (.await h) awaitBody s

/-- The lanes of Active at EXIT: each ends, or is blocked until its wait ends (R142, R159). -/
def exitBody (x : Issue) (s : State) : Res :=
  let r := pollLanes (fun l t => (exitPoll x.uid l t).orBlock .exit) x.lanes s
  .done r.1 r.2

/-- EXIT (R142). -/
def execExit (h : Hdr) (s : State) : Host.Outcome State Fault Refusal :=
  runIssueThen h (.exit h) (raiseHeld exitBody) groupRelease s

/-- The fault of a record that may not be registered (R143, R147). -/
def registerFault (s : State) (t : Task) (join : Bool) (addr : W64) (r : List Byte) : Option (Cause × W64) :=
  match recMalformed r false with
  | some info => some (cFootprint, info)
  | none =>
    if t.spadSize < recSpad r then some (cFootprint, 3#64)
    else if !s.fitsEmpty t.core r then some (cFootprint, 5#64)
    else
      match t.reg with
      | some g => if g.join == join && g.addr == addr then none else some (cFrame, 3#64)
      | none => none

/-- The registration of a successor or continuation, then what the instruction does with its lanes (R143). One that names the
registered record with the same instruction joins. -/
def registerThen (i : Instr) (join : Bool) (a b : Reg) (body : Issue → State → Res) (x : Issue) (s : State) : Res :=
  if x.act == 0#64 then .done s []
  else
    let u := s.unit x.uid
    let t := s.task u.task
    let addr := u.src64 a 0
    let joins := match t.reg with
      | some g => g.join == join && g.addr == addr
      | none => false
    if joins then body x s
    else
      match readRecord i addr x s with
      | .stop r => r
      | .got s1 bytes =>
        match registerFault s1 t join addr bytes with
        | some (c, info) => .done s1 (x.trapAll c info)
        | none =>
          body x (s1.modTask u.task fun k =>
            { k with reg := some { join := join, addr := addr, record := bytes, arg := u.src64 b 0 }, joins := 1 })

/-- EXIT.S (R142, R143). -/
def execExitS (h : Hdr) (a b : Reg) (s : State) : Host.Outcome State Fault Refusal :=
  runIssueThen h (.exitS h a b) (raiseHeld (registerThen (.exitS h a b) false a b exitBody)) groupRelease s

/-- The lanes of Active at EXITJ (R143). -/
def exitjBody (x : Issue) (s : State) : Res :=
  let r := pollLanes (fun l t => (exitjPoll x.uid l t).orBlock .exitj) x.lanes s
  .done r.1 r.2

/-- EXITJ (R143). -/
def execExitJ (h : Hdr) (a b : Reg) (s : State) : Host.Outcome State Fault Refusal :=
  runIssueThen h (.exitJ h a b) (raiseHeld (registerThen (.exitJ h a b) true a b exitjBody)) groupRelease s

/-! ### RGROW, RSHRK, YIELD -/

/-- RGROW: the present count, a fault above REGMAX, or a request that blocks until it is granted or denied; 0 on the
sequencer (R144). -/
def rgrowBody (d : Reg) (n : BitVec 8) (x : Issue) (s : State) : Res :=
  let u := s.unit x.uid
  if x.act == 0#64 then .done s []
  else if u.kind != .group then .done (s.setUnit x.uid (u.writeVar (.r d) [(0, 0#64)])) []
  else if n.toNat ≤ u.regs then .done (s.setUnit x.uid (u.writeVar (.r d) [(0, BitVec.ofNat 64 u.regs)])) []
  else if u.regmax < n.toNat then .done s (x.trapAll cFootprint 4#64)
  else
    let s1 := s.setUnit x.uid (u.pendDst (.r d) x.act)
    .done (s1.modCtx u.core fun c => { c with rgrow := c.rgrow ++ [(x.uid, n.toNat, d, (s.core u.core).cyc)] })
      (x.lanes.map fun l => (l, .block (.rgrow d n.toNat)))

/-- RGROW (R144). -/
def execRgrow (h : Hdr) (d : Reg) (n : BitVec 8) (s : State) : Host.Outcome State Fault Refusal :=
  runIssue h (.rgrow h d n) (rgrowBody d n) s

/-- Whether a destination is a vector register at or above a number. -/
def Dst.atLeast (d : Dst) (n : Nat) : Bool :=
  match d with
  | .r (.v k) => decide (n ≤ k.val)
  | _ => false

/-- A group's register count set; registers at and above a lower one are freed, with results that are due in them, and a
register that a later growth adds is zero (R144, R145). -/
def Unit.setRegs (u : Unit) (n : Nat) : Unit :=
  { u with
    regs := n, vregs := u.vregs.keep fun k _ => decide (k < 64 * n),
    late := u.late.filter fun x => !x.dst.atLeast n, vpend := u.vpend.filter fun v => !v.dst.atLeast n }

/-- RSHRK (R145). -/
def rshrkBody (n : BitVec 8) (x : Issue) (s : State) : Res :=
  let u := s.unit x.uid
  if x.act != 0#64 && u.kind == .group && decide (n.toNat < u.regs) then .done (s.setUnit x.uid (u.setRegs n.toNat)) []
  else .done s []

/-- RSHRK (R145). -/
def execRshrk (h : Hdr) (n : BitVec 8) (s : State) : Host.Outcome State Fault Refusal :=
  runIssue h (.rshrk h n) (rshrkBody n) s

/-- YIELD: where SOFT is set and the shadow bank holds a filled set, the swap takes place at the boundary after it (R146). -/
def yieldBody (x : Issue) (s : State) : Res :=
  let core := (s.unit x.uid).core
  let c := s.core core
  if x.act != 0#64 && c.softSwap && c.ready then .done (s.setCore core { c with yielded := true }) [] else .done s []

/-- YIELD (R146). -/
def execYield (h : Hdr) (s : State) : Host.Outcome State Fault Refusal := runIssue h (.yield h) yieldBody s

end Sys2Proof.Machine
end

