-- ==== Sys2Proof/Machine/Waits.lean ====
section
/-! DEFINITION. Blocked states and their release (R159, R162): what each blocked lane or entry waits for is looked at between
issues, and what has ended is released. -/

namespace Sys2Proof.Machine

/-- The ordered wait of a lane at `.retire` (R171). -/
def ordPoll (e : Entry) (uid l : Nat) (s : State) : Poll :=
  let u := s.unit uid
  let a := (u.lane l).age.toNat
  match u.loop with
  | some lp => if a == 0 || lp.finished.contains (a - 1) then .go s (.jump e.pc e.prio) else .wait s
  | none => .go s (.jump e.pc e.prio)

/-- A lane that a matrix reset has reached gives up its place among those that wait for a grant (R166, R382)
(DEDUCED, assumption log 43). -/
def State.leaveGrants (s : State) (uid l : Nat) : State :=
  s.modUnit uid fun u => { u with loop := u.loop.map fun lp => { lp with waiting := lp.waiting.filter fun k => k != l } }

/-- What a blocked lane's wait comes to, where it waits by itself (R159). A grant waited for is given up by a lane that a matrix
reset has reached (R382). -/
def lanePoll (e : Entry) (w : Wait) (uid l : Nat) (s : State) : Option Poll :=
  match w with
  | .await => some (awaitPoll uid l s)
  | .exit => some (exitPoll uid l s)
  | .exitj => some (exitjPoll uid l s)
  | .rfl bp held => some (rflPoll bp held uid l s)
  | .grant bp =>
    if ((s.unit uid).lane l).mreset then some (.go (s.leaveGrants uid l) (.jump e.pc e.prio))
    else some (grantPoll bp uid l s)
  | .ord => some (ordPoll e uid l s)
  | _ => none

/-- The issue that a blocked entry stands for when some of its lanes are released. -/
def Entry.issue (e : Entry) (uid len : Nat) (m : LMask) : Issue :=
  { uid := uid, pc := e.pc, len := len, mask := m, act := m, prio := e.prio, opc := 0 }

/-- The lanes of a blocked entry polled one by one; those whose wait has ended leave it (R157, R159). -/
def pollEntry (e : Entry) (w : Wait) (uid : Nat) (s : State) : State :=
  let r := (lanesOf e.mask).foldl (fun (acc : State × List (Nat × LaneOut)) l =>
    match lanePoll e w uid l acc.1 with
    | some (.wait t) => (t, acc.2)
    | some (.go t out) => (t, acc.2 ++ [(l, out)])
    | none => acc) (s, [])
  let gone := r.2.filter fun p => p.2 != .block w
  if gone.isEmpty then r.1 else r.1.settle (e.issue uid 8 (maskOf (gone.map Prod.fst))) e.solo gone

/-- The attempt of a blocked entry that waits as a whole: an AWF, a CPS, a queue wait (R159). -/
def pollWhole (e : Entry) (w : Wait) (uid : Nat) (s : State) : State :=
  let done (len : Nat) (t : State) (outs : List (Nat × LaneOut)) : State := t.settle (e.issue uid len e.mask) e.solo outs
  let k := s.task (s.unit uid).task
  let slotThere (r : Ring) : Bool := match k.rings.get r.toNat with
    | some g => k.slotReady g
    | none => true
  match w with
  | .awf d r =>
    match awfTry uid d r e.mask s with
    | some (t, outs) => done 8 t outs
    | none => s
  | .cps keep aon dsp r a b =>
    if !slotThere r then s
    else match cpsBody (.cps { stall := 0#4, pred := 7#3, pneg := false } keep aon dsp (.ring r) a b) keep aon dsp (.ring r) a b
        (e.issue uid 16 e.mask) s with
    | .wait t => t
    | .done t outs => if outs.any fun p => p.2 == .block w then s else done 16 t outs
  | .qpop d q tag =>
    match qpopTry uid d q tag e.mask s with
    | some (t, outs) => done 8 t outs
    | none => s
  | .qpush words tag q =>
    match s.putEntry (s.unit uid).task q { words := words, tag := tag } with
    | some t => done 8 t []
    | none => s
  | _ => s

/-- One blocked entry looked at. -/
def pollBlocked (uid : Nat) (s : State) (e : Entry) : State :=
  match e.blk with
  | none => s
  | some w =>
    match w with
    | .awf .. => pollWhole e w uid s
    | .cps .. => pollWhole e w uid s
    | .qpop .. => pollWhole e w uid s
    | .qpush .. => pollWhole e w uid s
    | _ => pollEntry e w uid s

/-- The blocked entries of a unit looked at, and the releases that concern the whole group (R164, R168, R172). A unit that runs
ahead, or waits for pages, stands still. -/
def refreshUnit (uid : Nat) (s : State) : State :=
  let u := s.unit uid
  if u.runAhead.isSome || !u.service.isEmpty then s
  else
    let s1 := s.feedGrants uid
    groupRelease uid (((s1.unit uid).frontier.filter fun e => e.blk.isSome).foldl (pollBlocked uid) s1)

/-- The units of the tasks that are resident on a core. -/
def State.residentUnits (s : State) (core : Nat) : List Nat := (s.core core).ctx.tasks.flatMap fun t =>
  if (s.task t).st == .resident then (s.task t).units else []

/-- Every entry that waits in a queue, on any level (R131). -/
def State.queuedEntries (s : State) : List QEntry :=
  s.cores.vals.flatMap Core.glade ++ s.copse.vals.flatten ++ s.dies.vals.flatMap (fun d => d.canopy ++ d.stolen.vals.flatten)
    ++ s.parts.vals.flatMap fun p => p.overflow.map Prod.snd

/-- Whether an awaiting strand of a task has a child that is not placed (R148). -/
def State.childWaits (s : State) (t : Nat) : Bool :=
  let q := s.queuedEntries
  (s.task t).units.any fun uid => (s.unit uid).lanes.vals.any fun y =>
    match y.frame with
    | some a => (match s.frames.get a with
      | some f => f.status == 2 || f.status == 4
      | none => false) && q.any fun e => e.parent == some a
    | none => false

/-- Since when an awaiting strand of each resident task has had a child unplaced (R148). -/
def State.noteAwaits (s : State) : State :=
  { s with tasks := s.tasks.mapVal fun n t =>
      if t.st != .resident then t
      else if s.childWaits n then
        { t with awaitSince := (match t.awaitSince with
          | some c => some c
          | none => some (s.core t.core).cyc) }
      else { t with awaitSince := none } }

/-- Whether an entry of a core's glade queue fits but for what a pending inheritance holds (R143). -/
def State.heldBack (s : State) (core t : Nat) (e : QEntry) : Bool :=
  let free := { s with tasks := s.tasks.del t }.modCtx core fun c => { c with tasks := c.tasks.filter fun k => k != t }
  (s.fitsNow core e).isNone && (free.fitsNow core e).isSome

/-- The pending inheritances of a core for lack of whose part a glade entry fails to fit, each with the cycle since which it does
(R143). -/
def State.noteFails (s : State) (core : Nat) : State :=
  let c := s.core core
  let held := c.ctx.tasks.filter fun t => (s.task t).st == .pending && c.glade.any fun e => s.heldBack core t e
  let since (t : Nat) : W64 := (c.failSince.get t).getD c.cyc
  s.setCore core { c with failSince := held.foldl (fun m t => SMap.set m t (since t)) [] }

/-- Cores on which something may wait: they hold tasks. -/
def State.busyCores (s : State) : List Nat := (s.cores.keep fun _ c => !c.ctx.tasks.isEmpty).keys

/-- Whether every live lane of a group waits in SYNG or in RFL.ORD's ordered wait (R174, R253). -/
def Unit.waitsCycle (u : Unit) : Bool :=
  u.kind == .group && !u.frontier.isEmpty && u.frontier.all fun e => e.blk == some .syng || e.blk == some .ord

/-- Since when the live lanes of a group have all waited in SYNG or an ordered wait (R253). -/
def State.noteCycle (s : State) (uid : Nat) : State :=
  let u := s.unit uid
  if u.waitsCycle then s else s.setUnit uid { u with lastRelease := some (s.core u.core).cyc }

/-- What is looked at between issues: the blocked entries of every resident unit, and the waits that are timed (R143, R148,
R159). -/
def State.refresh (s : State) : State :=
  let us := s.busyCores.flatMap s.residentUnits
  let s1 := us.foldl State.noteCycle (us.foldl (fun t uid => refreshUnit uid t) s)
  s1.busyCores.foldl State.noteFails s1.noteAwaits

end Sys2Proof.Machine
end

