-- ==== Sys2Proof/Machine/Coalesce.lean ====
section
/-! DEFINITION. The coalescer's records as they close and reach the fault ring (R251, R252, R421), hang and wait-cycle reports
(R253), and the end and the service of a group's page fault (R249, R250). -/

namespace Sys2Proof.Machine

/-! ### Records -/

/-- The 64 bytes of a coalescer record (R251). -/
def CoalRec.bytes (r : CoalRec) (core : Nat) : List Byte :=
  valBytes 4 (r.cause % 256 + 2 ^ 8 * (r.kind % 256) + 2 ^ 16 * (r.part % 256)) ++ valBytes 4 r.cyc.toNat
    ++ valBytes 8 r.addr.toNat ++ valBytes 8 r.pc.toNat ++ valBytes 4 (r.lane % 2048 + 2 ^ 24 * core) ++ valBytes 4 0
    ++ valBytes 32 r.groups.toNat

/-- The first event that waits for the coalescer given to it again, where it can be taken (R252). -/
def State.coalRetry (s : State) (core : Nat) : State :=
  let c := s.core core
  match c.coalWait with
  | [] => s
  | r :: rest =>
    let t := (s.setCore core { c with coalWait := rest }).coalEvent core r
    if rest.length < (t.core core).coalWait.length then s else t

/-- Cycles for which a record stays open (R252). -/
def openCycles : Nat := 256

/-- COALESCER_RECORD_CLOSE: the oldest open record closes 256 cycles after it opened (R252). -/
def evCoalescerRecordClose (core : Nat) (s : State) : State :=
  let c := s.core core
  match c.coal with
  | [] => s
  | r :: rest =>
    if (c.cyc - r.cyc).toNat < openCycles then s
    else (s.setCore core { c with coal := rest, coalClosed := c.coalClosed ++ [r] }).coalRetry core

/-- Whether a partition's fault ring takes a record: it is laid out, and it is not full (R421) (DEDUCED, assumption log 46). -/
def Arena.takesRecord (a : Arena) : Bool := a.frLog != 0#5 && !a.ringFull

/-- A record written to its partition's fault ring, FRHEAD and the fault interrupt counted (R421). -/
def State.ringWrite (s : State) (core : Nat) (r : CoalRec) : State :=
  let a := (s.part r.part).arena
  let at_ := a.frBase.toNat + 64 * (a.frHead.toNat % 2 ^ a.frLog.toNat)
  (s.homeWriteN at_ (r.bytes core)).modPart r.part fun p =>
    { p with arena := { p.arena with frHead := p.arena.frHead + 1#32 }, faultIrq := p.faultIrq + 1 }

/-- FAULT_RING_WRITE: the oldest closed record is written once the ring has room (R252, R421). -/
def evFaultRingWrite (core : Nat) (s : State) : State :=
  let c := s.core core
  match c.coalClosed with
  | [] => s
  | r :: rest =>
    if (s.part r.part).arena.takesRecord then
      ((s.setCore core { c with coalClosed := rest }).ringWrite core r).coalRetry core
    else s

/-! ### Hangs (R253) -/

/-- The live groups of a task, by group slot. -/
def State.liveGroups (s : State) (t : Nat) : List (Nat × Nat) :=
  ((s.task t).units.filter fun uid => (s.unit uid).kind == .group && !(s.unit uid).isOver).map fun uid =>
    ((s.unit uid).slot, uid)

/-- The first of some groups by slot. -/
def lowestSlot : List (Nat × Nat) → Option (Nat × Nat)
  | [] => none
  | g :: gs => some (gs.foldl (fun a b => if b.1 < a.1 then b else a) g)

/-- The entry of lowest PC of a list. -/
def lowestEntry : List Entry → Option Entry
  | [] => none
  | e :: es => some (es.foldl (fun a b => if b.pc.ult a.pc then b else a) e)

/-- The PC and the lowest lane that a hang report names: the selected entry's, or else the lowest entry's
(DEDUCED, assumption log 45). -/
def Unit.hangAt (u : Unit) : W64 × Nat :=
  match u.pick with
  | some e => (e.pc, lowest e.mask)
  | none => match lowestEntry u.frontier with
    | some e => (e.pc, lowest e.mask)
    | none => (0#64, 0)

/-- Whether a lane of a task waits in AWAIT or an implicit await on a frame that counts children (R253). -/
def State.awaitsChild (s : State) (t : Nat) : Bool :=
  (s.task t).units.any fun uid => (s.unit uid).lanes.vals.any fun y =>
    match y.frame with
    | some a => match s.frames.get a with
      | some f => f.status == 2 && decide (0 < f.pend)
      | none => false
    | none => false

/-- Whether a lane of a task is stopped (R399). -/
def State.hasStopped (s : State) (t : Nat) : Bool :=
  (s.task t).units.any fun uid => (s.unit uid).frontier.any fun e => match e.blk with
    | some (.stopped _) => true
    | _ => false

/-- Whether a task is hung (R253). -/
def State.isHung (s : State) (t : Nat) : Bool :=
  let k := s.task t
  let c := s.core k.core
  k.st == .resident && c.ctx.tasks.contains t && !(s.liveGroups t).isEmpty && !s.awaitsChild t && !s.hasStopped t
    && decide (2 ^ c.hangLim.toNat ≤ (c.cyc - k.lastAct).toNat)

/-- A KIND 2 record with its trace record of TYPE 0x0A (R253, R392). -/
def State.hangRecord (s : State) (uid l : Nat) (pc : W64) (groups : BitVec 256) : State :=
  let u := s.unit uid
  let r := s.coalRecord uid l 2 0 pc pc
  (s.coalEvent u.core { r with groups := groups }).traceLane uid l 0x0A 0 pc (BitVec.ofNat 32 u.slot)

/-- HANG_REPORT: one KIND 2 record for a hung task, with the slots of its groups (R253). -/
def evHangReport (t : Nat) (s : State) : State :=
  let k := s.task t
  if !(s.core k.core).hangEn || k.hungSent || !s.isHung t then s
  else
    match lowestSlot (s.liveGroups t) with
    | none => s
    | some (_, uid) =>
      let w := (s.unit uid).hangAt
      let bits := (s.liveGroups t).foldl (fun m g => m ||| BitVec.twoPow 256 g.1) 0#256
      (s.hangRecord uid w.2 w.1 bits).modTask t fun x => { x with hungSent := true }

/-- WAIT_CYCLE_REPORT: one KIND 2 record for a group whose live lanes wait in SYNG or an ordered wait (R174, R253). -/
def evWaitCycleReport (uid : Nat) (s : State) : State :=
  let u := s.unit uid
  let c := s.core u.core
  match u.lastRelease, lowestEntry u.frontier with
  | some since, some e =>
    if c.hangEn && c.ctx.tasks.contains u.task && (s.task u.task).st == .resident && u.waitsCycle
        && decide (2 ^ c.hangLim.toNat ≤ (c.cyc - since).toNat) then
      (s.hangRecord uid (lowest e.mask) e.pc u.groupBit).modUnit uid fun v => { v with lastRelease := none }
    else s
  | _, _ => s

/-! ### Page faults of groups -/

/-- RUN_AHEAD_END: run-ahead ends and the group rolls back (R249). -/
def evRunAheadEnd (uid : Nat) (s : State) : State := if (s.unit uid).aheadEnded then s.endAhead uid else s

/-- PAGE_FAULT_SERVICE: the kernel has served the batch of a group or a sequencer, by mapping its pages or by naming them
undeliverable, and the unit issues the faulting instruction afresh (R250). -/
def evPageFaultService (uid : Nat) (undeliverable : List Nat) (s : State) : State :=
  let u := s.unit uid
  if u.kind == .acc || u.service.isEmpty then s
  else
    (s.addUndeliverable (s.task u.task).asn (u.service.filter fun g => undeliverable.contains g)).setUnit uid
      { u with service := [], replays := u.replays + 1 }

end Sys2Proof.Machine
end

