-- ==== Sys2Proof/Machine/Debug.lean ====
section
/-! DEFINITION. Breakpoints, resume and step (R399, R400), writes by the kernel to a stopped lane (R400), samples (R395), the trace
sink's segments (R397, R398) and heartwood's FROZEN bit (R401). -/

namespace Sys2Proof.Machine

/-! ### Breakpoints -/

/-- The most PAD32 parcels skipped at one fetch. -/
def padFuel : Nat := 4096

/-- Whether a comparator matches an instruction of a lane (R399). -/
def Comparator.hits (c : Comparator) (u : Unit) (l : Nat) (pc : W64) : Bool :=
  c.en && c.addr == pc && (c.all || (u.kind == .group && c.slot.toNat == u.laneSlot l))

/-- The comparator that stops a lane, lowest number first (R399). A stepped lane's entry is not stopped again before its issue
(R400) (DEDUCED, assumption log 44). -/
def State.stopFor (s : State) (uid l : Nat) : Option (Nat × W64) :=
  let u := s.unit uid
  match u.entryOf l with
  | none => none
  | some e =>
    if e.blk.isSome || e.solo then none
    else
      let pc := s.firstInstr uid e.pc padFuel
      ((s.core u.core).comparators.find? fun p => p.2.hits u l pc).map fun p => (p.1, pc)

/-- BREAKPOINT_STOP: a lane whose next instruction matches an enabled comparator leaves its entry, stopped before the issue
(R399). -/
def evBreakpointStop (uid l : Nat) (s : State) : State :=
  match s.stopFor uid l, (s.unit uid).entryOf l with
  | some (n, pc), some e =>
    (s.modUnit uid fun u => u.place (laneBit l) pc e.prio (some (.stopped false))).stopReport uid l pc n 0#32
  | _, _ => s

/-- Whether a lane is stopped, and where, and whether at a BRK (R399). -/
def Unit.stoppedAt (u : Unit) (l : Nat) : Option (Entry × Bool) :=
  match u.entryOf l with
  | some e => match e.blk with
    | some (.stopped b) => some (e, b)
    | _ => none
  | none => none

/-- Bytes of BRK (R209). -/
def brkBytes : W64 := 8#64

/-- RESUME: a stopped lane rejoins the frontier at its PC with its priority, after its BRK where that stopped it (R400). -/
def evResume (uid l : Nat) (s : State) : State :=
  match (s.unit uid).stoppedAt l with
  | some (e, brk) => s.modUnit uid fun u => u.place (laneBit l) (if brk then e.pc + brkBytes else e.pc) e.prio none
  | none => s

/-- STEP: a stopped lane rejoins as an entry of its own, which stops again after its next issue (R400). -/
def evStep (uid l : Nat) (s : State) : State :=
  match (s.unit uid).stoppedAt l with
  | some (e, brk) =>
    let pc := if brk then e.pc + brkBytes else e.pc
    s.modUnit uid fun u =>
      { u with frontier := takeLanes u.frontier (laneBit l)
          ++ [{ pc := pc, prio := e.prio, mask := laneBit l, blk := none, cnt := 0, aged := false, solo := true }] }
  | none => s

/-- A special register of a lane written by the kernel (R235, R400): those that the lane holds. The others name its place, its task
or its core, and stay. -/
def Lane.setSpecial (x : Lane) (n : BitVec 8) (v : W64) : Lane :=
  match n.toNat with
  | 0x04 => { x with iter := lo32 v }
  | 0x05 => { x with age := lo32 v }
  | 0x09 => { x with depth := v.toNat }
  | 0x0A => { x with tpc := v }
  | 0x0B => { x with tcause := lo32 v }
  | 0x0C => { x with tinfo := v }
  | _ => x

/-- A write by the kernel to a stopped lane (R400): its PC, a register, a predicate or a special register. -/
def debugWrite (uid l : Nat) (w : DebugWrite) (s : State) : State :=
  let u := s.unit uid
  match u.stoppedAt l with
  | none => s
  | some (e, _) =>
    s.setUnit uid (match w with
      | .pc v => u.place (laneBit l) v e.prio (some (.stopped false))
      | .reg r v => u.writeVar (.r r) [(if isVec r then l else 0, v)]
      | .pred p v => u.writeVar (.p p) [(l, if v then 1#64 else 0#64)]
      | .special n v => u.modLane l fun y => y.setSpecial n v)

/-! ### Samples -/

/-- SAMPLE: the head and the body of the first sample whose last data has returned (R395). -/
def evSample (core : Nat) (s : State) : State :=
  match (s.core core).samples.find? fun m => m.req.isNone with
  | none => s
  | some m => (s.modCore core fun c => { c with samples := c.samples.filter fun x => x != m }).writeSample core m

/-! ### Segments -/

/-- The 32 bytes of a trace record (R391, R396). -/
def TraceRec.bytes (r : TraceRec) : List Byte :=
  let w0 := valBytes 8 (r.ty + 2 ^ 8 * (r.aux % 256) + 2 ^ 16 * (r.seq % 2 ^ 48))
  let w7 := valBytes 4 (r.lane % 2048 + 2 ^ 11 * (r.unit % 4) + 2 ^ 16 * (r.part % 256) + 2 ^ 24 * (r.core % 256))
  match r.body with
  | some b => w0 ++ b ++ w7
  | none => w0 ++ valBytes 8 r.cyc.toNat ++ valBytes 8 r.pc.toNat ++ valBytes 4 r.data.toNat ++ w7

/-- The flush limit of a core in cycles (R393). -/
def Core.flushLimit (c : Core) : Nat := 2 ^ nbits c.traceCtl.toNat 0 5

/-- Whether a core that wrote into a segment has had no further record for its flush limit (R398). -/
def State.segmentStale (s : State) (g : Segment) : Bool :=
  g.recs.any fun r => decide ((s.core r.core).flushLimit ≤ ((s.core r.core).cyc - (s.core r.core).lastTrace).toNat)

/-- SEGMENT_CLOSE: the open segment of a die closes short (R398). -/
def evSegmentClose (die : Nat) (s : State) : State :=
  s.modDie die fun d =>
    { d with segments := d.segments.map fun g => if !g.closed && s.segmentStale g then { g with closed := true } else g }

/-- The bytes of a segment before its digest: header, records and padding (R397). -/
def Segment.body (g : Segment) (die overwritten : Nat) (prev : List Byte) : List Byte :=
  let recs := g.recs.flatMap TraceRec.bytes
  valBytes 4 0x4352544E ++ valBytes 4 (die % 4 + 4) ++ valBytes 8 g.segno ++ valBytes 4 overwritten
    ++ valBytes 4 g.recs.length ++ List.replicate 40 0#8 ++ prev ++ recs
    ++ List.replicate (1048384 - recs.length) 0#8

/-- Bytes of a segment (R397). -/
def segmentBytes : Nat := 2 ^ 20

/-- SEGMENT_SUBMIT: the oldest closed segment is sealed and submitted (R397, R398). Where the kernel has placed the staging ring,
the segment's place holds its bytes from then on (DESIGN CHOICE, assumption log 20). -/
def evSegmentSubmit (die : Nat) (s : State) : State :=
  let d := s.die die
  match d.segments.find? fun g => g.closed && !g.submitted with
  | none => s
  | some g =>
    let body := g.body die d.overwritten d.prevDigest
    let dig := Config.shake256 64 body
    let segs := d.segments.map fun x =>
      if x.segno == g.segno then { x with submitted := true, overwritten := d.overwritten } else x
    let t := s.setDie die { d with segments := segs, overwritten := 0, prevDigest := dig }
    if d.staging == 0#64 then t else t.homeWriteN (d.staging.toNat + segmentBytes * g.place) (body ++ dig.take 64)

/-- SEGMENT_WRITE_COMPLETION: the write of the oldest submitted segment completes, and its place is free (R398). -/
def evSegmentWriteCompletion (die : Nat) (s : State) : State :=
  let d := s.die die
  match d.segments.find? fun g => g.submitted with
  | none => s
  | some g => s.setDie die { d with segments := d.segments.filter fun x => x.segno != g.segno }

/-- HEARTWOOD_FROZEN_CLEAR: a 1 written to FROZEN, and recording resumes (R401). -/
def evHeartwoodFrozenClear (die : Nat) (s : State) : State := s.modDie die fun d => { d with heartFrozen := false }

end Sys2Proof.Machine
end

