-- ==== Sys2Proof/Machine/MatMath.lean ====
section
/-! DEFINITION. The arithmetic of the matrix engine: decoding of scaled elements (R92, R345), chunk sums and their special
values (R102 to R108), the Hadamard transform (R346) and pruning (R364). -/

namespace Sys2Proof.Machine

/-! ### Operands -/

/-- R92: a scaled E4M3 or BF16 (K4 codebook) encoding decoded to a BF16 encoding. -/
def decodeScaled (e4 : Bool) (v e : Nat) : Nat :=
  if e == 255 then 0x7FC0
  else
    match (if e4 then e4m3 else bf16).decode v with
    | .nan => 0x7FC0
    | .inf n => bf16.signed n 0x7F80
    | .fin n m x =>
      if m == 0 then bf16.signed n 0
      else
        let y : Int := x + e - 127
        if Nat.log2 m + y < -126 then bf16.signed n 0
        else
          let mag := bf16.roundMag .rn n m y
          if mag ≤ 0x7F7F then bf16.signed n mag else if e4 then 0x7FC0 else bf16.signed n 0x7F80

/-- The format of the values that a KIND brings to the array: FP16 itself, BF16 for BF16, decoded K4 and decoded E4M3. -/
def sideFmt (kind : Nat) : Fmt := if kind == 2 then fp16 else bf16

/-- An element at K index k as it enters the array (R345). -/
def sideValue (kind : Nat) (scales : List Byte) (k v : Nat) : Nat :=
  if kind == 4 then decodeScaled true v (scales.getD (k / 32) 0#8).toNat else v

/-- One side of a pass: the KIND and its values, K index after K index, for each row or column. -/
structure Side where
  kind : Nat
  vecs : List (List Nat)
  deriving DecidableEq, Repr

/-- Row i of a streamed tile for K below an extent: +0 at or above its SHAPE columns, and where it is absent (R105, R340). -/
def streamRow (h : TileHdr) (es : Elems) (i kext : Nat) : List Nat :=
  (List.range kext).map fun k =>
    sideValue h.kind h.scales k (if k < h.cols then (SMap.get es (i * h.cols + k)).getD 0 else 0)

/-- Column n of a stationary bitmap tile for K below an extent (R343). -/
def tileColumn (h : TileHdr) (es : Elems) (n kext : Nat) : List Nat :=
  (List.range kext).map fun k => sideValue h.kind h.scales k ((SMap.get es (k * h.cols + n)).getD 0)

/-- Whether a vector of a side holds an infinity or a NaN (R108, R355). -/
def Side.marked (d : Side) (xs : List Nat) : Bool := d.kind != 5 && xs.any fun v => (sideFmt d.kind).special v

/-- A value of a side as the mode reads it: Mode F takes every encoding for a finite value (R108). -/
def Side.num (d : Side) (modeF : Bool) (v : Nat) : Num :=
  if modeF then (sideFmt d.kind).finite v else (sideFmt d.kind).decode v

/-! ### Chunks -/

/-- Whether a number is an infinity of a sign. -/
def Num.isInf (neg : Bool) : Num → Bool
  | .inf n => n == neg
  | _ => false

/-- Whether a number is a NaN. -/
def Num.isNan : Num → Bool
  | .nan => true
  | _ => false

/-- Whether a number is a zero. -/
def Num.isZero : Num → Bool
  | .fin _ m _ => m == 0
  | _ => false

/-- The result of one chunk from its products (R103, R107): the exact sum of the non-zero products, rounded once. -/
def chunkOf (ps : List Num) : W32 :=
  let pos := ps.any (Num.isInf false)
  let neg := ps.any (Num.isInf true)
  if ps.any Num.isNan || (pos && neg) then 0x7FC00000#32
  else if pos then 0x7F800000#32
  else if neg then 0xFF800000#32
  else
    let sum := (ps.filter fun p => !p.isZero).foldl (Num.add .rn) (.fin false 0 0)
    if sum.isZero then 0#32 else round32 .rn sum

/-- A cell's chunk additions, in increasing chunk order (R103). -/
def reduceFp : Nat → List Num → List Num → W32 → W32
  | 0, _, _, acc => acc
  | c + 1, xs, ys, acc =>
    reduceFp c (xs.drop 16) (ys.drop 16) (add32 .rn acc (chunkOf (((xs.take 16).zip (ys.take 16)).map fun p => p.2.mul p.1)))

/-- A cell's chunk additions in integers, with whether one left the range of INT32 (R106). -/
def reduceInt : Nat → List Int → List Int → W32 × Bool → W32 × Bool
  | 0, _, _, acc => acc
  | c + 1, xs, ys, acc =>
    let v := acc.1.toInt + (((xs.take 16).zip (ys.take 16)).map fun p => p.1 * p.2).foldl (· + ·) 0
    reduceInt c (xs.drop 16) (ys.drop 16)
      (BitVec.ofInt 32 v, acc.2 || decide (v < -(2 ^ 31)) || decide (2 ^ 31 ≤ v))

/-- Chunks of a pass: Depth / 16 (R103). -/
def chunksOf (kind : Nat) : Nat := if kind == 4 || kind == 5 then 8 else 4

/-- What a pass does to one accumulator row: the row's cells by column, the mark, and OVF. -/
structure RowAcc where
  cells : List W32
  mark : Bool
  ovf : Bool
  deriving DecidableEq, Repr

/-- One streamed row passed over the stationary columns (R103, R106, R107, R108, R355, R360). -/
def passRow (set modeF : Bool) (xside yside : Side) (xs : List Nat) (r : RowAcc) : RowAcc :=
  let start (c : W32) : W32 := if set then 0#32 else c
  let mark0 := !set && r.mark
  let n := chunksOf yside.kind
  if yside.kind == 5 then
    let xi := xs.map (sgnOf 8)
    let out := (r.cells.zip yside.vecs).map fun p => reduceInt n xi (p.2.map (sgnOf 8)) (start p.1, false)
    { cells := out.map Prod.fst, mark := mark0, ovf := r.ovf || out.any Prod.snd }
  else
    let xn := xs.map (xside.num modeF)
    { cells := (r.cells.zip yside.vecs).map fun p => reduceFp n xn (p.2.map (yside.num modeF)) (start p.1),
      mark := mark0 || (modeF && (xside.marked xs || yside.vecs.any yside.marked)), ovf := r.ovf }

/-! ### The Hadamard transform (R346) -/

/-- One FP32 subtraction, to nearest even. -/
def sub32 (a b : W32) : W32 := round32 .rn ((num32 a).add .rn (num32 b).neg)

/-- One stage of the transform over a row of any number of blocks. -/
def hadamardStage (h : Nat) (xs : List W32) : List W32 :=
  (List.range xs.length).map fun j =>
    if j % (2 * h) < h then add32 .rn (xs.getD j 0#32) (xs.getD (j + h) 0#32)
    else sub32 (xs.getD (j - h) 0#32) (xs.getD j 0#32)

/-- The stages s, s + 1, … of the transform. -/
def hadamardFrom : Nat → Nat → List W32 → List W32
  | 0, _, xs => xs
  | n + 1, s, xs => hadamardFrom n (s + 1) (hadamardStage (2 ^ s) xs)

/-- The conversion type of a floating-point tile KIND. -/
def kindTy (kind : Nat) : CvtTy :=
  match kind with
  | 1 => .bf16
  | 2 => .f16
  | 4 => .e4m3
  | 5 => .s8
  | 7 => .s32
  | _ => .f32

/-- A row transformed in blocks of 2^lg columns (R346). -/
def hadamardRow (kind lg : Nat) (row : List Nat) : List Nat :=
  (hadamardFrom lg 0 (row.map fun v => convert .f32 (kindTy kind) .rn false false v)).map fun v =>
    (convert (kindTy kind) .f32 .rn false false v.toNat).toNat

/-! ### Pruning (R364) -/

/-- The kept elements without `.tr`: in each column and group of m rows, the n of greatest magnitude. -/
def pruneCols (h : TileHdr) (es : Elems) (n m : Nat) : Elems :=
  let val (i : Nat) : Nat := (SMap.get es i).getD 0
  ((List.range h.cols).flatMap fun c => (List.range (h.rows / m)).map fun g => (c, g)).foldl (fun (k : Elems) (x : Nat × Nat) =>
    (greatest n ((List.range m).map fun j =>
      (magKey h.kind h.codebook (val ((m * x.2 + j) * h.cols + x.1)), (m * x.2 + j) * h.cols + x.1))).foldl
      (fun (k : Elems) (i : Nat) => SMap.set k i (val i)) k) []

/-- A square block: its side, its first row and column, and the columns of the tile. -/
structure Blk where
  m : Nat
  r0 : Nat
  c0 : Nat
  cols : Nat
  deriving DecidableEq, Repr

/-- The index of a position of a block. -/
def Blk.idx (b : Blk) (r c : Nat) : Nat := (b.r0 + r) * b.cols + b.c0 + c

/-- Whether a position of a block is kept. -/
def Blk.kept (b : Blk) (k : Elems) (r c : Nat) : Bool := (SMap.get k (b.idx r c)).isSome

/-- Kept positions in a block row. -/
def Blk.rowCount (b : Blk) (k : Elems) (r : Nat) : Nat := ((List.range b.m).filter fun c => b.kept k r c).length

/-- Kept positions in a block column. -/
def Blk.colCount (b : Blk) (k : Elems) (c : Nat) : Nat := ((List.range b.m).filter fun r => b.kept k r c).length

/-- The positions of a block by descending magnitude, ties by lower row-major index. -/
def Blk.order (b : Blk) (key : Nat → Nat) : List (Nat × Nat) :=
  ((((List.range b.m).flatMap fun r => (List.range b.m).map fun c => (r, c)).foldl
    (fun (acc : List (Nat × Nat)) (p : Nat × Nat) => insertMag (key (b.idx p.1 p.2), p.1 * b.m + p.2) acc) []).map Prod.snd).map
      fun j => (j / b.m, j % b.m)

/-- The greedy pass over a block. -/
def Blk.greedy (b : Blk) (n : Nat) (val : Nat → Nat) : List (Nat × Nat) → Elems → Elems
  | [], k => k
  | p :: ps, k =>
    b.greedy n val ps
      (if b.rowCount k p.1 < n && b.colCount k p.2 < n then SMap.set k (b.idx p.1 p.2) (val (b.idx p.1 p.2)) else k)

/-- One position of a block row filled with padding, by a free column or by the exchange. -/
def Blk.pad (b : Blk) (n fill r : Nat) (k : Elems) : Elems :=
  let cs := List.range b.m
  match cs.find? fun c => decide (b.colCount k c < n) && !b.kept k r c with
  | some c => SMap.set k (b.idx r c) fill
  | none =>
    match cs.find? (fun c => decide (b.colCount k c < n)), cs.find? (fun c => !b.kept k r c) with
    | some c, some c1 =>
      match cs.find? fun r1 => b.kept k r1 c1 && !b.kept k r1 c with
      | some r1 => SMap.set (SMap.set (SMap.del k (b.idx r1 c1)) (b.idx r c1) fill) (b.idx r1 c) fill
      | none => k
    | _, _ => k

/-- A block row filled until it holds n positions. -/
def Blk.fillRow (b : Blk) (n fill r : Nat) : Nat → Elems → Elems
  | 0, k => k
  | f + 1, k => if b.rowCount k r < n then b.fillRow n fill r f (b.pad n fill r k) else k

/-- The kept elements of one block under `.tr`. -/
def Blk.prune (b : Blk) (n fill : Nat) (val key : Nat → Nat) : Elems :=
  (List.range b.m).foldl (fun k r => b.fillRow n fill r n k) (b.greedy n val (b.order key) [])

/-- The blocks of a tile. -/
def blocksOf (h : TileHdr) (m : Nat) : List Blk :=
  (List.range (h.rows / m)).flatMap fun g => (List.range (h.cols / m)).map fun q =>
    { m := m, r0 := m * g, c0 := m * q, cols := h.cols }

/-- The kept elements under `.tr`. -/
def pruneBlocks (h : TileHdr) (es : Elems) (n m : Nat) : Elems :=
  let val (i : Nat) : Nat := (SMap.get es i).getD 0
  let fill := if h.kind == 6 then (zeroCode h.codebook).getD 0 else 0
  (blocksOf h m).foldl (fun (k : Elems) b =>
    (b.prune n fill val fun i => magKey h.kind h.codebook (val i)).foldl (fun (k : Elems) p => SMap.set k p.1 p.2) k) []

end Sys2Proof.Machine
end

