-- ==== Sys2Proof/Machine/Banks.lean ====
section
/-! DEFINITION. What matrix instructions share: acceptance and its waits (R342, R353), the planes' hold (R337), banks, claims
and access to rows (R339, R347 to R351), and the bank instructions ACAL, ACFR, ACCLM and ACZ (R365 to R368). -/

namespace Sys2Proof.Machine

/-! ### Acceptance -/

/-- What stops a matrix instruction before acceptance: a wait in place, for the pass reservation or for something else, or a
fault (R353, R372). -/
inductive MStop where
  | wait (turn : Bool)
  | fault (cause : Cause) (info : W64)
  deriving DecidableEq, Repr

/-- A check of R372. -/
abbrev MChk := Option MStop

/-- The first check of a list that stops the instruction. -/
def firstStop : List MChk → MChk
  | [] => none
  | some x :: _ => some x
  | none :: xs => firstStop xs

/-- A fault where a condition holds. -/
def faultIf (c : Bool) (cause : Cause) (info : W64) : MChk := if c then some (.fault cause info) else none

/-- A wait in place where a condition holds. -/
def waitIf (c : Bool) : MChk := if c then some (.wait false) else none

/-- Operations waiting for acceptance of other units than the one given. -/
def CoreCtx.withoutWait (c : CoreCtx) (uid : Nat) : CoreCtx :=
  { c with mops := c.mops.filter fun o => o.accepted || o.unit != uid }

/-- A unit no longer waits for acceptance. -/
def State.dropWait (s : State) (uid : Nat) : State := s.modCtx (s.unit uid).core fun c => c.withoutWait uid

/-- Whether a waiting pass of another unit was issued before what the unit issues (R342, R353) (DEDUCED, assumption log 39). -/
def CoreCtx.behind (c : CoreCtx) (uid : Nat) : Bool :=
  (c.mops.takeWhile fun o => o.accepted || o.unit != uid).any fun o => !o.accepted && o.turn

/-- A waiting operation noted at its place in issue order (R342, R381). -/
def State.noteWait (s : State) (x : Issue) (i : Instr) (turn : Bool) : State :=
  let u := s.unit x.uid
  let c := (s.core u.core).ctx
  if c.mops.any fun o => !o.accepted && o.unit == x.uid && o.pc == x.pc && o.turn == turn then s
  else
    let o : MatOp :=
      { id := 0, unit := x.uid, lane := lowest x.act, task := u.task, instr := i, pc := x.pc, accepted := false, turn := turn,
        doneAt := 0#64, banks := [], rows := [], tile := 0, srcs := [] }
    s.modCtx u.core fun k => { k.withoutWait x.uid with mops := (k.withoutWait x.uid).mops ++ [o] }

/-- An operation accepted, `lat` cycles before it can complete (R341, R354) (DEDUCED, assumption log 34). -/
def State.acceptOp (s : State) (x : Issue) (i : Instr) (lat : Nat) (f : MatOp → MatOp) : Nat × State :=
  let u := s.unit x.uid
  let (id, s1) := s.fresh
  let o : MatOp :=
    { id := id, unit := x.uid, lane := lowest x.act, task := u.task, instr := i, pc := x.pc, accepted := true, turn := false,
      doneAt := (s.core u.core).cyc + BitVec.ofNat 64 lat, banks := [], rows := [], tile := 0, srcs := [] }
  (id, s1.modCtx u.core fun c => { c with mops := c.mops ++ [f o] })

/-- The engine reserved for a pass (R341, R353). -/
def State.reservePass (s : State) (core lat : Nat) : State :=
  s.modCtx core fun c => { c with passEnd := (s.core core).cyc + BitVec.ofNat 64 lat }

/-- Whether a pass reservation is in force (R341). -/
def Core.reserved (c : Core) : Bool := c.cyc.ult c.ctx.passEnd

/-- A matrix instruction: it waits behind an earlier pass that waits, and while the engine is reset (R342, R353, R381); then its
checks decide whether it waits, faults on every lane of Active or is accepted (R352, R372). -/
def matBody (i : Instr) (chk : Issue → State → MChk) (go : Issue → State → Res) (x : Issue) (s : State) : Res :=
  if x.act == 0#64 then .done s []
  else
    let c := s.core (s.unit x.uid).core
    if c.mresetBusy || c.ctx.behind x.uid then .wait (if c.ctx.mops.any fun o => !o.accepted && o.unit == x.uid then s
      else s.noteWait x i false)
    else
      match chk x s with
      | some (.wait turn) => .wait (s.noteWait x i turn)
      | some (.fault cause info) => .done (s.dropWait x.uid) (x.trapAll cause info)
      | none => go x (s.dropWait x.uid)

/-- The wait of a pass for the reservation of an earlier one (R342). -/
def turnChk (x : Issue) (s : State) : MChk :=
  if (s.core (s.unit x.uid).core).reserved then some (.wait true) else none

/-! ### The planes' hold -/

/-- The wait for planes that another task holds (R337). -/
def holdChk (x : Issue) (s : State) : MChk :=
  let u := s.unit x.uid
  waitIf (match (s.core u.core).ctx.hold with
    | some t => t != u.task
    | none => false)

/-- The hold taken; both planes take their Reset values (R336, R337). -/
def State.takeHold (s : State) (core t : Nat) : State :=
  s.modCtx core fun c =>
    if c.hold == some t then c else { c with hold := some t, active := .none, shadow := .none }

/-- The active plane of the task of a unit, where it is loaded (R337). -/
def State.loaded (s : State) (uid : Nat) : Option Plane :=
  let u := s.unit uid
  let c := (s.core u.core).ctx
  if c.hold == some u.task && c.active.valid then some c.active else none

/-! ### Banks -/

/-- `%tinfo` of ACC_UNALLOC and ACC_CLAIM (R351). -/
def bankInfo (why name : Nat) : W64 := BitVec.ofNat 64 (256 * why + name)

/-- The bank of the core to which a task's name maps, where it is allocated (R347, R348). -/
def State.bankOf (s : State) (t name : Nat) : Option Nat :=
  match (s.task t).banks.get name with
  | some k => if ((s.core (s.task t).core).ctx.banks.get k).isSome then some k else none
  | none => none

/-- A bank as ACAL leaves it (R347). -/
def Bank.fresh (t : Nat) (i32 : Bool) : Bank :=
  { task := t, i32 := i32, ovf := false, cells := [], marks := 0#32, freeing := false }

/-- A bank of a core. -/
def CoreCtx.bank (c : CoreCtx) (k : Nat) : Bank := (c.banks.get k).getD (.fresh 0 false)

/-- The first of some names that is not allocated: ACC_UNALLOC 0x01; aN + 1 of a63 has the number 64 (R348, R351). -/
def unallocChk (t : Nat) (names : List Nat) (s : State) : MChk :=
  names.findSome? fun n => faultIf (s.bankOf t n).isNone cUnalloc (bankInfo 0x01 n)

/-- The first of some names whose bank is of the other type: ACC_UNALLOC 0x02 (R338). -/
def typeChk (t : Nat) (names : List Nat) (i32 : Bool) (s : State) : MChk :=
  names.findSome? fun n =>
    match s.bankOf t n with
    | some k => faultIf (((s.core (s.task t).core).ctx.bank k).i32 != i32) cUnalloc (bankInfo 0x02 n)
    | none => none

/-! ### Claims and rows -/

/-- Whether a claim's band holds a row of a bank. -/
def Claim.covers (k : Claim) (bank row : Nat) : Bool :=
  k.bank == bank && decide (k.first ≤ row) && decide (row < k.first + k.count)

/-- The live claims that a task holds on a bank (R339). -/
def CoreCtx.bands (c : CoreCtx) (t bank : Nat) : List Claim := c.claims.filter fun k => k.bank == bank && k.owner == some t

/-- The row base of a task on a bank (R339). -/
def CoreCtx.rowBase (c : CoreCtx) (t bank : Nat) : Nat := minD 0 ((c.bands t bank).map Claim.first)

/-- Whether a row lies in a task's bands on a bank, or in the bank where it holds no claim there (R350). -/
def CoreCtx.inBand (c : CoreCtx) (t bank row : Nat) : Bool :=
  let bs := c.bands t bank
  if bs.isEmpty then (c.bank bank).task == t && decide (row < 32) else bs.any fun k => k.covers bank row

/-- Whether a strand may access a row (R349). Claims stand in the order in which they were made, so the last that covers a row
is the innermost (DEDUCED, assumption log 31). -/
def CoreCtx.mayAccess (c : CoreCtx) (t uid l bank row : Nat) : Bool :=
  let ks := c.claims.filter fun k => k.covers bank row
  if (c.bank bank).task == t then
    decide (row < 32) && ks.all fun k => k.owner.isNone && k.unit == uid && k.lane == l
  else
    match ks.getLast? with
    | some k => k.owner == some t
    | .none => false

/-- Rows of banks that an instruction reaches, each with its row number in the tile or drain, its bank's name, its bank and
its accumulator row. -/
structure Target where
  row : Nat
  name : Nat
  bank : Nat
  acc : Nat
  deriving DecidableEq, Repr

/-- The targets of row numbers on a bank and the one after it (R339): numbers from 32 on go to the second. -/
def State.targets (s : State) (t name : Nat) (rows : List Nat) : List Target :=
  let c := (s.core (s.task t).core).ctx
  rows.map fun i =>
    let n := if i < 32 then name else name + 1
    let k := (s.bankOf t n).getD 64
    { row := i, name := n, bank := k, acc := c.rowBase t k + i % 32 }

/-- The names that row numbers reach (R339). -/
def namesFor (name : Nat) (rows : List Nat) : List Nat := if rows.any (fun i => decide (32 ≤ i)) then [name, name + 1] else [name]

/-- ACC_CLAIM 0x02 for a row in a band that the strand may not access, then 0x03 for a row in none of its bands (R350, R372). -/
def rowChk (x : Issue) (ts : List Target) (s : State) : MChk :=
  let u := s.unit x.uid
  let c := (s.core u.core).ctx
  let l := lowest x.act
  firstStop [
    ts.findSome? fun r =>
      faultIf (c.inBand u.task r.bank r.acc && !c.mayAccess u.task x.uid l r.bank r.acc) cClaim (bankInfo 0x02 r.name),
    ts.findSome? fun r => faultIf (!c.inBand u.task r.bank r.acc) cClaim (bankInfo 0x03 r.name)]

/-- The row numbers of a pass: the lanes of Active of a group, the row mask of the sequencer (R339)
(DEDUCED, assumption log 32). -/
def passRows (m : BitVec 8) (x : Issue) (s : State) : List Nat :=
  let u := s.unit x.uid
  match u.kind with
  | .group => x.lanes
  | _ => lanesOf (u.src64 (Reg.ofCode m) 0)

/-! ### ACAL, ACFR -/

/-- The lowest banks of a core that are not allocated. -/
def CoreCtx.freeBanks (c : CoreCtx) (n : Nat) : List Nat := ((List.range 64).filter fun k => (c.banks.get k).isNone).take n

/-- The names aN to aN + n − 1. -/
def bankNames (a : BankN) (n1 : BitVec 6) : List Nat := (List.range (n1.toNat + 1)).map fun k => a.toNat + k

/-- ACAL (R365). -/
def acalGo (i32 : Bool) (names : List Nat) (x : Issue) (s : State) : Res :=
  let u := s.unit x.uid
  let ks := (s.core u.core).ctx.freeBanks names.length
  let s1 := s.modCtx u.core fun c => { c with banks := ks.foldl (fun m k => SMap.set m k (.fresh u.task i32)) c.banks }
  .done (s1.modTask u.task fun t => { t with banks := (names.zip ks).foldl (fun m p => SMap.set m p.1 p.2) t.banks }) []

/-- The check of ACAL: ACC_UNALLOC 0x03 (R365). -/
def acalChk (names : List Nat) (x : Issue) (s : State) : MChk :=
  let u := s.unit x.uid
  faultIf (names.any (fun n => (s.bankOf u.task n).isSome)
      || decide (((s.core u.core).ctx.freeBanks names.length).length < names.length)) cUnalloc
    (bankInfo 0x03 (names.headD 0))

/-- ACAL (R365). -/
def execAcal (h : Hdr) (i32 : Bool) (bank : BankN) (n1 : BitVec 6) (s : State) : Host.Outcome State Fault Refusal :=
  runIssue h (.acal h i32 bank n1) (matBody (.acal h i32 bank n1) (acalChk (bankNames bank n1)) (acalGo i32 (bankNames bank n1)))
    s

/-- The checks of ACFR, name by name, then its wait (R366). -/
def acfrChk (names : List Nat) (x : Issue) (s : State) : MChk :=
  let u := s.unit x.uid
  let c := (s.core u.core).ctx
  let one (n : Nat) : MChk × MChk :=
    match s.bankOf u.task n with
    | none => (some (.fault cUnalloc (bankInfo 0x01 n)), none)
    | some k =>
      (faultIf ((c.bank k).task != u.task) cUnalloc (bankInfo 0x01 n),
       faultIf (c.claims.any fun q => q.bank == k) cClaim (bankInfo 0x04 n))
  let ks := names.filterMap (s.bankOf u.task)
  firstStop ((names.map fun n => (one n).1) ++ (names.map fun n => (one n).2)
    ++ [waitIf (c.mops.any fun o => o.accepted && o.banks.any ks.contains)])

/-- ACFR (R366). -/
def acfrGo (names : List Nat) (x : Issue) (s : State) : Res :=
  let u := s.unit x.uid
  let ks := names.filterMap (s.bankOf u.task)
  let s1 := s.modCtx u.core fun c => { c with banks := ks.foldl SMap.del c.banks }
  .done (s1.modTask u.task fun t => { t with banks := names.foldl SMap.del t.banks }) []

/-- ACFR (R366). -/
def execAcfr (h : Hdr) (bank : BankN) (n1 : BitVec 6) (s : State) : Host.Outcome State Fault Refusal :=
  runIssue h (.acfr h bank n1) (matBody (.acfr h bank n1) (acfrChk (bankNames bank n1)) (acfrGo (bankNames bank n1))) s

/-! ### ACCLM -/

/-- The most claims of a core, live and pending (R350). -/
def claimCap : Nat := 64

/-- The names of an ACCLM. -/
def claimNames (pair : Bool) (a : BankN) : List Nat := if pair then [a.toNat, a.toNat + 1] else [a.toNat]

/-- The claims on a bank that are inside those of a task, or all where it holds none: those later in the order of making than
its own. -/
def CoreCtx.within (c : CoreCtx) (t bank row : Nat) : List Claim :=
  let ks := c.claims.filter fun k => k.covers bank row
  if ks.any fun k => k.owner == some t then (ks.reverse.takeWhile fun k => k.owner != some t) else ks

/-- The checks of ACCLM (R367). Rows outside the strand's own bands raise 0x02, and rows that lie in a live or pending claim
inside them 0x01 (R350; DEDUCED, assumption log 12). -/
def acclmChk (pair : Bool) (a : BankN) (first count : Nat) (x : Issue) (s : State) : MChk :=
  let u := s.unit x.uid
  let c := (s.core u.core).ctx
  let names := claimNames pair a
  let rows (k : Nat) : List Nat := (List.range count).map fun j => c.rowBase u.task k + first + j
  let per (f : Nat → Nat → MChk) : MChk := names.findSome? fun n =>
    match s.bankOf u.task n with
    | some k => f n k
    | none => none
  firstStop [
    faultIf (pair && a == 63#6) cUnalloc (bankInfo 0x01 64),
    unallocChk u.task names s,
    per fun n k => faultIf ((rows k).any fun r => !c.inBand u.task k r) cClaim (bankInfo 0x02 n),
    per fun n k => faultIf ((rows k).any fun r => !(c.within u.task k r).isEmpty) cClaim (bankInfo 0x01 n),
    faultIf (decide (claimCap < c.claims.length + names.length)) cClaim (bankInfo 0x05 a.toNat)]

/-- ACCLM: pending claims of the strand (R349, R367). -/
def acclmGo (pair : Bool) (a : BankN) (first count : Nat) (x : Issue) (s : State) : Res :=
  let u := s.unit x.uid
  let c := (s.core u.core).ctx
  let new := (claimNames pair a).filterMap fun n => (s.bankOf u.task n).map fun k =>
    ({ bank := k, name := n, first := c.rowBase u.task k + first, count := count, owner := none, unit := x.uid,
       lane := lowest x.act } : Claim)
  .done (s.modCtx u.core fun k => { k with claims := k.claims ++ new }) []

/-- ACCLM (R367). -/
def execAcclm (h : Hdr) (pair : Bool) (bank : BankN) (first : BitVec 5) (count : BitVec 6) (s : State) :
    Host.Outcome State Fault Refusal :=
  runIssue h (.acclm h pair bank first count)
    (matBody (.acclm h pair bank first count) (acclmChk pair bank first.toNat count.toNat)
      (acclmGo pair bank first.toNat count.toNat)) s

/-! ### ACZ -/

/-- ACZ: the rows that the strand may access, zeroed in acceptance order (R354, R368). -/
def aczGo (i : Instr) (a : BankN) (x : Issue) (s : State) : Res :=
  let u := s.unit x.uid
  let c := (s.core u.core).ctx
  let k := (s.bankOf u.task a.toNat).getD 64
  let rows := (List.range 32).filter fun r => c.mayAccess u.task x.uid (lowest x.act) k r
  .done (s.acceptOp x i 0 fun o => { o with banks := [k], rows := rows.map fun r => (r, k, r) }).2 []

/-- ACZ (R368). -/
def execAcz (h : Hdr) (bank : BankN) (s : State) : Host.Outcome State Fault Refusal :=
  runIssue h (.acz h bank)
    (matBody (.acz h bank) (fun x t => unallocChk (t.unit x.uid).task [bank.toNat] t) (aczGo (.acz h bank) bank)) s

end Sys2Proof.Machine
end

