-- ==== Sys2Proof/Machine/Matrix.lean ====
section
/-! DEFINITION. The matrix instructions at issue: MLDS, MSWP, the passes, the drains, MSTAT and MWAIT (R352 to R372), and
the acceptance of a pass that waited (R342). -/

namespace Sys2Proof.Machine

/-! ### Source tiles -/

/-- A tile of a task by its name, with its entry's number; an undeclared name gives a blank entry, which its check refuses. -/
def Task.srcEnt (t : Task) (n : Tile) : Nat × TileEnt :=
  let k := (t.tileKey n.toNat).getD 64
  (k, t.tileEnt k)

/-- TILE_STATE 0x01 for an undeclared tile (R372). -/
def declChk (n : Tile) (x : Issue) (s : State) : MChk :=
  faultIf ((s.task (s.unit x.uid).task).tileKey n.toNat).isNone cTile (tileInfo 0x01 n.toNat)

/-- The wait for a tile that is FILLING (R353). -/
def fillChk (n : Tile) (x : Issue) (s : State) : MChk :=
  waitIf (((s.task (s.unit x.uid).task).srcEnt n).2.st == .filling)

/-- TILE_STATE 0x02 for an EMPTY source (R372). -/
def emptyChk (n : Tile) (x : Issue) (s : State) : MChk :=
  faultIf (((s.task (s.unit x.uid).task).srcEnt n).2.st == .empty) cTile (tileInfo 0x02 n.toNat)

/-- The cause of a slot that a data fault has filled, then a malformed header (R264, R277). -/
def headChk (n : Tile) (x : Issue) (s : State) : MChk :=
  let t := s.task (s.unit x.uid).task
  match t.tileFault (t.srcEnt n).2 n.toNat with
  | some (c, info) => some (.fault c info)
  | none => none

/-- The header of a source. -/
def srcHdr (n : Tile) (x : Issue) (s : State) : TileHdr :=
  let t := s.task (s.unit x.uid).task
  t.hdrAt (t.srcEnt n).2.base.toNat

/-- The header and payload bytes of a source, as an operation reads them at acceptance (R354, R377). -/
def srcBytes (n : Tile) (x : Issue) (s : State) : List Byte × List Byte :=
  let t := s.task (s.unit x.uid).task
  let e := (t.srcEnt n).2
  (t.spad.readN e.base.toNat 192, t.payload e.base.toNat (t.hdrAt e.base.toNat).count)

/-- META_MALFORMED of a REASON of R357 where a condition holds (DEDUCED, assumption log 30). -/
def metaIf (c : Bool) (reason off : Nat) (n : Tile) : MChk := faultIf c cMeta (metaInfo reason off n.toNat)

/-- The offset of the lower of KIND and SPARSE that an instruction does not accept (R264, R357). -/
def formOff (kindBad : Bool) : Nat := if kindBad then 0x00 else 0x01

/-! ### MLDS, MSWP -/

/-- The offset of the field in which two kind words differ among KIND, SPARSE, N and M (R357). -/
def kindDiff (a b : Nat) : Option Nat :=
  if a % 2 ^ 8 != b % 2 ^ 8 then some 0x00
  else if nbits a 8 8 != nbits b 8 8 then some 0x01
  else if nbits a 16 4 != nbits b 16 4 then some 0x02
  else none

/-- Whether a KIND is of the 8-bit class (R335). -/
def eightBit (kind : Nat) : Bool := kind == 4 || kind == 5

/-- META_MALFORMED 0x0A of MLDS.k1 (R357). -/
def lowHalfChk (n : Tile) (x : Issue) (s : State) : MChk :=
  let u := s.unit x.uid
  let c := (s.core u.core).ctx
  let low := if c.hold == some u.task then c.shadow.kindw.toNat else 0
  let d := if eightBit (low % 256) then kindDiff (srcHdr n x s).kindw low else some 0x00
  metaIf d.isSome 0x0A (d.getD 0) n

/-- The checks of MLDS (R358, R372). -/
def mldsChk (k1 : Bool) (n : Tile) (x : Issue) (s : State) : MChk :=
  let h := srcHdr n x s
  let badKind := h.kind == 3 || h.kind == 7
  firstStop [declChk n x s, holdChk x s, fillChk n x s, emptyChk n x s, headChk n x s,
    if k1 then lowHalfChk n x s else none,
    metaIf (badKind || h.sparse == 2) 0x0B (formOff badKind) n, metaIf (decide (64 < h.cols)) 0x0C 0x06 n]

/-- The values of a plane's rows from a tile, starting at a plane row (R335, R358). -/
def planeVals (h : TileHdr) (es : Elems) (k0 : Nat) : SMap W32 :=
  es.map fun p =>
    let k := p.1 / h.cols
    (64 * (k0 + k) + p.1 % h.cols,
     BitVec.ofNat 32 (if h.kind == 6 then decodeScaled false (field h.codebook (2 * p.2) 2) (h.scales.getD (k / 32) 0#8).toNat
       else p.2))

/-- The shadow plane that MLDS loads (R358). -/
def planeLow (h : TileHdr) (es : Elems) : Plane :=
  { valid := false, kext := h.erows, next := h.ecols, kindw := BitVec.ofNat 32 h.kindw, vals := planeVals h es 0,
    scales := if eightBit h.kind then h.scales.take 2 ++ [127#8, 127#8] else [] }

/-- The shadow plane with the rows that MLDS.k1 loads (R358). -/
def Plane.high (p : Plane) (h : TileHdr) (es : Elems) : Plane :=
  { p with
    valid := false, kext := if h.erows == 0 then p.kext else 64 + h.erows,
    next := if h.erows == 0 then p.next else Nat.max p.next h.ecols,
    vals := (p.vals.keep fun k _ => decide (k < 64 * 64)) ++ planeVals h es 64, scales := p.scales.take 2 ++ h.scales.take 2 }

/-- MLDS accepted: the hold taken, the shadow plane written, SBUSY until completion (R336, R358). -/
def mldsGo (i : Instr) (k1 : Bool) (n : Tile) (x : Issue) (s : State) : Res :=
  let u := s.unit x.uid
  let b := srcBytes n x s
  let h := hdrOf b.1
  let es := elemsOf h b.2
  let s1 := (s.takeHold u.core u.task).modCtx u.core fun c =>
    { c with shadow := if k1 then c.shadow.high h es else planeLow h es }
  .done (s1.acceptOp x i 0 fun o => { o with srcs := [b] }).2 []

/-- MLDS (R358). -/
def execMlds (h : Hdr) (t : Tile) (s : State) : Host.Outcome State Fault Refusal :=
  runIssue h (.mlds h t) (matBody (.mlds h t) (mldsChk false t) (mldsGo (.mlds h t) false t)) s

/-- MLDS.k1 (R358). -/
def execMldsK1 (h : Hdr) (t : Tile) (s : State) : Host.Outcome State Fault Refusal :=
  runIssue h (.mldsK1 h t) (matBody (.mldsK1 h t) (mldsChk true t) (mldsGo (.mldsK1 h t) true t)) s

/-- Whether an instruction loads the shadow plane. -/
def isMlds : Instr → Bool
  | .mlds .. => true
  | .mldsK1 .. => true
  | _ => false

/-- Whether an instruction is a pass that reads the active plane. -/
def readsPlane : Instr → Bool
  | .mma .. => true
  | .mmas .. => true
  | _ => false

/-- The waits of MSWP (R336, R359). -/
def mswpChk (x : Issue) (s : State) : MChk :=
  let u := s.unit x.uid
  firstStop [holdChk x s, waitIf ((s.core u.core).ctx.mops.any fun o => o.accepted && (isMlds o.instr || readsPlane o.instr))]

/-- MSWP (R336, R359). -/
def mswpGo (x : Issue) (s : State) : Res :=
  let u := s.unit x.uid
  .done ((s.takeHold u.core u.task).modCtx u.core fun c => { c with active := c.shadow, shadow := c.active }) []

/-- MSWP (R359). -/
def execMswp (h : Hdr) (s : State) : Host.Outcome State Fault Refusal :=
  runIssue h (.mswp h) (matBody (.mswp h) mswpChk mswpGo) s

/-! ### MMA, MMAS, MBMP -/

/-- Whether stationary and streamed KINDs form a pair of R338. -/
def kindPair (p q : Nat) : Bool :=
  ((p == 1 || p == 2 || p == 6) && (q == 1 || q == 2)) || (p == q && eightBit p)

/-- The targets of a pass: the rows of a streamed tile that R339 does not exclude. -/
def passTargets (a : BankN) (rows : List Nat) (h : TileHdr) (x : Issue) (s : State) : List Target :=
  s.targets (s.unit x.uid).task a.toNat (rows.filter fun i => decide (i < h.rows))

/-- The checks of MMA and MMAS (R360, R372). -/
def mmaChk (a : BankN) (n : Tile) (m : BitVec 8) (x : Issue) (s : State) : MChk :=
  let u := s.unit x.uid
  let rows := passRows m x s
  let names := namesFor a.toNat rows
  let h := srcHdr n x s
  let p := s.loaded x.uid
  let kind := match p with
    | some q => q.kindw.toNat % 256
    | none => 0
  firstStop [unallocChk u.task names s, if p.isSome then typeChk u.task names (kind == 5) s else none, declChk n x s,
    holdChk x s, fillChk n x s, emptyChk n x s, faultIf p.isNone cTile (tileInfo 0x04 0xFF), headChk n x s,
    metaIf (!kindPair kind h.kind) 0x09 0x00 n, metaIf (h.sparse != 0) 0x0B 0x01 n,
    rowChk x (passTargets a rows h x s) s, turnChk x s]

/-- Cycles beyond a pass's steps (R341). -/
def passFill : Nat := 12

/-- The rate of a pass over a plane (R341). -/
def passRate (byHdr : Bool) (kindw : Nat) : Nat :=
  let m := if nbits kindw 16 4 == 0 then 16 else nbits kindw 16 4
  if byHdr && nbits kindw 8 4 == 1 then Nat.min (4 * m / nbits kindw 12 4) 16 else 4

/-- A pass accepted: the engine reserved, its rows and its streamed tile fixed (R341, R354). -/
def passGo (i : Instr) (lat : Nat) (ts : List Target) (banks : List Nat) (srcs : List (List Byte × List Byte)) (x : Issue)
    (s : State) : Res :=
  let s1 := s.reservePass (s.unit x.uid).core lat
  .done (s1.acceptOp x i lat fun o =>
    { o with banks := banks, rows := ts.map fun r => (r.row, r.bank, r.acc), srcs := srcs }).2 []

/-- MMA and MMAS accepted (R360). -/
def mmaGo (i : Instr) (byHdr : Bool) (a : BankN) (n : Tile) (m : BitVec 8) (x : Issue) (s : State) : Res :=
  let u := s.unit x.uid
  let rows := passRows m x s
  let ts := passTargets a rows (srcHdr n x s) x s
  let kindw := match s.loaded x.uid with
    | some q => q.kindw.toNat
    | none => 0
  passGo i (ceilDiv ts.length (passRate byHdr kindw) + passFill) ts ((namesFor a.toNat rows).filterMap (s.bankOf u.task))
    [srcBytes n x s] x s

/-- MMA (R360). -/
def execMma (h : Hdr) (set : Bool) (bank : BankN) (t : Tile) (m : BitVec 8) (s : State) : Host.Outcome State Fault Refusal :=
  runIssue h (.mma h set bank t m) (matBody (.mma h set bank t m) (mmaChk bank t m) (mmaGo (.mma h set bank t m) false bank t m))
    s

/-- MMAS (R360). -/
def execMmas (h : Hdr) (set : Bool) (bank : BankN) (t : Tile) (m : BitVec 8) (s : State) : Host.Outcome State Fault Refusal :=
  runIssue h (.mmas h set bank t m) (matBody (.mmas h set bank t m) (mmaChk bank t m) (mmaGo (.mmas h set bank t m) true bank t m))
    s

/-- Whether kinds form a pair for MBMP: BF16 and FP16 stand for the 16-bit plane (R343). -/
def bitmapPair (p q : Nat) : Bool := p != 6 && kindPair p q

/-- The checks of MBMP (R361, R372). -/
def mbmpChk (a : BankN) (ta tb : Tile) (m : BitVec 8) (x : Issue) (s : State) : MChk :=
  let u := s.unit x.uid
  let rows := passRows m x s
  let names := namesFor a.toNat rows
  let ha := srcHdr ta x s
  let hb := srcHdr tb x s
  firstStop [unallocChk u.task names s, declChk ta x s, declChk tb x s, fillChk ta x s, fillChk tb x s, emptyChk ta x s,
    emptyChk tb x s, headChk ta x s, headChk tb x s, metaIf (!bitmapPair hb.kind ha.kind) 0x09 0x00 ta,
    metaIf (ha.sparse != 2) 0x0B 0x01 ta, metaIf (hb.sparse != 2) 0x0B 0x01 tb, typeChk u.task names (ha.kind == 5) s,
    rowChk x (passTargets a rows ha x s) s, turnChk x s]

/-- The step list of MBMP: every k below the K extent whose column of A and row of B hold a set bit (R343). -/
def stepList (ha hb : TileHdr) (ea eb : Elems) : List Nat :=
  let as := sortN (ea.keys.map fun i => i % ha.cols)
  let bs := sortN (eb.keys.map fun i => i / hb.cols)
  (List.range hb.erows).filter fun k => as.contains k && bs.contains k

/-- The latency of MBMP (R341, R343). -/
def bitmapLatency (chunks : Nat) (steps : List Nat) : Nat :=
  ((List.range chunks).map fun c => ceilDiv (steps.filter fun k => k / 16 == c).length 8).foldl (· + ·) 0 + passFill

/-- MBMP accepted (R343, R361). -/
def mbmpGo (i : Instr) (a : BankN) (ta tb : Tile) (m : BitVec 8) (x : Issue) (s : State) : Res :=
  let u := s.unit x.uid
  let rows := passRows m x s
  let ba := srcBytes ta x s
  let bb := srcBytes tb x s
  let ha := hdrOf ba.1
  let hb := hdrOf bb.1
  passGo i (bitmapLatency (chunksOf hb.kind) (stepList ha hb (elemsOf ha ba.2) (elemsOf hb bb.2))) (passTargets a rows ha x s)
    ((namesFor a.toNat rows).filterMap (s.bankOf u.task)) [ba, bb] x s

/-- MBMP (R361). -/
def execMbmp (h : Hdr) (set : Bool) (bank : BankN) (ta tb : Tile) (m : BitVec 8) (s : State) :
    Host.Outcome State Fault Refusal :=
  runIssue h (.mbmp h set bank ta tb m)
    (matBody (.mbmp h set bank ta tb m) (mbmpChk bank ta tb m) (mbmpGo (.mbmp h set bank ta tb m) bank ta tb m)) s

/-! ### MHAD, MPRN -/

/-- log2 of P (R362). -/
def HadP.lg : HadP → Nat
  | .p16 => 4
  | .p32 => 5
  | .p64 => 6

/-- The checks of MHAD (R362, R372). -/
def mhadChk (p : HadP) (n : Tile) (x : Issue) (s : State) : MChk :=
  let h := srcHdr n x s
  let badKind := !(h.kind == 1 || h.kind == 2 || h.kind == 3)
  firstStop [declChk n x s, waitIf ((s.task (s.unit x.uid).task).srcEnt n).2.busy, emptyChk n x s, headChk n x s,
    metaIf (badKind || h.sparse != 0) 0x0B (formOff badKind) n, metaIf (h.cols % 2 ^ HadP.lg p != 0) 0x0C 0x06 n, turnChk x s]

/-- An operation that fills a tile accepted: the tile FILLING (R362, R363, R370). -/
def fillGo (i : Instr) (lat k : Nat) (f : MatOp → MatOp) (x : Issue) (s : State) : Nat × State :=
  let s1 := s.modTile (s.unit x.uid).task k fun e => { e with st := .filling, fault := none }
  s1.acceptOp x i lat fun o => f { o with tile := k }

/-- MHAD accepted (R353, R362). -/
def mhadGo (i : Instr) (p : HadP) (n : Tile) (x : Issue) (s : State) : Res :=
  let u := s.unit x.uid
  let lat := ceilDiv (srcHdr n x s).rows 4 * HadP.lg p + passFill
  .done (fillGo i lat ((s.task u.task).srcEnt n).1 (fun o => { o with srcs := [srcBytes n x s] }) x (s.reservePass u.core lat)).2 []

/-- MHAD (R362). -/
def execMhad (h : Hdr) (p : HadP) (t : Tile) (s : State) : Host.Outcome State Fault Refusal :=
  runIssue h (.mhad h p t) (matBody (.mhad h p t) (mhadChk p t) (mhadGo (.mhad h p t) p t)) s

/-- A destination tile that must be EMPTY, then large enough; a READY one that a data fault has filled raises its cause (R259,
R277, R372). -/
def destChk (n : Tile) (count : Nat) (x : Issue) (s : State) : MChk :=
  let e := ((s.task (s.unit x.uid).task).srcEnt n).2
  firstStop [
    if e.st == .empty then none
    else match e.st, e.fault with
      | .ready, some (c, info) => some (.fault c info)
      | _, _ => some (.wait false),
    faultIf (decide (256 * e.cap < count)) cTile (tileInfo 0x03 n.toNat)]

/-- The group size of MPRN (R363). -/
def prnM (m : BitVec 2) : Nat := 4 * 2 ^ m.toNat

/-- The header of MPRN's result (R363). -/
def prnHdr (h : TileHdr) (n m : Nat) (tr : Bool) : TileHdr :=
  ({ TileHdr.plain (2 ^ 24 + (if tr then 2 ^ 20 else 0) + 2 ^ 16 * (m % 16) + 2 ^ 12 * n + 2 ^ 8 + h.kind) h.rows h.cols with
    erows := h.erows, ecols := h.ecols, codebook := h.codebook, scales := h.scales }).sized

/-- The checks of MPRN (R363, R372). -/
def mprnChk (n : BitVec 4) (mc : BitVec 2) (tr : Bool) (td ts : Tile) (x : Issue) (s : State) : MChk :=
  let h := srcHdr ts x s
  let m := prnM mc
  let badKind := h.kind == 3 || h.kind == 7
  firstStop [declChk td x s, declChk ts x s, fillChk ts x s, emptyChk ts x s, headChk ts x s,
    metaIf (badKind || h.sparse != 0) 0x0B (formOff badKind) ts,
    metaIf (tr && h.kind == 6 && (zeroCode h.codebook).isNone) 0x0B 0x20 ts, metaIf (h.rows % m != 0) 0x0C 0x04 ts,
    metaIf (tr && h.cols % m != 0) 0x0C 0x06 ts, destChk td (prnHdr h n.toNat m tr).count x s, turnChk x s]

/-- MPRN accepted (R353, R363). -/
def mprnGo (i : Instr) (tr : Bool) (td ts : Tile) (x : Issue) (s : State) : Res :=
  let u := s.unit x.uid
  let h := srcHdr ts x s
  let lat := ceilDiv (h.rows * h.cols) 256 + passFill + if tr then 16 else 0
  .done (fillGo i lat ((s.task u.task).srcEnt td).1 (fun o => { o with srcs := [srcBytes ts x s] }) x (s.reservePass u.core lat)).2
    []

/-- MPRN (R363). -/
def execMprn (h : Hdr) (n : BitVec 4) (m : BitVec 2) (tr : Bool) (td ts : Tile) (s : State) :
    Host.Outcome State Fault Refusal :=
  runIssue h (.mprn h n m tr td ts)
    (matBody (.mprn h n m tr td ts) (mprnChk n m tr td ts) (mprnGo (.mprn h n m tr td ts) tr td ts)) s

/-! ### Drains -/

/-- A destination register that an operation will write (R76). -/
def Unit.pendOp (u : Unit) (d : Dst) (m : LMask) (id : Nat) : Unit := { u with vpend := u.vpend ++ [{ dst := d, mask := m, req := id }] }

/-- The destinations of a vector ACRD (R369). -/
def acrdRegs (d : Fin 192) : List Dst := (List.range 16).map fun j => .r (Reg.ofCode (BitVec.ofNat 8 (d.val + j)))

/-- The checks of a drain to registers (R369, R372): a second bank is of the first one's type (R339). -/
def acrdChk (a : BankN) (rows : List Nat) (x : Issue) (s : State) : MChk :=
  let u := s.unit x.uid
  let names := namesFor a.toNat rows
  let c := (s.core u.core).ctx
  let i32 := (c.bank ((s.bankOf u.task a.toNat).getD 64)).i32
  firstStop [unallocChk u.task names s, typeChk u.task names i32 s, rowChk x (s.targets u.task a.toNat rows) s]

/-- A drain to registers accepted (R354, R369). -/
def acrdGo (i : Instr) (a : BankN) (rows : List Nat) (ds : List Dst) (x : Issue) (s : State) : Res :=
  let u := s.unit x.uid
  let ts := s.targets u.task a.toNat rows
  let r := s.acceptOp x i 0 fun o =>
    { o with banks := dedupN (ts.map Target.bank), rows := ts.map fun t => (t.row, t.bank, t.acc) }
  .done (r.2.modUnit x.uid fun v => ds.foldl (fun w d => w.pendOp d x.act r.1) v) []

/-- ACRD to vector registers (R369). -/
def execAcrdVector (h : Hdr) (c : BitVec 2) (d : Fin 192) (bank : BankN) (s : State) : Host.Outcome State Fault Refusal :=
  runIssue h (.acrdVector h c d bank)
    (matBody (.acrdVector h c d bank) (fun x t => acrdChk bank x.lanes x t)
      (fun x t => acrdGo (.acrdVector h c d bank) bank x.lanes (acrdRegs d) x t)) s

/-- ACRD to a scalar register (R369). -/
def execAcrdScalar (h : Hdr) (d : Fin 64) (bank : BankN) (row : BitVec 5) (col : BitVec 6) (s : State) :
    Host.Outcome State Fault Refusal :=
  runIssue h (.acrdScalar h d bank row col)
    (matBody (.acrdScalar h d bank row col) (acrdChk bank [row.toNat])
      (acrdGo (.acrdScalar h d bank row col) bank [row.toNat] [.r (.s d)])) s

/-- The KIND of a drain (R370). -/
def DrainKind.kind : DrainKind → Nat
  | .bf16 => 1
  | .fp16 => 2
  | .fp32 => 3
  | .e4m3 => 4
  | .int8 => 5
  | .int32 => 7

/-- The header of a drained tile (R370). -/
def acstHdr (kind : DrainKind) (tr : Bool) (rows cols : Nat) : TileHdr :=
  let r := if tr then cols else rows
  let c := if tr then rows else cols
  ({ TileHdr.plain (2 ^ 24 + DrainKind.kind kind) r c with erows := r, ecols := c, scales := List.replicate 128 127#8 }).sized

/-- The row numbers of a drain. -/
def drainRows (first : BitVec 5) (rows : BitVec 6) : List Nat := (List.range rows.toNat).map fun j => first.toNat + j

/-- The checks of ACST (R370, R372). -/
def acstChk (kind : DrainKind) (tr : Bool) (n : Tile) (a : BankN) (first : BitVec 5) (rows : BitVec 6) (cols : BitVec 7) (x : Issue)
    (s : State) : MChk :=
  let u := s.unit x.uid
  firstStop [unallocChk u.task [a.toNat] s, declChk n x s, rowChk x (s.targets u.task a.toNat (drainRows first rows)) s,
    destChk n (acstHdr kind tr rows.toNat cols.toNat).count x s]

/-- ACST accepted (R354, R370). -/
def acstGo (i : Instr) (cnt : Option Reg) (n : Tile) (a : BankN) (first : BitVec 5) (rows : BitVec 6) (x : Issue) (s : State) :
    Res :=
  let u := s.unit x.uid
  let ts := s.targets u.task a.toNat (drainRows first rows)
  let r := fillGo i 0 ((s.task u.task).srcEnt n).1 (fun o =>
    { o with banks := dedupN (ts.map Target.bank), rows := ts.map fun t => (t.row, t.bank, t.acc) }) x s
  .done (r.2.modUnit x.uid fun v => (tagDst cnt).foldl (fun w d => w.pendOp d x.act r.1) v) []

/-- ACST (R370). -/
def execAcst (h : Hdr) (kind : DrainKind) (clamp tr : Bool) (cnt : Option Reg) (rm : Rm) (t : Tile) (bank : BankN)
    (first : BitVec 5) (rows : BitVec 6) (cols : BitVec 7) (s : State) : Host.Outcome State Fault Refusal :=
  let i : Instr := .acst h kind clamp tr cnt rm t bank first rows cols
  runIssue h i (matBody i (acstChk kind tr t bank first rows cols) (acstGo i cnt t bank first rows)) s

/-! ### MSTAT, MWAIT -/

/-- The plane state (R336). -/
def CoreCtx.planeWord (c : CoreCtx) : W64 :=
  let bit (b : Bool) (i : Nat) : Nat := if b then 2 ^ i else 0
  BitVec.ofNat 64 (bit c.active.valid 63 + bit c.shadow.valid 62 + bit (c.mops.any fun o => o.accepted && isMlds o.instr) 61
    + 2 ^ 40 * c.active.kext + 2 ^ 32 * c.active.next + c.active.kindw.toNat)

/-- The bank state of an allocated bank (R347). -/
def CoreCtx.bankWord (c : CoreCtx) (k : Nat) : W64 :=
  let b := c.bank k
  let claimed := (List.range 32).foldl (fun n r =>
    if c.claims.any fun q => q.owner.isSome && q.covers k r then n + 2 ^ (32 + r) else n) 0
  BitVec.ofNat 64 (claimed + 2 ^ 30 * (if b.i32 then 2 else 1) + if b.ovf then 2 ^ 29 else 0)

/-- The word of a selector of MSTAT (R371). -/
def mstatWord (sel : MstatSel) (x : Issue) (s : State) : W64 :=
  let u := s.unit x.uid
  let k := s.core u.core
  let c := k.ctx
  let l := lowest x.act
  match sel with
  | .plane => c.planeWord
  | .bank a =>
    match s.bankOf u.task a.toNat with
    | some b => c.bankWord b
    | none => 0#64
  | .mark a =>
    match s.bankOf u.task a.toNat with
    | some b => BitVec.ofNat 64 ((List.range 32).filter fun r => (c.bank b).marks.getLsbD r && c.mayAccess u.task x.uid l b r).length
    | none => 0#64
  | .busy =>
    BitVec.ofNat 64 ((if c.mops.any fun o => o.unit == x.uid && o.lane == l then 1 else 0) + if k.reserved then 2 else 0)

/-- MSTAT (R371). -/
def mstatBody (sel : MstatSel) (d : Reg) (x : Issue) (s : State) : Res :=
  if x.act == 0#64 then .done s []
  else .done (s.modUnit x.uid fun u => u.writeVar (.r d) [(0, mstatWord sel x s)]) []

/-- MSTAT (R371). -/
def execMstat (h : Hdr) (sel : MstatSel) (d : Reg) (s : State) : Host.Outcome State Fault Refusal :=
  runIssue h (.mstat h sel d) (mstatBody sel d) s

/-- MWAIT: the wait for the unit's matrix operations (R371). -/
def mwaitBody (x : Issue) (s : State) : Res :=
  if x.act != 0#64 && (s.core (s.unit x.uid).core).ctx.mops.any (fun o => o.unit == x.uid) then .wait s else .done s []

/-- MWAIT (R371). -/
def execMwait (h : Hdr) (s : State) : Host.Outcome State Fault Refusal := runIssue h (.mwait h) mwaitBody s

/-! ### Acceptance of a pass that waited -/

/-- The issue of a pass. -/
def issuePass (i : Instr) (s : State) : Host.Outcome State Fault Refusal :=
  match i with
  | .mma h set bank t m => execMma h set bank t m s
  | .mmas h set bank t m => execMmas h set bank t m s
  | .mbmp h set bank ta tb m => execMbmp h set bank ta tb m s
  | .mhad h p t => execMhad h p t s
  | .mprn h n m tr td ts => execMprn h n m tr td ts s
  | _ => .next s

/-- MATRIX_ACCEPTANCE: once the reservation has ended, the first pass that waits for it is accepted as its unit issues it (R342,
R353). -/
def execMatrixAcceptance (core : Nat) (s : State) : Host.Outcome State Fault Refusal :=
  let c := s.core core
  match c.ctx.mops.find? fun o => !o.accepted && o.turn with
  | none => .next s
  | some o =>
    let here := match (s.unit o.unit).pick with
      | some e => e.pc == o.pc
      | none => false
    if c.reserved || c.mresetBusy || !here then .next s
    else
      match issuePass o.instr { s with cur := some o.unit } with
      | .next t => .next { t with cur := s.cur }
      | r => r

end Sys2Proof.Machine
end

