-- ==== Sys2Proof/Machine/MatDone.lean ====
section
/-! DEFINITION. The completion of accepted matrix operations in acceptance order (R354, R373 to R377), and the delivery of late
results to registers (R76). -/

namespace Sys2Proof.Machine

/-! ### Late results -/

/-- A result written into the registers of a checkpoint (R247). -/
def RunAhead.writeVar (ra : RunAhead) (u : Unit) (d : Dst) (vals : List (Nat × W64)) : RunAhead :=
  let w := ({ u with vregs := ra.vregs, sregs := ra.sregs, preds := ra.preds, late := ra.late }).writeVar d vals
  { ra with vregs := w.vregs, sregs := w.sregs, preds := w.preds, late := w.late }

/-- The results of a request or an operation written to the destinations that still wait for them, and to the checkpoint of a
run-ahead (R76, R247). -/
def Unit.landVar (u : Unit) (id : Nat) (ws : List (Dst × List (Nat × W64))) : Unit :=
  let owed := u.vpend.filter fun v => v.req == id
  ws.foldl (fun v w =>
    match owed.find? fun p => p.dst == w.1 with
    | some p =>
      let vals := w.2.filter fun q => match w.1 with
        | .r (.s _) => true
        | _ => hasLane p.mask q.1
      (v.writeVar w.1 vals).modAhead fun ra => ra.writeVar v w.1 vals
    | none => v) { u with vpend := u.vpend.filter fun v => v.req != id }

/-! ### Passes -/

/-- The cells of columns 0 to n − 1 of a row. -/
def Bank.rowCells (b : Bank) (row n : Nat) : List W32 := (List.range n).map fun c => (b.cells.get (64 * row + c)).getD 0#32

/-- Cells written from column 0 of a row; a zero is not listed. -/
def putCells (m : SMap W32) (k : Nat) : List W32 → SMap W32
  | [] => m
  | v :: vs => putCells (if v == 0#32 then SMap.del m k else SMap.set m k v) (k + 1) vs

/-- The mark of a row set or cleared. -/
def markRow (m : BitVec 32) (row : Nat) (b : Bool) : BitVec 32 :=
  if b then m ||| BitVec.twoPow 32 row else m &&& ~~~(BitVec.twoPow 32 row)

/-- One streamed row of a pass added to its accumulator row (R360). -/
def Bank.pass (b : Bank) (set modeF : Bool) (xside yside : Side) (row : Nat) (xs : List Nat) : Bank :=
  let r := passRow set modeF xside yside xs
    { cells := b.rowCells row yside.vecs.length, mark := b.marks.getLsbD row, ovf := b.ovf }
  { b with cells := putCells b.cells (64 * row) r.cells, marks := markRow b.marks row r.mark, ovf := r.ovf }

/-- A bank of a core changed. -/
def CoreCtx.modBank (c : CoreCtx) (k : Nat) (f : Bank → Bank) : CoreCtx := { c with banks := c.banks.adjust f k }

/-- The streamed rows of a pass over its stationary side (R339, R340, R343, R360). -/
def CoreCtx.runPass (c : CoreCtx) (set modeF : Bool) (yside : Side) (kext : Nat) (src : List Byte × List Byte)
    (rows : List (Nat × Nat × Nat)) : CoreCtx :=
  let h := hdrOf src.1
  let es := elemsOf h src.2
  let xside : Side := { kind := h.kind, vecs := [] }
  rows.foldl (fun k r => k.modBank r.2.1 fun b => b.pass set modeF xside yside r.2.2 (streamRow h es r.1 kext)) c

/-- The columns of the active plane (R340, R345). -/
def Plane.side (p : Plane) : Side :=
  let kind := p.kindw.toNat % 256
  { kind := kind,
    vecs := (List.range p.next).map fun n => (List.range p.kext).map fun k =>
      sideValue kind p.scales k ((p.vals.get (64 * k + n)).getD 0#32).toNat }

/-- The columns of a stationary bitmap tile; a bank has no more than 64 (R343, R347). -/
def tileSide (h : TileHdr) (es : Elems) : Side :=
  { kind := h.kind, vecs := (List.range (Nat.min h.ecols 64)).map fun n => tileColumn h es n h.erows }

/-- A source of an operation. -/
def MatOp.src (o : MatOp) (k : Nat) : List Byte × List Byte := o.srcs.getD k ([], [])

/-- The cells that MMA, MMAS and MBMP leave (R360, R361). -/
def CoreCtx.passDone (c : CoreCtx) (o : MatOp) (set modeF : Bool) (bitmap : Bool) : CoreCtx :=
  if bitmap then
    let h := hdrOf (o.src 1).1
    c.runPass set modeF (tileSide h (elemsOf h (o.src 1).2)) h.erows (o.src 0) o.rows
  else c.runPass set modeF c.active.side c.active.kext (o.src 0) o.rows

/-- The rows that ACZ zeroes, their marks cleared, and OVF where it zeroes all of a bank (R368). -/
def CoreCtx.zeroRows (c : CoreCtx) (rows : List (Nat × Nat × Nat)) : CoreCtx :=
  rows.foldl (fun k r => k.modBank r.2.1 fun b =>
    { b with
      cells := b.cells.keep fun i _ => i / 64 != r.2.2,
      marks := markRow b.marks r.2.2 false,
      ovf := b.ovf && rows.length != 32 }) c

/-- MLDS complete: SVALID where no other load of the shadow plane is in flight (R336, R358). -/
def CoreCtx.loadDone (c : CoreCtx) (id : Nat) : CoreCtx :=
  if c.mops.any fun o => o.accepted && o.id != id && isMlds o.instr then c
  else { c with shadow := { c.shadow with valid := true } }

/-! ### Tiles and registers -/

/-- A cell as a drain reads it: 0x7FC0_0000 in a marked row (R355, R369). -/
def Bank.drain (b : Bank) (row col : Nat) : W32 :=
  if !b.i32 && b.marks.getLsbD row then 0x7FC00000#32 else (b.cells.get (64 * row + col)).getD 0#32

/-- The payload of MHAD's tile (R346, R362). -/
def hadamardBytes (lg : Nat) (src : List Byte × List Byte) : List Byte :=
  let h := hdrOf src.1
  let es := elemsOf h src.2
  packElems (kindBits h.kind) ((List.range h.rows).flatMap fun r =>
    hadamardRow h.kind lg ((List.range h.cols).map fun c => (SMap.get es (r * h.cols + c)).getD 0))

/-- The header and payload of MPRN's tile (R363, R364). -/
def pruned (n m : Nat) (tr : Bool) (src : List Byte × List Byte) : List Byte × List Byte :=
  let h := hdrOf src.1
  let es := elemsOf h src.2
  let d := prnHdr h n m tr
  (hdrBytes d, payloadBytes d (if tr then pruneBlocks h es n m else pruneCols h es n m))

/-- The conversion type of a drain's destination. -/
def DrainKind.ty : DrainKind → CvtTy
  | .bf16 => .bf16
  | .fp16 => .f16
  | .fp32 => .f32
  | .e4m3 => .e4m3
  | .int8 => .s8
  | .int32 => .s32

/-- The header and payload of ACST's tile (R370). -/
def CoreCtx.drained (c : CoreCtx) (o : MatOp) (kind : DrainKind) (clamp tr : Bool) (rm : Rm) (cols : Nat) :
    List Byte × List Byte :=
  let d := acstHdr kind tr o.rows.length cols
  let cell (r : Nat × Nat × Nat) (n : Nat) : Nat :=
    let b := c.bank r.2.1
    (convert (DrainKind.ty kind) (if b.i32 then .s32 else .f32) rm clamp false (b.drain r.2.2 n).toNat).toNat
  let vs := if tr then (List.range cols).flatMap fun n => o.rows.map fun r => cell r n
    else o.rows.flatMap fun r => (List.range cols).map fun n => cell r n
  (hdrBytes d, packElems (kindBits d.kind) (vs.map fun v => v % 2 ^ kindBits d.kind))

/-- The number of marked rows drained (R370). -/
def CoreCtx.markedRows (c : CoreCtx) (o : MatOp) : Nat :=
  (o.rows.filter fun r => !(c.bank r.2.1).i32 && (c.bank r.2.1).marks.getLsbD r.2.2).length

/-- What ACRD delivers (R369). -/
def CoreCtx.acrdVals (c : CoreCtx) (o : MatOp) (ds : List Dst) (cols : List Nat) (wide : Bool) :
    List (Dst × List (Nat × W64)) :=
  (ds.zip cols).map fun p => (p.1, o.rows.map fun r =>
    let b := c.bank r.2.1
    let v := b.drain r.2.2 p.2
    (r.1, if wide && b.i32 then sx v else zx v))

/-! ### The event -/

/-- Whether an operation may complete: accepted, its latency past, and no earlier operation on a bank of its own to come (R341,
R354). -/
def Core.matReady (c : Core) (o : MatOp) : Bool :=
  o.accepted && !c.cyc.ult o.doneAt
    && !(c.ctx.mops.takeWhile fun p => p.id != o.id || !p.accepted).any fun p => p.accepted && p.banks.any o.banks.contains

/-- The effect of an operation's completion (R373). -/
def State.matEffect (s : State) (core : Nat) (o : MatOp) : State :=
  let c := (s.core core).ctx
  let modeF := recModeF (s.task o.task).record
  let pass (set bitmap : Bool) : State := s.modCtx core fun k => k.passDone o set modeF bitmap
  match o.instr with
  | .mlds .. => s.modCtx core fun k => k.loadDone o.id
  | .mldsK1 .. => s.modCtx core fun k => k.loadDone o.id
  | .mma _ set .. => pass set false
  | .mmas _ set .. => pass set false
  | .mbmp _ set .. => pass set true
  | .acz .. => s.modCtx core fun k => k.zeroRows o.rows
  | .mhad _ p _ =>
    (s.modTask o.task fun t =>
      { t with spad := t.spad.writeN ((t.tileEnt o.tile).base.toNat + 256) (hadamardBytes (HadP.lg p) (o.src 0)) }).modTile o.task
        o.tile fun e => { e with st := .ready }
  | .mprn _ n m tr _ _ =>
    let r := pruned n.toNat (prnM m) tr (o.src 0)
    s.fillSlot o.task o.tile r.1 r.2 none
  | .acst _ kind clamp tr cnt rm _ _ _ _ cols =>
    let r := c.drained o kind clamp tr rm cols.toNat
    (s.fillSlot o.task o.tile r.1 r.2 none).modUnit o.unit fun u =>
      u.landVar o.id ((tagDst cnt).map fun d => (d, [(o.lane, BitVec.ofNat 64 (c.markedRows o))]))
  | .acrdVector _ g d _ =>
    s.modUnit o.unit fun u =>
      u.landVar o.id (c.acrdVals o (acrdRegs d) ((List.range 16).map fun j => 16 * g.toNat + j) false)
  | .acrdScalar _ d _ _ col =>
    s.modUnit o.unit fun u => u.landVar o.id (c.acrdVals o [.r (.s d)] [col.toNat] true)
  | _ => s

/-- An operation that is done (R354). -/
def State.dropMop (s : State) (core id : Nat) : State :=
  s.modCtx core fun c => { c with mops := c.mops.filter fun o => !o.accepted || o.id != id }

/-- MATRIX_OPERATION_COMPLETION: an accepted operation takes effect and is done (R354, R373). -/
def evMatrixOperationCompletion (core op : Nat) (s : State) : State :=
  match (s.core core).ctx.mops.find? fun o => o.accepted && o.id == op with
  | none => s
  | some o => if (s.core core).matReady o then ((s.matEffect core o).dropMop core op).acted o.task else s

end Sys2Proof.Machine
end

