-- ==== Sys2Proof/Machine/Stream.lean ====
section
/-! DEFINITION. Streaming operations in the background (R288 to R290, R295 to R298, R310 to R315), the end of an access context
(R290, R307, R317), and the fault of an access strand (R323). -/

namespace Sys2Proof.Machine

/-! ### Entries and items -/

/-- A stream of a context. -/
def State.stream (s : State) (uid k : Nat) : Option Stream := (s.unit uid).streams.get k

/-- A stream replaced. -/
def State.setStream (s : State) (uid k : Nat) (x : Stream) : State :=
  s.modUnit uid fun u => { u with streams := u.streams.set k x }

/-- The flags of the first output entry of a source entry (R297). -/
def Stream.firstFlags (x : Stream) : W32 :=
  match x.srcTag with
  | some t => if x.first then t &&& tagRowBegin else 0#32
  | none => 0#32

/-- The flags of the last output entry of a source entry (R297). -/
def Stream.lastFlags (x : Stream) : W32 :=
  match x.srcTag with
  | some t => t &&& tagRowEnd
  | none => 0#32

/-- The words filled of the entry that is being packed. -/
def Stream.filled (x : Stream) : Nat := (x.words.headD []).length

/-- A partly filled entry put out, with flags beside TAG (R296, R297). -/
def Stream.flush (x : Stream) (flags : W32) : Stream :=
  if x.filled == 0 then x
  else
    { x with
      out := x.out ++ [(x.words, BitVec.ofNat 32 x.filled ||| x.firstFlags ||| flags)],
      words := x.words.map fun _ => [], first := false }

/-- An item packed, `size` words in each queue; the entry is put out where no further item fits, or where the source entry is
used up (R296, R297). -/
def Stream.pack (x : Stream) (wq size : Nat) (item : List (List W32)) (last : Bool) : Stream :=
  let y := { x with words := List.zipWith (fun a b => a ++ b) x.words item }
  if last then y.flush y.lastFlags else if wq < y.filled + size then y.flush 0#32 else y

/-- Whether an instruction appends END when it ends (R314, R315). -/
def endsWithEnd : Instr → Bool
  | .isct .. => true
  | .walk .. => true
  | _ => false

/-- An entry of no words, for every queue. -/
def Stream.bare (x : Stream) (tag : W32) : List (List W32) × W32 := (x.words.map fun _ => [], tag)

/-- The words of a POISON entry (R298, R323). -/
def poisonWords (cause opc : Nat) (index : W32) (info : W64) : List W32 :=
  [BitVec.ofNat 32 (cause + 256 * opc), index, lo32 info, hi32 info]

/-- The stop of an operation at an item fault (R298). -/
def Stream.poison (x : Stream) (cause : Cause) (info : W64) : Stream :=
  let y := x.flush 0#32
  let ws := poisonWords cause x.instr.toRaw.opc.toNat (BitVec.ofNat 32 x.item) info
  { y with
    out := y.out ++ (y.words.map fun _ => ws, tagPoison) :: if endsWithEnd y.instr then [y.bare tagLast] else [],
    finished := true }

/-- The number that stands for a stream slot in requests to other packages and to line directories. -/
def streamLane (k : Nat) : Nat := 200 + k

/-- What the read of an item comes to. -/
inductive ItemRead where
  | wait (s : State)
  | fault (cause : Cause) (info : W64)
  | got (s : State) (bytes : List Byte)

/-- A page that a stream has met not mapped: the coalescer is told once (R298). -/
def State.streamMiss (s : State) (uid k : Nat) (x : Stream) (page : Nat) : State :=
  if x.served.contains page then s
  else
    (s.setStream uid k { x with served := x.served ++ [page] }).coalEvent (s.unit uid).core
      (s.coalRecord uid 0 0 cPage (BitVec.ofNat 64 (page * 2 ^ 16)) x.pc)

/-- The read of n bytes at an offset of a handle, through the core's L1 (R289, R293, R298). -/
def State.itemRead (s : State) (uid k : Nat) (x : Stream) (hn : HandleN) (o : Int) (n : Nat) : ItemRead :=
  let u := s.unit uid
  let r := u.handle hn
  if !r.inBounds o n then .fault cAccBound (accInfo 2 hn o)
  else
    match s.engineXlat u.core u.task .r (addrsFrom ((r.base.toNat : Int) + o) n) with
    | .miss g => .wait (s.streamMiss uid k x g)
    | .fault _ c va => .fault c (BitVec.ofNat 64 va)
    | .ok pas =>
      match (s.fillTlb u.core (s.task u.task).asn (r.va o).toNat).readLanes u.core uid [(streamLane k, pas)] with
      | .wait t => .wait t
      | .done t vals lost fill =>
        let t1 := (t.installFill u.core fill).clearFarLane u.core uid (streamLane k)
        if lost.isEmpty then .got t1 (vals.flatMap Prod.snd) else .fault cLink (r.va o)

/-- How far one stride of an operation brings it. -/
inductive Stride where
  | stop (s : State)
  | go (s : State)

/-- A stride that reads: it waits, stops at an item fault, or goes on. -/
def onRead (r : ItemRead) (s : State) (uid k : Nat) (x : Stream) (f : State → List Byte → Stride) : Stride :=
  match r with
  | .wait t => .stop t
  | .fault c info => .go (s.setStream uid k (x.poison c info))
  | .got t bs => f t bs

/-- A stride that reads the bytes of items one after another. -/
def onReads (s : State) (uid k : Nat) (x : Stream) (hn : HandleN) :
    List (Int × Nat) → State → List (List Byte) → (State → List (List Byte) → Stride) → Stride
  | [], t, acc, f => f t acc.reverse
  | (o, n) :: rs, t, acc, f =>
    onRead (t.itemRead uid k x hn o n) s uid k x fun t1 bs => onReads s uid k x hn rs t1 (bs :: acc) f

/-! ### Source entries (R297) -/

/-- Whether an operation may take from a queue: no earlier consumer of its context is running on it (R295). -/
def Unit.mayTake (u : Unit) (x : Stream) (q : QueueN) : Bool :=
  !u.streams.vals.any fun y => decide (y.seq < x.seq) && (consOf y.instr).contains q

/-- Whether an operation may append to a queue: no earlier producer of its context is running into it (R295). -/
def Unit.mayAppend (u : Unit) (x : Stream) (q : QueueN) : Bool :=
  !u.streams.vals.any fun y => decide (y.seq < x.seq) && (prodOf y.instr).contains q

/-- A source entry taken (R297): POISON is copied and ends the operation, END completes it, and an entry that yields no item
gives one EMPTY entry. -/
def takeSource (s : State) (uid k : Nat) (x : Stream) (q : QueueN) (check : QWord → Option (Cause × W64)) : Stride :=
  let u := s.unit uid
  if !u.mayTake x q then .stop s
  else
    match s.takeEntry u.task q with
    | none => .stop s
    | some (e, t) =>
      let n := if hasFlag e.tag tagEmpty then 0 else tagCount e.tag
      if hasFlag e.tag tagPoison then
        .go (t.setStream uid k { x with out := x.out ++ [(x.words.map fun _ => e.words, e.tag)], finished := true })
      else if hasFlag e.tag tagEnd then .go (t.setStream uid k { x with finished := true })
      else
        match check e with
        | some (c, info) =>
          .go ((t.setStream uid k { x with finished := true }).accRaise uid x.pc c info x.instr.toRaw.opc.toNat)
        | none =>
          if n == 0 then
            .go (t.setStream uid k { x with
              out := x.out ++ [x.bare (tagEmpty ||| (e.tag &&& (tagRowBegin ||| tagRowEnd)))] })
          else
            .go (t.setStream uid k { x with
              src := (List.range n).map fun l => e.words.getD l 0#32, srcTag := some e.tag, first := true })

/-- The source entry without the words of an item, and given up where they were its last. -/
def Stream.spend (x : Stream) (n : Nat) : Stream :=
  let ws := x.src.drop n
  { x with src := ws, srcTag := if ws.isEmpty then none else x.srcTag, item := x.item + 1 }

/-! ### STRM and GTH -/

/-- The words of a STRM element (R310). -/
def strmItem (size : Size) (bs : List Byte) : List W32 :=
  let v := bytesVal bs
  match size with
  | .b64 => [BitVec.ofNat 32 v, BitVec.ofNat 32 (v / 2 ^ 32)]
  | _ => [BitVec.ofNat 32 (extendTo size 32 v)]

/-- One element of STRM (R310). -/
def strmStride (size : Size) (hn : HandleN) (s : State) (uid k : Nat) (x : Stream) : Stride :=
  let n := sizeBytes size
  if (lo32 x.c).toNat ≤ x.item then .go (s.setStream uid k { x.flush 0#32 with finished := true })
  else
    onRead (s.itemRead uid k x hn ((x.a.toNat : Int) + (x.item : Nat) * x.b.toInt) n) s uid k x fun t bs =>
      let y := x.pack (s.task (s.unit uid).task).wq (if n == 8 then 2 else 1) [strmItem size bs] false
      .go (t.setStream uid k { y with item := y.item + 1 })

/-- Words of a GTH item (R311). -/
def gthSize (e : Nat) : Nat := if e ≤ 4 then 1 else e / 4

/-- The words of a GTH element (R311). -/
def gthItem (sx : Bool) (e : Nat) (bs : List Byte) : List W32 :=
  if e ≤ 4 then
    let v := bytesVal bs
    [if sx then BitVec.ofInt 32 (sgnOf (8 * e) v) else BitVec.ofNat 32 v]
  else wordsOf bs (e / 4)

/-- Whether an index is absent (R311). -/
def absentIndex (x : W32) : Bool := x == 0xFFFFFFFE#32 || x == 0xFFFFFFFF#32

/-- The element of an index packed; an absent index reads nothing (R311). -/
def gthElem (sx : Bool) (e : Nat) (hn : HandleN) (i : W32) (last : Bool) (s t : State) (uid k : Nat) (x : Stream)
    (after : Stream → Stream) : Stride :=
  let wq := (s.task (s.unit uid).task).wq
  let put (t1 : State) (ws : List W32) : Stride := .go (t1.setStream uid k (after (x.pack wq (gthSize e) [ws] last)))
  if absentIndex i then put t (List.replicate (gthSize e) 0#32)
  else
    onRead (t.itemRead uid k x hn ((x.a.toNat : Int) + (i.toNat * e : Nat)) e) s uid k x fun t1 bs => put t1 (gthItem sx e bs)

/-- One index of GTH from memory (R311). -/
def gthStride (sx : Bool) (e : Nat) (hn : HandleN) (s : State) (uid k : Nat) (x : Stream) : Stride :=
  if (lo32 x.c).toNat ≤ x.item then .go (s.setStream uid k { x.flush 0#32 with finished := true })
  else
    onRead (s.itemRead uid k x hn ((x.b.toNat : Int) + (4 * x.item : Nat)) 4) s uid k x fun t bs =>
      gthElem sx e hn (BitVec.ofNat 32 (bytesVal bs)) false s t uid k x fun y => { y with item := y.item + 1 }

/-- One index of GTH from a queue (R297, R311). -/
def gthQStride (sx : Bool) (e : Nat) (hn : HandleN) (q : QueueN) (s : State) (uid k : Nat) (x : Stream) : Stride :=
  match x.srcTag, x.src with
  | none, _ => takeSource s uid k x q fun _ => none
  | some _, [] => .go (s.setStream uid k { x with srcTag := none })
  | some _, i :: rest => gthElem sx e hn i rest.isEmpty s s uid k x fun y => y.spend 1

/-! ### HPRB (R313) -/

/-- A key with the delta key added field by field. -/
def probeKey (key delta : Nat) : Nat :=
  let f (n : Nat) : Nat := (nbits key n 21 + nbits delta n 21) % 2 ^ 21
  f 0 + 2 ^ 21 * f 21 + 2 ^ 42 * f 42

/-- The slot at which a probe begins. -/
def probeHash (key b : Nat) : Nat := key * 0x9E3779B97F4A7C15 % 2 ^ 64 / 2 ^ (64 - b)

/-- What a probe comes to: it waits, a slot's read faults, or its result. -/
inductive Probe where
  | wait (s : State)
  | fault (cause : Cause) (info : W64)
  | done (s : State) (result : W32)

/-- The slots of a probe read in turn; `fuel` counts those that are left of 16. -/
def probeSlots16 (uid k : Nat) (x : Stream) (hn : HandleN) (b key h : Nat) : Nat → State → Probe
  | 0, s => .done s 0xFFFFFFFE#32
  | fuel + 1, s =>
    match s.itemRead uid k x hn ((x.a.toNat : Int) + (16 * ((h + (15 - fuel)) % 2 ^ b) : Nat)) 16 with
    | .wait t => .wait t
    | .fault c info => .fault c info
    | .got t bs =>
      if field bs 0 8 == key then .done t (BitVec.ofNat 32 (field bs 8 4))
      else if field bs 0 8 == 2 ^ 64 - 1 then .done t 0xFFFFFFFF#32
      else probeSlots16 uid k x hn b key h fuel t

/-- One key of HPRB (DEDUCED, assumption log 36). -/
def hprbStride (hn : HandleN) (q : QueueN) (b : Nat) (s : State) (uid k : Nat) (x : Stream) : Stride :=
  match x.srcTag, x.src with
  | none, _ => takeSource s uid k x q fun e =>
      if !hasFlag e.tag tagEmpty && tagCount e.tag % 2 == 1 then some (cQueue, queueInfo q 0x0007) else none
  | some _, lo :: hi :: rest =>
    let key := (join64 hi lo).toNat
    let wq := (s.task (s.unit uid).task).wq
    let put (t : State) (r : W32) : Stride :=
      let y := (x.pack wq 1 [[r]] rest.isEmpty).spend 2
      .go (t.setStream uid k { y with count := if r == 0xFFFFFFFE#32 then y.count + 1 else y.count })
    if 2 ^ 63 ≤ key then put s 0xFFFFFFFF#32
    else
      let kp := probeKey key x.b.toNat
      match probeSlots16 uid k x hn b kp (probeHash kp b) 16 s with
      | .wait t => .stop t
      | .fault c info => .go (s.setStream uid k (x.poison c info))
      | .done t r => put t r
  | some _, _ => .go (s.setStream uid k { x with srcTag := none })

/-! ### ISCT (R314) -/

/-- The emissions of one pair of words. -/
def isctEmit (w pa pb a b : Nat) : List (List (List W32)) :=
  ((List.range 64).filter fun i => a.testBit i && b.testBit i).map fun i =>
    let pop (v : Nat) : Nat := ((List.range i).filter fun j => v.testBit j).length
    [[BitVec.ofNat 32 (64 * w + i)], [BitVec.ofNat 32 (pa + pop a)], [BitVec.ofNat 32 (pb + pop b)]]

/-- Bits set in a 64-bit word. -/
def pop64 (v : Nat) : Nat := ((List.range 64).filter fun j => v.testBit j).length

/-- One word of ISCT. -/
def isctStride (hn : HandleN) (s : State) (uid k : Nat) (x : Stream) : Stride :=
  if (lo32 x.c).toNat ≤ x.item then
    let y := x.flush 0#32
    .go (s.setStream uid k { y with out := y.out ++ [y.bare tagLast], finished := true })
  else
    onReads s uid k x hn [((x.a.toNat : Int) + (8 * x.item : Nat), 8), ((x.b.toNat : Int) + (8 * x.item : Nat), 8)] s []
      fun t bss =>
        let a := bytesVal (bss.headD [])
        let b := bytesVal ((bss.drop 1).headD [])
        let es := isctEmit x.item x.pos x.pos2 a b
        let y := es.foldl (fun y e => y.pack (s.task (s.unit uid).task).wq 1 e false) x
        .go (t.setStream uid k { y with
          item := y.item + 1, count := y.count + es.length, pos := y.pos + pop64 a, pos2 := y.pos2 + pop64 b })

/-! ### WALK (R315) -/

/-- A marker of a row, or the end of the walk. -/
def walkMark (row : Nat) (flags : W32) : List (List W32) × W32 := ([[]], BitVec.ofNat 32 row ||| tagEmpty ||| flags)

/-- One stride of WALK: an entry is read, a marker is emitted, or the entry's data. The entry in hand is in `src`. -/
def walkStride (hn : HandleN) (rows : Nat) (s : State) (uid k : Nat) (x : Stream) : Stride :=
  let set (t : State) (y : Stream) : Stride := .go (t.setStream uid k y)
  let n := (lo32 x.b).toNat
  let at_ : Int := (x.a.toNat : Int) + (16 * x.item : Nat)
  match x.src with
  | row :: rest =>
    let r := row.toNat
    match x.row with
    | some o =>
      if o == r then
        set s { x with
          out := x.out ++ [([(row :: rest) ++ [BitVec.ofNat 32 x.item]], BitVec.ofNat 32 r)], src := [], item := x.item + 1 }
      else set s { x with out := x.out ++ [walkMark o tagRowEnd], row := none, rowNext := o + 1 }
    | none =>
      if x.rowNext < r then
        set s { x with out := x.out ++ [walkMark x.rowNext (tagRowBegin ||| tagRowEnd)], rowNext := x.rowNext + 1 }
      else set s { x with out := x.out ++ [walkMark r tagRowBegin], row := some r }
  | [] =>
    if x.item < n then
      onRead (s.itemRead uid k x hn at_ 16) s uid k x fun t bs =>
        let r := field bs 0 2
        let back := match x.row with
          | some o => decide (r < o)
          | none => false
        if decide (rows ≤ r) || back then set t (x.poison cMeta (((s.unit uid).handle hn).va at_))
        else
          set t { x with
            src := [BitVec.ofNat 32 r, BitVec.ofNat 32 (field bs 2 2), BitVec.ofNat 32 (field bs 4 4),
              BitVec.ofNat 32 (field bs 8 4)] }
    else
      match x.row with
      | some o => set s { x with out := x.out ++ [walkMark o tagRowEnd], row := none, rowNext := o + 1 }
      | none =>
        if x.rowNext < rows then
          set s { x with out := x.out ++ [walkMark x.rowNext (tagRowBegin ||| tagRowEnd)], rowNext := x.rowNext + 1 }
        else set s { x with out := x.out ++ [([[]], tagLast)], finished := true }

/-! ### SCT (R312) -/

/-- Value and index words of a pair, alternating, absent indices passed over. -/
def sctPairs (n : Nat) (v i : List W32) : List W32 :=
  ((List.range n).filter fun l => !absentIndex (i.getD l 0#32)).flatMap fun l => [i.getD l 0#32, v.getD l 0#32]

/-- What one word of SCT meets before it is performed (R293, R301, R312). -/
def sctAddr (s : State) (uid : Nat) (x : Stream) (hn : HandleN) (p : Perm) (i : W32) : CopyX :=
  let u := s.unit uid
  let r := u.handle hn
  let o : Int := (x.a.toNat : Int) + (4 * i.toNat : Nat)
  if !r.inBounds o 4 then .fault [] cAccBound (accInfo 2 hn o).toNat
  else if (r.va o).toNat % 4 != 0 then .fault [] cMisalign (r.va o).toNat
  else s.engineXlat u.core u.task p (addrsFrom ((r.base.toNat : Int) + o) 4)

/-- The destination bytes of the words of a pair, in order, up to the first that faults or misses its page. -/
def sctCells (s : State) (uid : Nat) (x : Stream) (hn : HandleN) : List W32 → Cells → Cells × CopyX
  | i :: v :: rest, acc =>
    match sctAddr s uid x hn .w i with
    | .ok pas => sctCells s uid x hn rest (acc ++ (pas.zip ((valBytes 4 v.toNat).map fun b => (b, 0xFF#8))))
    | r => (acc, r)
  | _, acc => (acc, .ok [])

/-- A pair taken from both queues, after what may stop it (R312). -/
def sctTake (qv qi : QueueN) (s : State) (uid k : Nat) (x : Stream) : Stride :=
  let u := s.unit uid
  let opc := x.instr.toRaw.opc.toNat
  if !(u.mayTake x qv && u.mayTake x qi) then .stop s
  else
    match s.takeEntry u.task qv with
    | none => .stop s
    | some (ev, s1) =>
      match s1.takeEntry u.task qi with
      | none => .stop s
      | some (ei, t) =>
        let stop (c : Cause) (info : W64) : Stride :=
          .go ((t.setStream uid k { x with finished := true }).accRaise uid x.pc c info opc)
        if hasFlag ev.tag tagPoison then stop cPoison (poisonInfo qv ev)
        else if hasFlag ei.tag tagPoison then stop cPoison (poisonInfo qi ei)
        else if (ev.tag ^^^ ei.tag) &&& (0xFFFF#32 ||| tagEmpty ||| tagEnd) != 0#32 then stop cQueue (queueInfo qv 0x0003)
        else
          let n := if hasFlag ev.tag tagEmpty then 0 else tagCount ev.tag
          .go (t.setStream uid k { x with src := sctPairs n ev.words ei.words, srcTag := some ev.tag })

/-- The words of a pair written under the ownership of their lines; those of other packages by messages (R50, R312). -/
def sctStore (hn : HandleN) (s : State) (uid k : Nat) (x : Stream) : Stride :=
  let u := s.unit uid
  let r := sctCells s uid x hn x.src []
  let go (halt : Option (Nat × W64)) : Stride :=
    let far := r.1.filter fun c => (remotePkg s c.1).isSome
    let near := r.1.filter fun c => (remotePkg s c.1).isNone
    let t := far.foldl (fun st c => match remotePkg st c.1 with
      | some p => (st.wbByte u.core c.1).remoteWrite p c.1 c.2.1
      | none => st) s
    let q := t.askLines (u.core, 1, 4 * uid + k) (byLine near)
    .go (q.2.setStream uid k { x with src := [], lines := q.1, halt := halt })
  match r.2 with
  | .ok _ => go none
  | .miss g => .stop (s.streamMiss uid k x g)
  | .fault _ c info => go (some (c, BitVec.ofNat 64 info))

/-- The atomic of one word of SCT with addition (R312). -/
def sctCode (comb : Comb) (v : W32) : AtomCode :=
  match comb with
  | .fadd => { opc := 0x87, op := 0, z := false, n := 4, b := v.toNat, c := 0 }
  | _ => { opc := 0x86, op := 0, z := false, n := 4, b := v.toNat, c := 0 }

/-- One word of SCT with addition, performed at home (R312). -/
def sctAdd (comb : Comb) (hn : HandleN) (i v : W32) (rest : List W32) (s : State) (uid k : Nat) (x : Stream) : Stride :=
  let u := s.unit uid
  let halt (t : State) (c : Cause) (info : Nat) : Stride :=
    .go (t.setStream uid k { x with src := [], halt := some (c, BitVec.ofNat 64 info) })
  match sctAddr s uid x hn .rw i with
  | .miss g => .stop (s.streamMiss uid k x g)
  | .fault _ c info => halt s c info
  | .ok pas =>
    match s.versionOp u.core uid (streamLane k) (sctCode comb v) (pas.headD 0) with
    | .wait t => .stop t
    | .lost t => halt t cLink ((u.handle hn).va ((x.a.toNat : Int) + (4 * i.toNat : Nat))).toNat
    | .got t _ => .go (t.setStream uid k { x with src := rest })

/-- One stride of SCT. -/
def sctStride (comb : Comb) (hn : HandleN) (qv qi : QueueN) (s : State) (uid k : Nat) (x : Stream) : Stride :=
  let opc := x.instr.toRaw.opc.toNat
  match x.srcTag with
  | none => sctTake qv qi s uid k x
  | some tag =>
    match x.src with
    | i :: v :: rest => if comb == .st then sctStore hn s uid k x else sctAdd comb hn i v rest s uid k x
    | _ =>
      if !x.lines.isEmpty then .stop s
      else
        match x.halt with
        | some (c, info) => .go ((s.setStream uid k { x with finished := true, halt := none }).accRaise uid x.pc c info opc)
        | none =>
          .go (s.setStream uid k { x with srcTag := none, finished := x.finished || hasFlag tag tagEnd })

/-! ### Progress and completion -/

/-- One stride of an operation that has no entry to append (R310 to R315). -/
def streamWork (s : State) (uid k : Nat) (x : Stream) : Stride :=
  match x.instr with
  | .strm _ size _ hn _ _ _ => strmStride size hn s uid k x
  | .gth _ sx _ hn _ _ _ e => gthStride sx e.toNat hn s uid k x
  | .gthQ _ sx _ hn _ qs e => gthQStride sx e.toNat hn qs s uid k x
  | .sct _ comb hn _ qv qi => sctStride comb hn qv qi s uid k x
  | .hprb _ _ _ hn _ _ qk b => hprbStride hn qk b.toNat s uid k x
  | .isct _ _ _ hn _ _ _ => isctStride hn s uid k x
  | .walk _ _ hn _ _ rows _ => walkStride hn rows.toNat s uid k x
  | _ => .stop s

/-- One entry appended to each queue of an operation, or none where one is full or an earlier producer runs (R295, R314). -/
def State.appendAll (s : State) (uid : Nat) (x : Stream) (e : List (List W32) × W32) : Option State :=
  let u := s.unit uid
  let qs := prodOf x.instr
  if qs.all fun q => u.mayAppend x q then
    (qs.zip e.1).foldl (fun acc p => acc.bind fun t =>
      (t.putEntry u.task p.1 { words := p.2, tag := e.2 }).map fun t1 =>
        t1.modUnit uid fun v => { v with appended := insertN p.1.toNat v.appended }) (some s)
  else none

/-- The end of an access context: its handles are unbound and its strand ends (R290). -/
def State.endContext (s : State) (uid : Nat) : State :=
  s.modUnit uid fun u =>
    { u with
      frontier := [], streams := [], handles := [], accFault := none, poison := none,
      lanes := u.lanes.mapVal fun _ y => { y with st := .exited } }

/-- The outgoing edge and the end of a context whose operations are done (R307, R317). -/
def closeContext (s : State) (uid k : Nat) (x : Stream) : State :=
  let drop (t : State) : State := t.modUnit uid fun u => { u with streams := u.streams.del k }
  match (drop s).outEdge uid 0 with
  | .wait t => t.setStream uid k x
  | .fault t c i => t.accRaise uid x.pc c i x.instr.toRaw.opc.toNat
  | .ok t => t.endContext uid

/-- The completion of an operation that produces nothing more: its destination is written and its slot frees (R288). -/
def streamDone (s : State) (uid k : Nat) (x : Stream) : State :=
  let free (t : State) : State :=
    (t.modUnit uid fun u => { u with streams := u.streams.del k }).acted (s.unit uid).task
  let write (d : Reg) (t : State) : State :=
    t.modUnit uid fun u => (u.unpend (.r d)).writeVar (.r d) [(0, BitVec.ofNat 64 x.count)]
  match x.instr with
  | .qendX .. => if (s.unit uid).streams.length == 1 then closeContext s uid k x else s
  | .hprb _ d _ _ _ _ _ _ => free (write d s)
  | .isct _ d _ _ _ _ _ => free (write d s)
  | .sct .. => if s.remoteOps.isEmpty then free s else s
  | _ => free s

/-- One stride of an operation: an entry appended, or the work that makes one. -/
def streamStride (s : State) (uid k : Nat) (x : Stream) : Stride :=
  match x.out with
  | e :: rest =>
    match s.appendAll uid x e with
    | some t => .go (t.setStream uid k { x with out := rest })
    | none => .stop s
  | [] => if x.finished then .stop (streamDone s uid k x) else streamWork s uid k x

/-- An operation brought as far as it can be, by at most `fuel` strides. -/
def runStream (uid k : Nat) : Nat → State → State
  | 0, s => s
  | fuel + 1, s =>
    match s.stream uid k with
    | none => s
    | some x =>
      match streamStride s uid k x with
      | .stop t => t
      | .go t => runStream uid k fuel t

/-- The most strides of one event. -/
def streamFuel : Nat := 65536

/-- STREAMING_OPERATION_COMPLETION: an operation appends, takes and writes what it can, and frees its slot once it is done
(R288) (DESIGN CHOICE, assumption log 37). -/
def evStreamingOperationCompletion (uid k : Nat) (s : State) : State :=
  if (s.task (s.unit uid).task).st == .resident then runStream uid k streamFuel s else s

/-- A stream's writes to a line that it owns finished, and the line released (R50). -/
def streamLineRelease (line uid k : Nat) (s : State) : State :=
  match s.stream uid k with
  | none => s.releaseLine line
  | some x =>
    let cs := (x.lines.filter fun p => p.1 == line).flatMap Prod.snd
    let t := ((s.writeCells cs).sliceAccess (128 * line)).releaseLine line
    t.setStream uid k { x with lines := x.lines.filter fun p => p.1 != line }

/-- ENGINE_LINE_RELEASE: the engine that owns a line finishes its writes to it and releases it, and the next request proceeds
(R50). -/
def evEngineLineRelease (line : Nat) (s : State) : State :=
  match (s.lineDir line).owner with
  | none => s
  | some (core, 0, id) => copyLineRelease line core id s
  | some (_, _, n) => streamLineRelease line (n / 4) (n % 4) s

/-! ### Faults of the access strand (R323) -/

/-- The queues that are owed POISON and END, in order (R323). -/
def State.poisonDue (s : State) (uid : Nat) : List (Nat × Bool) :=
  let u := s.unit uid
  (u.appended.filter fun n => match s.queue u.task (BitVec.ofNat 3 n) with
    | some qs => !qs.closed
    | none => false).map fun n => (n, false)

/-- The coalescer record of a fault of an access strand for which no queue qualifies (R323). -/
def State.accRecord (s : State) (uid : Nat) (cause : Cause) (info pc : W64) : State :=
  s.coalEvent (s.unit uid).core (s.coalRecord uid 0 1 cause (coalAddr cause info) pc)

/-- POISON, then END, appended to one queue as far as it has room (R323). -/
def State.owe (s : State) (uid : Nat) (cause : Cause) (info : W64) (opc : Nat) (p : Nat × Bool) : State × List (Nat × Bool) :=
  let u := s.unit uid
  let q : QueueN := BitVec.ofNat 3 p.1
  let fin (t : State) : State × List (Nat × Bool) :=
    match t.putEntry u.task q { words := [], tag := tagLast } with
    | some t1 => (t1, [])
    | none => (t, [(p.1, true)])
  if p.2 then fin s
  else
    match s.putEntry u.task q { words := poisonWords cause opc ones32 info, tag := tagPoison } with
    | some t => fin t
    | none => (s, [p])

/-- The context of a faulted strand ended once nothing is owed, with its outgoing edge; an edge that finds a target lost is
reported (R317, R323) (DEDUCED, assumption log 38). -/
def endFaulted (s : State) (uid : Nat) (pc : W64) : State :=
  match s.outEdge uid 0 with
  | .wait t => t
  | .fault t c i => (t.accRecord uid c i pc).endContext uid
  | .ok t => t.endContext uid

/-- ACCESS_STRAND_FAULT: once the context's operations are done, POISON and END go to each queue that qualifies, or a record to
the coalescer, and the context ends (R323). -/
def evAccessStrandFault (uid : Nat) (s : State) : State :=
  let u := s.unit uid
  match u.accFault with
  | none => s
  | some (cause, info, pc, opc) =>
    if (s.task u.task).st != .resident then s
    else if u.streams.vals.any fun x => !(match x.instr with
      | .qendX .. => true
      | _ => false) then s
    else
      let s0 := s.modUnit uid fun v => { v with streams := [] }
      let due := match u.poison with
        | some ps => ps
        | none => s0.poisonDue uid
      let s1 := if u.poison.isNone && due.isEmpty then s0.accRecord uid cause info pc else s0
      let r := due.foldl (fun (acc : State × List (Nat × Bool)) p =>
        let q := acc.1.owe uid cause info opc p
        (q.1, acc.2 ++ q.2)) (s1, [])
      let t := r.1.modUnit uid fun v => { v with poison := some r.2 }
      if r.2.isEmpty then endFaulted t uid pc else t

/-- The pages at which a context or its operations wait. -/
def Unit.accPages (u : Unit) : List Nat := sortN (u.service ++ u.streams.vals.flatMap fun x => x.served)

/-- ACCESS_PAGE_FAULT_SERVICE: the kernel has served the pages at which a context or its operations wait, by mapping them or by
naming them undeliverable, and the waits end (R298, R301). -/
def evAccessPageFaultService (uid : Nat) (undeliverable : List Nat) (s : State) : State :=
  let u := s.unit uid
  let t := s.task u.task
  if u.kind != .acc then s
  else
    let s1 := s.addUndeliverable t.asn (u.accPages.filter fun g => undeliverable.contains g)
    let still (g : Nat) : Bool :=
      !s1.undeliv t.asn g && (s1.translate u.core t.part t.asn (g * 2 ^ 16) .r == .pageFault)
    s1.modUnit uid fun v =>
      { v with
        service := v.service.filter still,
        streams := v.streams.mapVal fun _ x => { x with served := x.served.filter still } }

end Sys2Proof.Machine
end

