-- ==== Sys2Proof/Machine/TaskEvents.lean ====
section
/-! DEFINITION. What the task engine does between issues: host launches and distribution (R130), block moves (R131), stealing
(R132), placement (R134, R135), completion (R138), parking and pending inheritances (R143, R148), RGROW (R144, R149), and the
releases of a frontier (R160, R165). -/

namespace Sys2Proof.Machine

/-! ### Host launches -/

/-- The dies of a partition, in increasing order (R130). -/
def State.partDies (s : State) (part : Nat) : List Nat := sortN ((s.part part).clusters.map fun c => c / 16)

/-- The number of no core: its TLB is empty, so a translation as it walks the table (R409). -/
def walkCore : Nat := 0xFFFF

/-- The record that a host launch names, where its address is one of a record and translates. -/
def State.hostRecord (s : State) (part asn : Nat) (va : W64) : Option (List Byte) :=
  if va.toNat % 256 != 0 || decide (2 ^ 48 ≤ va.toNat) then none
  else
    match s.translate walkCore part asn va.toNat .r with
    | .ok pa => some (s.homeReadN pa 256)
    | _ => none

/-- HOST_LAUNCH: a launch is distributed, or refused to the kernel (R129, R130, R133). A record that cannot be read is refused
with no value. -/
def evHostLaunch (part asn proc : Nat) (record : W64) (s : State) : State :=
  let refuse (info : W64) : State := { s with reports := s.reports ++ [.launchRefused record info] }
  match s.hostRecord part asn record with
  | none => refuse 0#64
  | some r =>
    match recMalformed r true with
    | some info => refuse info
    | none =>
      if s.fitsNone part r then refuse 2#64
      else
        let (id, t) := s.fresh
        let k : Launch :=
          { part := part, asn := asn, proc := proc, record := r, addr := record, count := recCount r, next := [],
            live := recCount r }
        { t with launches := t.launches.set id k }

/-- The next task of a launch that the distributor of a die emits, if it has one left (R130). -/
def Launch.nextFor (k : Launch) (dies : List Nat) (die : Nat) : Option Nat :=
  if !dies.contains die then none
  else
    let i := (k.next.get die).getD (dies.takeWhile fun d => d != die).length
    if i < k.count then some i else none

/-- The partition's entries of a die's canopy queue. -/
def State.canopyOf (s : State) (die part : Nat) : List QEntry := (s.die die).canopy.filter fun e => e.part == part

/-- The partition's entries in the overflow area that came from a die (R131). -/
def State.overflowOf (s : State) (die part : Nat) : List QEntry :=
  ((s.part part).overflow.filter fun p => p.1 == die).map Prod.snd

/-- The launches of a partition with the task that a die emits next. -/
def State.emittable (s : State) (die part : Nat) : List (Nat × Nat) :=
  (s.launches.filter fun p => p.2.part == part).filterMap fun p => (p.2.nextFor (s.partDies part) die).map fun i => (p.1, i)

/-- Entries below which a queue is refilled (R130, R131). -/
def lowMark : Nat := 8

/-- DISTRIBUTOR_EMIT: the next task of the oldest launch enters the canopy queue (R130, R131). -/
def evDistributorEmit (die part : Nat) (s : State) : State :=
  if decide (lowMark ≤ (s.canopyOf die part).length) || !(s.overflowOf die part).isEmpty then s
  else
    match s.emittable die part with
    | [] => s
    | (n, i) :: _ =>
      match s.launches.get n with
      | none => s
      | some k =>
        let (id, t) := s.fresh
        let e : QEntry :=
          { id := id, part := part, asn := k.asn, proc := k.proc, launch := n, record := k.record, addr := k.addr,
            arg := recArg k.record, depth := 0, index := BitVec.ofNat 32 i, parent := none, home := 64 * die,
            claimed := false, cont := none, passed := 0 }
        match t.pushCanopy die e with
        | none => s
        | some t1 =>
          { t1 with launches := t1.launches.set n { k with next := k.next.set die (i + (s.partDies part).length) } }

/-! ### Block moves and stealing -/

/-- A block moved down from a cluster's copse queue to a core's glade queue: entries that fit the core when it is empty (R131,
R134). -/
def moveToGlade (core : Nat) (s : State) : State :=
  let q := s.copseOf (core / 4)
  if decide (lowMark ≤ (s.core core).glade.length) || !s.mayPlace core then s
  else
    let b := blockOf (q.filter fun e => s.fitsEmpty core e.record)
    ({ s with copse := if b.isEmpty then s.copse else s.copse.set (core / 4) (without q b) }).modCore core fun c =>
      { c with glade := c.glade ++ b }

/-- A block moved down from a die's canopy queue to a cluster's copse queue (R131). -/
def moveToCopse (cl : Nat) (s : State) : State :=
  if lowMark ≤ (s.copseOf cl).length then s
  else
    let die := cl / 16
    let b := blockOf (s.canopyOf die (s.clusterPart cl))
    if b.isEmpty then s
    else
      ({ s with copse := s.copse.set cl (s.copseOf cl ++ b) }).modDie die fun d => { d with canopy := without d.canopy b }

/-- A block moved down from a partition's overflow area to a die's canopy queue (R131). -/
def moveToCanopy (die part : Nat) (s : State) : State :=
  if lowMark ≤ (s.canopyOf die part).length then s
  else
    let b := blockOf (s.overflowOf die part)
    (s.modPart part fun p => { p with overflow := p.overflow.filter fun x => !b.any fun e => e.id == x.2.id }).modDie die
      fun d => { d with canopy := d.canopy ++ b }

/-- BLOCK_MOVE: up to eight entries move down a level: 0 to the glade queue of a core, 1 to the copse queue of a cluster, 2 to
the canopy queue of a die, for a partition (R131). -/
def evBlockMove (level idx part : Nat) (s : State) : State :=
  match level with
  | 0 => moveToGlade idx s
  | 1 => moveToCopse idx s
  | 2 => moveToCanopy idx part s
  | _ => s

/-- Whether a distributor runs dry for a partition (R132). -/
def State.isDry (s : State) (die part : Nat) : Bool :=
  (s.canopyOf die part).isEmpty && (s.overflowOf die part).isEmpty && (s.emittable die part).isEmpty
    && (s.partCores part).any fun c => dieOf c == die && (s.core c).glade.isEmpty

/-- RUN_DRY: steal messages go to the partition's other dies in the order of R132. -/
def evRunDry (die part : Nat) (s : State) : State :=
  let d := s.die die
  if !((d.dry.get part).getD []).isEmpty || (d.stolen.get part).isSome || !s.isDry die part then s
  else
    let order := ([1, 2, 3].map fun k => (die + k) % 4).filter fun x => (s.partDies part).contains x
    s.setDie die { d with dry := d.dry.set part order }

/-- The oldest block of eight (R132). -/
def oldestBlock (es : List QEntry) : List QEntry :=
  let ids := (sortN (es.map QEntry.id)).take 8
  es.filter fun e => ids.contains e.id

/-- STEAL_MESSAGE: the die that the thief asks next gives its oldest block where it holds at least 16 entries, and else
declines (R132). -/
def evStealMessage (die thief part : Nat) (s : State) : State :=
  match ((s.die thief).dry.get part).getD [] with
  | [] => s
  | x :: xs =>
    if x != die then s
    else if (s.canopyOf die part).length < 16 then
      s.modDie thief fun d => { d with dry := if xs.isEmpty then d.dry.del part else d.dry.set part xs }
    else
      let b := oldestBlock (s.canopyOf die part)
      (s.modDie die fun d => { d with canopy := without d.canopy b }).modDie thief fun d =>
        { d with dry := d.dry.del part, stolen := d.stolen.set part b }

/-- STEAL_REPLY: a dry distributor receives a stolen block (R132). -/
def evStealReply (die _donor part : Nat) (s : State) : State :=
  match (s.die die).stolen.get part with
  | none => s
  | some b =>
    match s.pushCanopies die b with
    | some t => t.modDie die fun d => { d with stolen := d.stolen.del part }
    | none => s

/-! ### Parking (R148) -/

/-- The blocked states in which a group may be parked (R148). -/
def Wait.parks : Wait → Bool
  | .await => true
  | .exit => true
  | .rfl .. => true
  | .rgrow .. => true
  | .syng => true
  | .awf .. => true
  | .cps .. => true
  | .ord => true
  | .qpop .. => true
  | .qpush .. => true
  | .grant .. => true
  | _ => false

/-- Whether a unit lets its task be parked: a group or a sequencer all of whose entries are blocked, one at least in a state of
R148; an access context at any time. -/
def Unit.mayPark (u : Unit) : Bool :=
  u.kind == .acc || u.isOver
    || (u.runAhead.isNone && u.service.isEmpty && u.frontier.all (fun e => e.blk.isSome && e.blk != some .escalated
        && e.blk != some (.stopped true) && e.blk != some (.stopped false))
      && u.frontier.any fun e => match e.blk with
        | some w => w.parks
        | none => false)

/-- The cycles for which a child or a glade entry must wait (R143, R148). -/
def parkLimit : Nat := 65536

/-- The lowest spill slot of a partition that holds nothing and that no core's SSLOT or FSLOT names (R151, R421). -/
def State.freeSpillSlot (s : State) (part : Nat) : Option Nat :=
  let p := s.part part
  let named := (s.partCores part).flatMap fun c => [(s.core c).sslot.toNat, (s.core c).fslot.toNat]
  (List.range p.arena.splCnt.toNat).find? fun k => (p.slots.get k).isNone && !named.contains k

/-- Whether nothing of a task is in flight on its core: no copy, no matrix operation, no line owned by a stream, no load
(DEDUCED, assumption log 42). -/
def State.quiet (s : State) (t : Nat) : Bool :=
  let k := s.task t
  let c := (s.core k.core).ctx
  !(c.copies.vals.any fun o => o.task == t) && !(c.mops.any fun o => o.task == t)
    && k.units.all fun uid => (s.unit uid).vpend.all (fun v => v.req == 0)
      && (s.unit uid).streams.vals.all fun x => x.lines.isEmpty

/-- Whether a task may be parked (R148). -/
def State.parkable (s : State) (t : Nat) : Bool :=
  let k := s.task t
  let c := s.core k.core
  k.st == .resident && !c.spill && s.quiet t && (k.units.map s.unit).all Unit.mayPark
    && match k.awaitSince with
      | some x => decide (parkLimit ≤ (c.cyc - x).toNat)
      | none => false

/-- PARK: the spill engine begins to write the task's context to a free slot (R148, R151). -/
def evPark (t : Nat) (s : State) : State :=
  let k := s.task t
  if !s.parkable t then s
  else
    match s.freeSpillSlot k.part with
    | none => s
    | some n =>
      ((s.modPart k.part fun p => { p with slots := p.slots.set n (.park t) }).setTask t
        { k with st := .parking, slot := some n }).modCore k.core fun c => { c with spill := true, spillWork := [t] }

/-- The frames of a task's lanes. -/
def State.framesOf (s : State) (t : Nat) : List Nat :=
  (s.task t).units.flatMap fun uid => (s.unit uid).lanes.vals.filterMap Lane.frame

/-- The frames of a task with one STATUS given another. -/
def State.setStatus (s : State) (t a b : Nat) : State :=
  let put (f : Frame) : Frame := if f.status == a then { f with status := b } else f
  { s with frames := (s.framesOf t).foldl (fun m x => m.adjust put x) s.frames }

/-- A parked task's footprint freed, its planes kept with it and their hold released, its awaiting frames in STATUS 4 (R148,
R337). -/
def State.parkDone (s : State) (t : Nat) : State :=
  let k := s.task t
  let c := (s.core k.core).ctx
  let held := c.hold == some t
  let s1 := s.modCtx k.core fun x =>
    { x with
      tasks := x.tasks.filter fun n => n != t
      rgrow := x.rgrow.filter fun g => !k.units.contains g.1
      hold := if held then Option.none else x.hold
      active := if held then Plane.none else x.active
      shadow := if held then Plane.none else x.shadow }
  let planes := if held then some (c.active, c.shadow) else none
  if (s.tasks.get t).isNone then s
  else (s1.setTask t { k with st := .parked, awaitSince := none, planes := planes }).setStatus t 2 4

/-- The demand of a parked task: its record's, with the registers that its groups hold (R133, R144). -/
def State.parkedDemand (s : State) (t : Nat) : Demand :=
  let k := s.task t
  let us := s.heldUnits k
  let gs := us.filter fun u => u.kind == .group
  { recDemand k.record with
    widths := gs.map Unit.width, regs := gs.foldl (fun n u => n + groupBytes u.width u.regs) 0,
    seqs := (us.filter fun u => u.kind == .seq).length, accs := (us.filter fun u => u.kind == .acc).length }

/-- The lane slots that a parked task would take, where it may resume (R148, R337). -/
def State.resumable (s : State) (t : Nat) : Option (List Nat) :=
  let k := s.task t
  let free := (s.framesOf t).any fun a => match s.frames.get a with
    | some f => f.status == 4 && f.pend == 0
    | none => false
  if k.st == .parked && free && !(k.planes.isSome && (s.core k.core).ctx.hold.isSome) then
    s.fitsBeside k.core (s.held k.core) (s.parkedDemand t) 0 0
  else none

/-- The RGROW requests of a unit made afresh (R148). -/
def Unit.growReqs (u : Unit) (uid : Nat) (cyc : W64) : List (Nat × Nat × Reg × W64) :=
  u.frontier.filterMap fun e => match e.blk with
    | some (.rgrow d n) => some (uid, n, d, cyc)
    | _ => none

/-- New lane slots for the groups of a task. -/
def State.reslot (s : State) : List Nat → List Nat → State
  | uid :: us, a :: as =>
    if (s.unit uid).kind == .group && !(s.unit uid).isOver then (s.modUnit uid fun u => { u with slot := a / 8 }).reslot us as
    else s.reslot us (a :: as)
  | _, _ => s

/-- PARK_RESUME: a parked task is resident again on its own core; its first issue waits for the restore (R135, R148). -/
def evParkResume (t : Nat) (s : State) : State :=
  let k := s.task t
  match s.resumable t with
  | none => s
  | some slots =>
    let ctxNo := s.freeContext k.core
    let cyc := (s.core k.core).cyc
    let k1 : Task := { k with st := .resident, restoring := true, planes := none, lastAct := cyc, hungSent := false }
    let grow := k.units.flatMap fun uid => (s.unit uid).growReqs uid cyc
    let s1 := (s.setTask t k1).modCtx k.core fun x =>
      let y : CoreCtx := { x with tasks := x.tasks ++ [t], rgrow := x.rgrow ++ grow }
      match k.planes with
      | some p => { y with hold := some t, active := p.1, shadow := p.2 }
      | none => y
    ((k.units.foldl (fun st uid => st.modUnit uid fun u => if u.kind == .acc then { u with slot := ctxNo } else u) s1).reslot
      k.units slots).setStatus t 4 2

/-- SPILL_RESTORE: the restore of a resumed or inheriting task is done, and its slot is free (R135). -/
def evSpillRestore (t : Nat) (s : State) : State :=
  let k := s.task t
  if !k.restoring then s
  else
    let s1 := match k.slot with
      | some n => s.modPart k.part fun p => { p with slots := p.slots.del n }
      | none => s
    s1.setTask t { k with restoring := false, slot := none }

/-! ### Pending inheritances (R143) -/

/-- INHERITANCE_SPILL: a pending inheritance that has held back a glade entry for 65,536 cycles goes to a spill slot (R143). -/
def evInheritanceSpill (t : Nat) (s : State) : State :=
  let k := s.task t
  let c := s.core k.core
  match c.failSince.get t with
  | none => s
  | some x =>
    if k.st != .pending || !c.ctx.tasks.contains t || decide ((c.cyc - x).toNat < parkLimit) then s
    else
      match s.freeSpillSlot k.part with
      | none => s
      | some n =>
        (((s.modPart k.part fun p => { p with slots := p.slots.set n (.inherit t) }).setTask t
          { k with slot := some n }).modCtx k.core fun y => { y with tasks := y.tasks.filter fun m => m != t }).modCore k.core
            fun y => { y with failSince := y.failSince.del t }

/-! ### Placement and completion -/

/-- The parked tasks of a core that may resume, in order. -/
def State.resumeList (s : State) (core : Nat) : List Nat :=
  (s.tasks.filter fun p => p.2.core == core && p.2.st == .parked && (s.resumable p.1).isSome).map Prod.fst

/-- PLACEMENT: a core places the first that fits, a parked task first (R134, R135). A swap in progress and a core held in reset
place nothing. -/
def evPlacement (core : Nat) (s : State) : State :=
  if !s.mayPlace core then s
  else
    match s.resumeList core with
    | t :: _ => evParkResume t s
    | [] => s.placeOne core

/-- CHILD_COMPLETION: the completion of a task without successor is counted by its parent or its launch (R36, R138). -/
def evChildCompletion (t : Nat) (s : State) : State :=
  match s.tasks.get t with
  | some k => if k.st == .done then s.childDone t else s
  | none => s

/-- TASK_COMPLETION: a task whose strands, context and engine operations have ended completes (R138). -/
def evTaskCompletion (t : Nat) (s : State) : State := if s.taskEnded t then s.completeTask t else s

/-! ### RGROW (R144, R149) -/

/-- The priority of the task of a unit. -/
def State.unitPrio (s : State) (uid : Nat) : Nat := recPrio (s.task (s.unit uid).task).record

/-- The first pending request of a core: highest task priority, then oldest (R144). -/
def State.firstGrow (s : State) (core : Nat) : Option (Nat × Nat × Reg × W64) :=
  ((s.core core).ctx.rgrow).foldl (fun best g =>
    match best with
    | some b => if s.unitPrio b.1 < s.unitPrio g.1 then some g else best
    | none => some g) none

/-- Whether a core can give a group its registers (R133, R144). -/
def State.canGrow (s : State) (core : Nat) (g : Nat × Nat × Reg × W64) : Bool :=
  let u := s.unit g.1
  decide ((s.held core).2.regs + u.width * (g.2.1 - u.regs) * 4 ≤ regFile)

/-- A request answered: the register written, the group released after the RGROW (R144). -/
def State.answerGrow (s : State) (core : Nat) (g : Nat × Nat × Reg × W64) (v : Nat) (grow : Bool) : State :=
  let d := g.2.2.1
  let s1 := s.modCtx core fun c => { c with rgrow := c.rgrow.filter fun x => x.1 != g.1 }
  s1.modUnit g.1 fun u =>
    let u1 := if grow then u.setRegs g.2.1 else u
    ((u1.unpend (.r d)).writeVar (.r d) [(0, BitVec.ofNat 64 v)]).freeEntries 8 fun e => e.blk == some (.rgrow d g.2.1)

/-- RGROW_GRANT: the first request is granted where it fits whole (R144). -/
def evRgrowGrant (core : Nat) (s : State) : State :=
  match s.firstGrow core with
  | some g => if s.canGrow core g then s.answerGrow core g g.2.1 true else s
  | none => s

/-- Whether a group is blocked in RGROW. -/
def Unit.inGrow (u : Unit) : Bool :=
  u.frontier.all (fun e => e.blk.isSome) && u.frontier.any fun e => match e.blk with
    | some (.rgrow ..) => true
    | _ => false

/-- The request that is denied: of the lowest task priority, the newest (R149). -/
def State.lastGrow (s : State) (core : Nat) : Option (Nat × Nat × Reg × W64) :=
  ((s.core core).ctx.rgrow).foldl (fun best g =>
    match best with
    | some b => if s.unitPrio b.1 < s.unitPrio g.1 then best else some g
    | none => some g) none

/-- RGROW_DENIAL: where every resident group is blocked in RGROW and the first request cannot be granted, the newest of lowest
priority is denied (R149). -/
def evRgrowDenial (core : Nat) (s : State) : State :=
  let groups := ((s.residentUnits core).map s.unit).filter fun u => u.kind == .group && !u.isOver
  match s.firstGrow core, s.lastGrow core with
  | some g, some d => if groups.all Unit.inGrow && !s.canGrow core g then s.answerGrow core d 0 false else s
  | _, _ => s

/-! ### Frontiers -/

/-- REFILL_GRANT: a grant that waited on an empty queue source takes its word (R165, R166). -/
def evRefillGrant (uid : Nat) (s : State) : State := refreshUnit uid s

/-- AGED_ENTRY: the entries passed over for 1,024 issues are marked (R160). -/
def evAgedEntry (uid : Nat) (s : State) : State :=
  s.modUnit uid fun u =>
    { u with frontier := u.frontier.map fun e => { e with aged := e.aged || (e.blk.isNone && decide (ageLimit ≤ e.cnt)) } }

/-- OUTGOING_EDGE: the dirty bytes of the core are written back where no engine owns their lines, and a lane that waits for its
edge goes on once the edge takes effect (R45). -/
def evOutgoingEdge (uid l : Nat) (s : State) : State :=
  let u := s.unit uid
  if (s.units.get uid).isNone || u.runAhead.isSome || !u.service.isEmpty then s
  else
    let s1 := if s.wbFree u.core then s.wbAll u.core else s
    match (s1.unit uid).entryOf l with
    | some e => pollBlocked uid s1 e
    | none => s1

end Sys2Proof.Machine
end

