-- ==== Sys2Proof/Machine/Preempt.lean ====
section
/-! DEFINITION. Pre-emption: the pre-emption control register's commands, the swap of a core's set, and spills (R151, R152). -/

namespace Sys2Proof.Machine

/-! ### LOAD and CLEAR -/

/-- The shadow bank made an empty filled set (R151). -/
def State.clearShadow (s : State) (core : Nat) : State :=
  s.modCore core fun c => { c with shadow := some { core := core, ctx := .none }, ready := true }

/-- LOAD: ignored while READY is 1, delayed while SPILL is 1; else the shadow bank begins to fill from slot FSLOT (R151). -/
def evLoad (core : Nat) (s : State) : State :=
  s.modCore core fun c => if c.ready then c else if c.spill then { c with loadWait := true } else { c with fill := true }

/-- CLEAR: ignored while READY is 1, delayed while SPILL is 1 (R151). One written while FILL is 1 comes to nothing: the fill sets
READY (DEDUCED, assumption log 21). -/
def evClear (core : Nat) (s : State) : State :=
  let c := s.core core
  if c.ready || c.fill then s
  else if c.spill then s.setCore core { c with clearWait := true }
  else s.clearShadow core

/-- SOFT: a swap is requested at the next YIELD (R151). -/
def evSoft (core : Nat) (s : State) : State := s.modCore core fun c => { c with softSwap := true, yielded := false }

/-- FORCE: a swap is requested at the next instruction boundary once READY is 1 (R151). -/
def evForce (core : Nat) (s : State) : State := s.modCore core fun c => { c with forceSwap := true }

/-- The state of the tasks of a set changed, pending ones aside. -/
def State.setTasks (s : State) (ts : List Nat) (st : TaskSt) : State :=
  { s with tasks := ts.foldl (fun m n => m.adjust (fun k => if k.st == .pending then k else { k with st := st }) n) s.tasks }

/-- FILL_COMPLETION: the set of slot FSLOT is in the shadow bank, with READY, and the slot is free; a slot that holds no set, or one
of another core, gives ERR (R151). -/
def evFillCompletion (core : Nat) (s : State) : State :=
  let c := s.core core
  let part := s.corePart core
  if !c.fill then s
  else
    let fail := s.setCore core { c with fill := false, err := true }
    match (s.part part).slots.get c.fslot.toNat with
    | some (.set x) =>
      if x.core != core then fail
      else
        let s1 := s.setCore core { c with fill := false, ready := true, shadow := some x }
        (s1.modPart part fun p => { p with slots := p.slots.del c.fslot.toNat }).setTasks x.ctx.tasks .shadowed
    | _ => fail

/-! ### The swap -/

/-- A cycle of completion as the cycles that remain. -/
def remaining (cyc done : W64) : W64 := if cyc.ult done then done - cyc else 0#64

/-- An engine context as a swap takes it out: its matrix operations keep what remains of their steps (R152). -/
def CoreCtx.paused (c : CoreCtx) (cyc : W64) : CoreCtx :=
  { c with
    passEnd := remaining cyc c.passEnd,
    mops := c.mops.map fun o => { o with doneAt := remaining cyc o.doneAt } }

/-- An engine context as a swap brings it in. -/
def CoreCtx.resumed (c : CoreCtx) (cyc : W64) : CoreCtx :=
  { c with passEnd := cyc + c.passEnd, mops := c.mops.map fun o => { o with doneAt := cyc + o.doneAt } }

/-- The lines that some operations own finished and released, and their requests for others withdrawn (R50, R152). -/
def State.yieldLines (s : State) (p : Nat × Nat × Nat → Bool) : State :=
  let drop (d : LineDir) : LineDir := { d with queue := d.queue.filter fun w => !p w }
  let s1 := { s with lines := s.lines.mapVal fun _ d => drop d }
  (s1.lines.keys).foldl (fun t line =>
    match (t.lineDir line).owner with
    | some w => if p w then evEngineLineRelease line t else t
    | none => t) s1

/-- The lines still to be written by the operations of a core's set asked for again (R50, R152). -/
def State.askAgain (s : State) (core : Nat) : State :=
  let c := (s.core core).ctx
  let ask (t : State) (who : Nat × Nat × Nat) (ls : List (Nat × Cells)) : State :=
    ls.foldl (fun u p => u.askLine p.1 who) t
  let s1 := c.copies.foldl (fun t p => ask t (core, 0, p.1) p.2.lines) s
  (c.tasks.flatMap fun n => (s.task n).units).foldl (fun t uid =>
    (t.unit uid).streams.foldl (fun u p => ask u (core, 1, 4 * uid + p.1) p.2.lines) t) s1

/-- A unit whose task comes in: what it counts in consecutive cycles begins afresh. -/
def State.wakeUnit (s : State) (cyc : W64) (uid : Nat) : State := s.modUnit uid fun u => { u with lastRelease := some cyc }

/-- A task that comes in. -/
def State.wakeTask (s : State) (cyc : W64) (n : Nat) : State :=
  let s1 := s.modTask n fun k => { k with lastAct := cyc, awaitSince := none }
  (s.task n).units.foldl (fun t uid => t.wakeUnit cyc uid) s1

/-- Cycles of a swap (R151). -/
def swapCycles : Nat := 64

/-- The set of a core exchanged with a set of its shadow bank; the outgoing one is on its way to slot SSLOT (R151, R152). -/
def State.exchange (s : State) (core : Nat) (x : CtxSet) : State :=
  let s1 := ((s.residentUnits core).foldl State.endAhead s).yieldLines fun w => w.1 == core
  let c := s1.core core
  let cyc := c.cyc + BitVec.ofNat 64 swapCycles
  let out : CtxSet := { core := core, ctx := c.ctx.paused c.cyc }
  let s2 := s1.setCore core
    { c with
      cyc := cyc, ctx := x.ctx.resumed cyc, shadow := none, spillSet := some out, spill := true, ready := false,
      softSwap := false, forceSwap := false, yielded := false, failSince := [] }
  let s3 := s2.modPart (s.corePart core) fun p => { p with slots := p.slots.set c.sslot.toNat (.set out) }
  let s4 := (s3.setTasks out.ctx.tasks .shadowed).setTasks x.ctx.tasks .resident
  (x.ctx.tasks.foldl (fun t n => t.wakeTask cyc n) s4).askAgain core

/-- Whether the swap of a core is due: READY, no spill in progress, and the boundary that FORCE or SOFT names (R151). -/
def Core.swapDue (c : Core) : Bool := c.ready && !c.spill && (c.forceSwap || (c.softSwap && c.yielded))

/-- SWAP: the core's resident set is exchanged with the shadow bank (R151). -/
def evSwap (core : Nat) (s : State) : State :=
  let c := s.core core
  match c.shadow with
  | some x => if c.swapDue then s.exchange core x else s
  | none => s

/-! ### Spills -/

/-- Whether a request of a core will still write registers of a set's tasks (R152). -/
def State.awaitsData (s : State) (core : Nat) (ts : List Nat) : Bool :=
  let us := ts.flatMap fun n => (s.task n).units
  (s.core core).reqs.vals.any fun r => !r.writes.isEmpty && us.contains r.unit

/-- SPILL over: a LOAD or CLEAR that waited takes effect (R151). -/
def State.spillOver (s : State) (core : Nat) : State :=
  let s1 := s.modCore core fun c => { c with spill := false, spillWork := [], spillSet := none, clearWait := false, loadWait := false }
  let c := s.core core
  let s2 := if c.clearWait then evClear core s1 else s1
  if c.loadWait then evLoad core s2 else s2

/-- SPILL_COMPLETION: the outgoing set, once its outstanding loads have come, or a parked task is in its slot, and SPILL is 0 (R148,
R151, R152). -/
def evSpillCompletion (core : Nat) (s : State) : State :=
  let c := s.core core
  if !c.spill then s
  else
    match c.spillSet with
    | some x => if s.awaitsData core x.ctx.tasks then s else (s.setTasks x.ctx.tasks .spilled).spillOver core
    | none => (c.spillWork.foldl State.parkDone s).spillOver core

end Sys2Proof.Machine
end

