-- ==== Sys2Proof/Machine/Xlate.lean ====
section
/-! DEFINITION. TLB invalidation (R410) and page migration (R413). -/

namespace Sys2Proof.Machine

/-! ### Invalidation -/

/-- The TLB entries of a core kept under a test. -/
def State.keepTlb (s : State) (f : TlbEntry → Bool) (core : Nat) : State :=
  s.modCore core fun c => { c with tlb := c.tlb.filter f }

/-- Whether an entry's PFN names a package (R410, R411). -/
def TlbEntry.names (e : TlbEntry) (own pkg : Nat) : Bool := placeOf own (e.pfn * 2 ^ 16) == some (.remote pkg)

/-- Whether an invalidation names an entry, by the fields of the invalidate register (R410). -/
def matchesInval (own : Nat) (scope : BitVec 2) (arg : W64) (e : TlbEntry) : Bool :=
  let size := nbits arg.toNat 59 2
  match scope.toNat with
  | 0 => e.asn == nbits arg.toNat 49 10 && e.size == size && e.vpn == nbits arg.toNat 0 48 / 2 ^ pageShift size
  | 1 => e.asn == nbits arg.toNat 49 10
  | 2 => true
  | _ => e.names own (nbits arg.toNat 0 12)

/-- Matching entries dropped by every core of a partition. -/
def State.dropTlb (s : State) (part : Nat) (scope : BitVec 2) (arg : W64) : State :=
  (s.partCores part).foldl (State.keepTlb · fun e => !matchesInval s.pkg scope arg e) s

/-- A write of a partition's invalidate register: BUSY until the invalidation completes (R410). -/
def State.invalidate (s : State) (part : Nat) (scope : BitVec 2) (arg : W64) : State :=
  (s.modPart part fun p => { p with tlbBusy := true, tlbScope := scope, tlbArg := arg }).dropTlb part scope arg

/-- INVALIDATE_PAGE (R410). -/
def evInvalidatePage (part asn size : Nat) (va : W64) (s : State) : State :=
  s.invalidate part 0#2 (BitVec.ofNat 64 (2 ^ 59 * (size % 4) + 2 ^ 49 * (asn % 1024) + va.toNat % 2 ^ 48))

/-- INVALIDATE_ADDRESS_SPACE (R410). -/
def evInvalidateAddressSpace (part asn : Nat) (s : State) : State :=
  s.invalidate part 1#2 (BitVec.ofNat 64 (2 ^ 49 * (asn % 1024)))

/-- INVALIDATE_PARTITION (R410). -/
def evInvalidatePartition (part : Nat) (s : State) : State := s.invalidate part 2#2 0#64

/-- INVALIDATE_REMOTE_TARGET (R410). -/
def evInvalidateRemoteTarget (part pkg : Nat) (s : State) : State := s.invalidate part 3#2 (BitVec.ofNat 64 (pkg % 4096))

/-- Whether an engine context has lines still to write. -/
def CoreCtx.owesLines (c : CoreCtx) : Bool := c.copies.vals.any fun o => !o.lines.isEmpty

/-- Whether the contexts of a set have lines still to write. -/
def SlotUse.owesLines : SlotUse → Bool
  | .set x => x.ctx.owesLines
  | _ => false

/-- The unit number of the migration unit's requests to another package. -/
def migrationUnit : Nat := 0

/-- Whether every access of some cores of a partition that used a translation has been performed, but for dirty bytes that can be
written back at once (R410) (DEDUCED, assumption log 50). -/
def State.accessesDone (s : State) (part : Nat) : Bool :=
  (s.partCores part).all fun k =>
    let c := s.core k
    s.wbFree k && (c.far.vals.all fun f => f.unit == migrationUnit) && (match c.shadow with
      | some x => !x.ctx.owesLines
      | none => true) && !(s.part part).slots.vals.any SlotUse.owesLines
      && s.units.vals.all fun u => u.core != k || u.streams.vals.all fun x => x.lines.isEmpty

/-- The dirty bytes of a partition's cores written back. -/
def State.wbPart (s : State) (part : Nat) : State := (s.partCores part).foldl State.wbAll s

/-- INVALIDATE_COMPLETION: every core has dropped its matching entries, the accesses that used one have been performed, and BUSY
clears (R410). -/
def evInvalidateCompletion (part : Nat) (s : State) : State :=
  let p := s.part part
  if !p.tlbBusy || !s.accessesDone part then s
  else
    let t := s.wbPart part
    if !t.remoteOps.isEmpty then t
    else (t.dropTlb part p.tlbScope p.tlbArg).modPart part fun q => { q with tlbBusy := false }

/-! ### Migration -/

/-- The page entry of an address in an address space, of one size (R406, R407). -/
def State.pageEntry (s : State) (asn size va : Nat) : Option PageHit :=
  findSlot s size (va / 2 ^ pageShift size % 2 ^ 32) (sizeSlots s asn va size)

/-- The second word of a page entry written. -/
def State.putEntryWord (s : State) (at_ v : Nat) : State := s.homeWriteN (at_ + 8) (valBytes 8 v)

/-- The address of a page that an entry maps (R406). -/
def pageBase (size w1 : Nat) : Nat := w1 / 2 ^ 16 * 2 ^ 16 / 2 ^ pageShift size * 2 ^ pageShift size

/-- The line addresses of a page. -/
def pageLines (size base : Nat) : List Nat := (List.range (2 ^ (pageShift size - 7))).map fun k => base + 128 * k

/-- Reads sent for every line of a page of another package. -/
def State.askPage (s : State) (size base : Nat) : State :=
  (pageLines size base).foldl (fun t a => match remotePkg t a with
    | some k => t.sendFar 0 migrationUnit bypassLane k (lineOf a) (BitVec.allOnes 128) false 1 (List.replicate 128 0#8)
    | none => t) s

/-- MIGRATION_COMMAND: MOVING is set and the page is invalidated; a page with PIN set, or none, is refused to the kernel (R413). A
command while a page is being moved changes nothing. -/
def evMigrationCommand (asn size : Nat) (va : W64) (pfn : Nat) (s : State) : State :=
  let refuse : State := { s with reports := s.reports ++ [.migrationRefused asn va] }
  if s.migration.isSome then s
  else
    match s.pageEntry asn size va.toNat with
    | none => refuse
    | some h =>
      if nbits h.w1 4 1 == 1 then refuse
      else
        let s1 := s.putEntryWord h.at_ (h.w1 ||| 8)
        let arg := BitVec.ofNat 64 (2 ^ 59 * (size % 4) + 2 ^ 49 * (asn % 1024) + va.toNat % 2 ^ 48)
        let s2 := s1.parts.keys.foldl (fun t p => t.dropTlb p 0#2 arg) s1
        { s2.askPage size (pageBase size h.w1) with
          migration := some { asn := asn, size := size, va := va, entry := h.at_, pfn := pfn, copied := false } }

/-- The bytes of a page as the migration unit reads them: at home, or as another package answered; none while an answer is out. -/
def State.pageBytes (s : State) (size base : Nat) : Option (List Byte) :=
  if (remotePkg s base).isNone then some (s.homeReadN base (2 ^ pageShift size))
  else
    let c := s.core 0
    let get (a : Nat) : Option (List Byte) := match c.farOf migrationUnit bypassLane a false with
      | some f => f.data
      | none => none
    (pageLines size base).foldl (fun acc a => acc.bind fun bs => (get a).map fun x => bs ++ x) (some [])

/-- Bytes of a page written to a package: here at home, elsewhere by messages. -/
def State.putPage (s : State) (base : Nat) (bs : List Byte) : State :=
  match remotePkg s base with
  | none => s.homeWriteN base bs
  | some k => (bs.zip (List.range bs.length)).foldl (fun t p => t.remoteWrite k (base + p.2) p.1) s

/-- A page entry after a migration: the new PFN, one more in MIGR, MOVING clear, and PIN set with the fourth (R413). -/
def migrated (w1 pfn : Nat) : Nat :=
  let n := nbits w1 5 3 + 1
  pfn % 2 ^ 48 * 2 ^ 16 + nbits w1 8 8 * 2 ^ 8 + n % 8 * 2 ^ 5 + (if 4 ≤ n then 16 else nbits w1 4 1 * 16) + w1 % 8

/-- The core number that a die's own records name: its first (DEDUCED, assumption log 22). -/
def dieCore (die : Nat) : Nat := 64 * (die % 4)

/-- MIGRATION_COMPLETION: once the page's accesses are done, it is copied and its entry written; the fourth migration pins it, with a
record of TYPE 0x07 (R392, R413). -/
def evMigrationCompletion (s : State) : State :=
  match s.migration with
  | none => s
  | some m =>
    if !(s.parts.keys.all fun p => s.accessesDone p) then s
    else
      let s0 := s.parts.keys.foldl State.wbPart s
      let w1 := field (s0.homeReadN (m.entry + 8) 8) 0 8
      let old := pageBase m.size w1
      if !s0.remoteOps.isEmpty then s0
      else
        match s0.pageBytes m.size old with
        | none => s0
        | some bs =>
          let s1 := (s0.putPage (pageBase m.size (m.pfn * 2 ^ 16)) bs).putEntryWord m.entry (migrated w1 m.pfn)
          let s2 := { s1.clearFarLane 0 migrationUnit bypassLane with migration := none }
          let pins := nbits w1 5 3 + 1 == 4
          if pins then s2.trace (dieCore (paDie old)) 0x07 0 0#64 (BitVec.ofNat 32 (nbits m.va.toNat 16 32)) 0 0 else s2

end Sys2Proof.Machine
end

