-- ==== Sys2Proof/Machine/Link.lean ====
section
/-! DEFINITION. Responses of memory to a core (R46, R76), Bynel messages and ports (R417), lost targets (R411, R412), and host accesses
through BAR2 (R415). -/

namespace Sys2Proof.Machine

/-! ### Memory responses -/

/-- MEMORY_RESPONSE: the bytes that a request brings are installed or discarded by their stamps and epochs, its destinations are
written, and a sample that waited for it has its last data (R46, R51, R76, R395). -/
def evMemoryResponse (core req : Nat) (s : State) : State :=
  match (s.core core).reqs.get req with
  | none => s
  | some r =>
    let mark (m : Sample) : Sample := if m.req == some req then { m with req := none } else m
    let s1 := s.modCore core fun c => { c with reqs := c.reqs.del req, samples := c.samples.map mark }
    let s2 := s1.installFill core r.fill
    if (s2.units.get r.unit).isSome then s2.modUnit r.unit fun u => u.landVar req r.writes else s2

/-! ### Lost targets (R411, R412) -/

/-- A target lost to one core: its TLB entries that name the target go, its dirty bytes of the target are discarded, and a record of
TYPE 0x0B is written (R411, R412). -/
def State.loseAt (s : State) (pkg port core : Nat) : State :=
  let s1 := s.keepTlb (fun e => !e.names s.pkg pkg) core
  let gone (a : Nat) (b : L1Byte) : Bool := b.dirty && remotePkg s a == some pkg
  (s1.modCore core fun c => { c with l1 := c.l1.keep fun a b => !gone a b }).trace core 0x0B port 0#64 0#32 0 0

/-- A target package lost, where it is not lost already (R411): its bit in the lost map, and every core. -/
def State.loseTarget (s : State) (pkg port : Nat) : State :=
  if s.lost.contains pkg then s
  else
    let s1 := { s with
      lost := insertN pkg s.lost, losses := s.losses + 1, remoteOps := s.remoteOps.keep fun _ m => m.dst != pkg }
    s1.cores.keys.foldl (State.loseAt · pkg port) s1

/-- The targets whose routes are all down are lost (R411, R417). -/
def State.checkRoutes (s : State) (port : Nat) : State :=
  let hit : List Nat :=
    (s.routes.keep fun k (m : BitVec 16) => m.getLsbD port && (s.routePort k).isNone).keys
  hit.foldl (State.loseTarget · · port) s

/-- LINK_DOWN_TIMEOUT: a request outstanding to a lost target completes with LINK_DOWN (R411). -/
def evLinkDownTimeout (core req : Nat) (s : State) : State :=
  s.modCore core fun c =>
    { c with far := c.far.adjust (fun f => if s.lost.contains f.pkg then { f with lost := true } else f) req }

/-- ROUTE_RETURN: a route to a lost target comes back up, and the kernel clears the target's bit (R411). -/
def evRouteReturn (pkg : Nat) (s : State) : State :=
  let mask := (s.routes.get pkg).getD 0#16
  let up (n : Nat) (p : Port) : Port := if mask.getLsbD n then { p with down := false, resends := 0 } else p
  { s with ports := s.ports.mapVal up, lost := s.lost.filter fun k => k != pkg }

/-! ### Ports (R417) -/

/-- A port of the package. -/
def State.port (s : State) (n : Nat) : Port := (s.ports.get n).getD .reset

/-- A port changed. -/
def State.modPort (s : State) (n : Nat) (f : Port → Port) : State := { s with ports := s.ports.set n (f (s.port n)) }

/-- The first waiting flit of a port sent. -/
def sendNext (port : Nat) (s : State) : State :=
  s.modPort port fun p =>
    match p.sendQ with
    | [] => p
    | m :: ms => if p.down then p else { p with sendQ := ms, lastFlit := some m, resends := 0 }

/-- An idle flit of a package. -/
def idleFlit (pkg : Nat) : Flit :=
  { src := pkg, dst := 0, tag := 0, addr := 0, mask := 0#128, payload := List.replicate 128 0#8, last := true, err := false }

/-- IDLE_FLIT_TIMER: a port with nothing else to send sends an idle flit (R417). -/
def evIdleFlitTimer (port : Nat) (s : State) : State :=
  let p := s.port port
  if p.down || !p.sendQ.isEmpty then s
  else s.modPort port fun q => { q with lastFlit := some (0, idleFlit s.pkg), resends := 0 }

/-- A port that goes down, and the targets that it leaves without a route (R411, R417). -/
def State.portDown (s : State) (port : Nat) : State := (s.modPort port fun p => { p with down := true }).checkRoutes port

/-- Failed resends after which a port is down (R417). -/
def resendLimit : Nat := 8

/-- FLIT_CRC_FAILURE: the last flit is resent, up to 8 times, after which the port is down (R417). -/
def evFlitCrcFailure (port : Nat) (s : State) : State :=
  let p := s.port port
  if p.down || p.lastFlit.isNone then s
  else if resendLimit ≤ p.resends then s.portDown port
  else s.modPort port fun q => { q with resends := q.resends + 1 }

/-- PORT_DOWN: a port that received no flit for 2^16 fabric cycles goes down (R417). -/
def evPortDown (port : Nat) (s : State) : State := if (s.port port).down then s else s.portDown port

/-! ### Messages received -/

/-- The address in this package of a message's line: bits [38:0] (R403) (DEDUCED, assumption log 51). -/
def lineAt (m : Flit) : Nat := m.addr % 2 ^ 39 / 128 * 128

/-- The bytes of a message's payload under its mask, at a line's address. -/
def maskedBytes (m : Flit) (line : Nat) : List (Nat × Byte) :=
  ((List.range 128).filter fun k => m.mask.getLsbD k).map fun k => (line + k, m.payload.getD k 0#8)

/-- Whether a message is for this package, on a port that is up. -/
def State.takes (s : State) (port : Nat) (m : Flit) : Bool := !(s.port port).down && m.dst == s.pkg

/-- An answer sent to the source of a message, on a port of its route, else on the one that it came by. -/
def State.answer (s : State) (port ty : Nat) (m : Flit) (payload : List Byte) : State :=
  s.sendFlit ((s.routePort m.src).getD port) ty
    { src := s.pkg, dst := m.src, tag := m.tag, addr := m.addr, mask := m.mask, payload := payload, last := true, err := false }

/-- READ: a read of another package performed at its home slice and answered; it waits for an engine that owns the line (R50, R403,
R417). -/
def evRead (port : Nat) (m : Flit) (s : State) : State :=
  if !s.takes port m || s.owned (lineAt m) then s
  else
    let base := lineAt m
    let data := (List.range 128).map fun k => if m.mask.getLsbD k then s.homeByte (base + k) else 0#8
    (s.sliceAccess base).answer port 2 m data

/-- The numbers of this package's outstanding requests to another that a tag names, with their cores. -/
def State.farByTag (s : State) (atomic : Bool) (m : Flit) : List (Nat × Nat) :=
  s.cores.flatMap fun (p : Nat × Core) =>
    ((p.2.far.keep fun id f => id % 2 ^ 16 == m.tag && f.pkg == m.src && f.atomic == atomic && f.data.isNone).keys).map
      fun id => (p.1, id)

/-- The data of a read installed in the L1 of the core that asked, where it was asked for the L1 (R46, R403). -/
def Far.install (f : Far) (m : Flit) (c : Core) : Core :=
  if bypassLane ≤ f.lane then c
  else (maskedBytes m (128 * f.line)).foldl (fun k p => k.install { addr := p.1, val := p.2, epoch := 0, stamp := f.stamp }) c

/-- READ_DATA: the answer to a read of this package; what a prefetch asked for is only installed (R226, R417). -/
def evReadData (port : Nat) (m : Flit) (s : State) : State :=
  if !s.takes port m then s
  else
    match s.farByTag false m with
    | [] => s
    | (core, id) :: _ =>
      s.modCore core fun c =>
        match c.far.get id with
        | none => c
        | some f =>
          let k := f.install m c
          if 64 ≤ f.lane && f.lane < 128 then { k with far := k.far.del id }
          else { k with far := k.far.set id { f with data := some m.payload } }

/-- WRITE: a write of another package performed at its home slice and acknowledged; it waits for an engine that owns the line (R50,
R403, R417). -/
def evWrite (port : Nat) (m : Flit) (s : State) : State :=
  if !s.takes port m || s.owned (lineAt m) then s
  else
    let t := (maskedBytes m (lineAt m)).foldl (fun u p => u.homeWrite p.1 p.2) s
    (t.sliceAccess (lineAt m)).answer port 6 m (List.replicate 128 0#8)

/-- ATOMIC: an atomic of another package performed at its home slice, and its result sent (R42, R403, R417; DESIGN CHOICE, assumption log 9). -/
def evAtomic (port : Nat) (m : Flit) (s : State) : State :=
  if !s.takes port m || s.owned (lineAt m) then s
  else
    let k := atomOf m.payload
    match maskedBytes m (lineAt m) with
    | [] => s
    | (pa, _) :: _ =>
      let old := bytesVal (s.homeReadN pa k.n)
      let t := match k.apply old with
        | some v => s.homeWriteN pa (valBytes k.n v)
        | none => s
      (t.sliceAccess pa).answer port 5 m (valBytes 8 old ++ List.replicate 120 0#8)

/-- ATOMIC_RESULT: the answer to an atomic of this package (R417). -/
def evAtomicResult (port : Nat) (m : Flit) (s : State) : State :=
  if !s.takes port m then s
  else
    match s.farByTag true m with
    | [] => s
    | (core, id) :: _ =>
      s.modCore core fun c => { c with far := c.far.adjust (fun f => { f with data := some m.payload }) id }

/-- ACKNOWLEDGEMENT: a write of this package has been performed (R45, R417). -/
def evAcknowledgement (port : Nat) (m : Flit) (s : State) : State :=
  if !s.takes port m then s
  else { s with remoteOps := s.remoteOps.keep fun _ x => x.tag != m.tag || x.dst != m.src }

/-- LOSS_NOTICE: the source announces its reset or power-down, and is lost (R411, R417). -/
def evLossNotice (port : Nat) (m : Flit) (s : State) : State := if (s.port port).down then s else s.loseTarget m.src port

/-- CHECKPOINT_DATA: bytes of a checkpoint image streamed into the same device physical addresses (R417, R419). -/
def evCheckpointData (port : Nat) (m : Flit) (s : State) : State :=
  if !s.takes port m then s else (maskedBytes m (lineAt m)).foldl (fun u p => u.homeWrite p.1 p.2) s

/-- IDLE: an idle flit has no effect but that the port has received one (R417). -/
def evIdle (_port : Nat) (s : State) : State := s

/-! ### The host (R415) -/

/-- HOST_BAR2_READ: n bytes read at their home slices and given to the host; it waits for an engine that owns a line (R50, R415). -/
def evHostBar2Read (pa n : Nat) (s : State) : State :=
  if s.ownedRange pa n then s
  else { s.sliceAccess pa with reports := s.reports ++ [.hostData pa (s.homeReadN pa n)] }

/-- HOST_BAR2_WRITE: bytes written at their home slices (R50, R415). -/
def evHostBar2Write (pa : Nat) (data : List Byte) (s : State) : State :=
  if s.ownedRange pa data.length then s else (s.homeWriteN pa data).sliceAccess pa

end Sys2Proof.Machine
end

