-- ==== Sys2Proof/Machine/MatReset.lean ====
section
/-! DEFINITION. The reset of a core's matrix engine (R380 to R382). -/

namespace Sys2Proof.Machine

/-! ### The ended set -/

/-- The task that a claim belongs to: its holder's, or its strand's (R349). -/
def State.claimTask (s : State) (k : Claim) : Nat :=
  match k.owner with
  | some t => t
  | none => (s.unit k.unit).task

/-- The ended set of a core's matrix reset: the tasks with a bank, a claim, or an operation issued and not complete (R381). -/
def State.endedSet (s : State) (core : Nat) : List Nat :=
  let c := (s.core core).ctx
  let ids := c.banks.vals.map Bank.task ++ c.claims.map s.claimTask ++ c.mops.map MatOp.task
  (sortN ids).filter fun t =>
    (match s.tasks.get t with
    | some k => k.st != .done
    | none => false) || (s.core core).glade.any fun e => e.id == t

/-! ### Discarding -/

/-- The destination tile of an operation that has one (R381). -/
def destTile : Instr → Option Tile
  | .mhad _ _ t => some t
  | .mprn _ _ _ _ t _ => some t
  | .acst _ _ _ _ _ _ t _ _ _ _ => some t
  | _ => none

/-- The destination of a discarded operation EMPTY (R381). One that waits has not made its destination FILLING: only a tile that
it would transform in place, which is READY, becomes EMPTY (DEDUCED, assumption log 53). -/
def State.emptyDest (s : State) (o : MatOp) : State :=
  match destTile o.instr with
  | none => s
  | some t =>
    if o.accepted then s.modTile o.task o.tile fun e => { e with st := .empty, fault := none }
    else
      match o.instr, (s.task o.task).tileKey t.toNat with
      | .mhad .., some k =>
        s.modTile o.task k fun e => if e.st == .ready then { e with st := .empty, fault := none } else e
      | _, _ => s

/-- An operation discarded: its destination tile, and the destination registers that waited for it. -/
def State.discardOp (s : State) (o : MatOp) : State :=
  let t := s.emptyDest o
  if o.accepted then t.modUnit o.unit fun u => { u with vpend := u.vpend.filter fun v => v.req != o.id } else t

/-- An engine context after the discarding of E: no operation, no bank and no claim of E, no hold of a task of E, no reservation
(R381). -/
def CoreCtx.resetFor (c : CoreCtx) (es : List Nat) (owner : Claim → Nat) : CoreCtx :=
  let cs := c.claims.filter fun k => !es.contains (owner k)
  let held := c.hold.any fun t => es.contains t
  let d : CoreCtx :=
    { c with
      mops := [], passEnd := 0#64, claims := cs,
      banks := c.banks.keep fun n b => !es.contains b.task && !(b.freeing && !cs.any fun k => k.bank == n) }
  if held then { d with hold := Option.none, active := .none, shadow := .none } else d

/-! ### MATRIX_RESET -/

/-- Whether a blocked state is completed first by a lane that a matrix reset reaches, or is a stop of the lane; a lane gives up its
wait for a grant when it is looked at next (R382). -/
def Wait.outlasts : Wait → Bool
  | .await => true
  | .exit => true
  | .rfl .. => true
  | .grant _ => true
  | .escalated => true
  | .stopped _ => true
  | _ => false

/-- A group or a sequencer that a matrix reset reaches: its live lanes trap at their next boundary, and waits in place, run-ahead
and blocked states but for awaits are abandoned (R382). -/
def Unit.meetReset (u : Unit) : Unit :=
  let v := match u.runAhead with
    | some ra => u.rollback ra
    | none => u
  let wake (e : Entry) : Entry := match e.blk with
    | some w => if w.outlasts then e else { e with blk := none }
    | none => e
  let flag (y : Lane) : Lane := if y.st == .live then { y with mreset := true } else y
  { v with
    service := [], frontier := v.frontier.map wake, lanes := v.lanes.mapVal fun _ y => flag y,
    vpend := v.vpend.filter fun p => p.req != 0 }

/-- An access context cut: its lines are finished and released, and it ends (R254, R382). -/
def State.cutContext (s : State) (uid : Nat) : State :=
  (s.yieldLines fun w => w.2.1 == 1 && w.2.2 / 4 == uid).endContext uid

/-- A unit of a task of E (R382). -/
def State.resetUnit (s : State) (uid : Nat) : State :=
  match (s.unit uid).kind with
  | .acc => s.cutContext uid
  | _ => s.modUnit uid Unit.meetReset

/-- A placed task of E (R381, R382). -/
def State.resetTask (s : State) (t : Nat) : State :=
  let us := (s.task t).units
  let s1 := us.foldl State.resetUnit (s.modTask t fun k => { k with banks := [], planes := none, mreset := true })
  s1.modCtx (s.task t).core fun c => { c with rgrow := c.rgrow.filter fun g => !us.contains g.1 }

/-- A claim holder that waits unplaced taken out of the glade queue, complete for its parent (R381). -/
def State.resetEntry (s : State) (core t : Nat) : State :=
  match (s.core core).glade.find? fun e => e.id == t with
  | none => s
  | some e =>
    let s1 := s.modCore core fun c => { c with glade := without c.glade [e] }
    match e.parent with
    | some a => s1.frameDown a
    | none => s1.launchDown e.launch

/-- RESET: the engine stops accepting; the operations, banks, claims and holds of the ended set go, and each of its tasks receives
MATRIX_RESET (R380 to R382). A write while BUSY is 1 is ignored. -/
def evReset (core : Nat) (s : State) : State :=
  let c := s.core core
  if c.mresetBusy then s
  else
    let es := s.endedSet core
    let s1 := c.ctx.mops.foldl State.discardOp s
    let s2 := s1.modCtx core fun x => x.resetFor es s.claimTask
    let s3 := es.foldl (fun t n => if (s.tasks.get n).isSome then t.resetTask n else t.resetEntry core n) s2
    s3.modCore core fun k => { k with mresetBusy := true, mresetCount := es.length }

/-- MATRIX_RESET_COMPLETION: ENDED is written, BUSY clears, and a record of TYPE 0x09 is written (R381, R392). -/
def evMatrixResetCompletion (core : Nat) (s : State) : State :=
  let c := s.core core
  if !c.mresetBusy then s
  else
    let n := c.mresetCount % 512
    (s.setCore core { c with mresetBusy := false, mresetEnded := BitVec.ofNat 9 n }).trace core 0x09 (n % 256) 0#64 0#32 0 0

end Sys2Proof.Machine
end

