-- ==== Sys2Proof/Machine/Sram.lean ====
section
/-! DEFINITION. The core SRAM split (R18), residency registers (R23, R24) and prefetch fills that are dropped (R25). -/

namespace Sys2Proof.Machine

/-- CORE_SRAM_SPLIT_WRITE: a write of NEXT; 0b111 leaves NEXT and PEND unchanged (R18) (DEDUCED, assumption log 49). -/
def evCoreSramSplitWrite (core : Nat) (v : W32) (s : State) : State :=
  let n : BitVec 3 := v.extractLsb' 4 3
  if n == 0b111#3 then s else s.modCore core fun c => { c with l1next := n, l1pend := n != c.l1sz }

/-- SRAM_SPLIT_CHANGE: with no task on the core and no spill in progress, the L1 is written back and invalidated and NEXT comes
into force (R18). -/
def evSramSplitChange (core : Nat) (s : State) : State :=
  let c := s.core core
  if !c.l1pend || !c.ctx.tasks.isEmpty || c.spill || !s.wbFree core then s
  else
    (s.wbAll core).modCore core fun k =>
      { k with
        l1 := [], reqs := k.reqs.mapVal fun _ r => { r with fill := [] }, edgeStamp := k.fillCtr.toNat, l1sz := k.l1next,
        l1pend := false }

/-- A register as a write of RESID_CTL leaves it, but for CLIP: WAYS of 13 to 15 and SAMPLE of 17 to 31 stay (R23). -/
def Resid.written (r : Resid) (v : W32) : Resid :=
  let w := nbits v.toNat 8 4
  let m := nbits v.toNat 0 5
  { r with
    en := v.getLsbD 31, ways := if w ≤ 12 then w else r.ways, sample := if m ≤ 16 then m else r.sample }

/-- CLIP of every register of a partition, from the ways granted (R24). -/
def Part.clipped (p : Part) : Part :=
  let g := grantWays p
  let clip (n : Nat) : Bool := g.any fun (x : Nat × Nat × Nat × Bool) => x.1 == n && x.2.2.2
  { p with resid := p.resid.mapVal fun n r => { r with clip := clip n } }

/-- The sampling counters of a partition's slices set to zero (R24). -/
def State.zeroSampling (s : State) (part : Nat) : State :=
  let cls := (s.part part).clusters
  { s with slices := s.slices.mapVal fun k x => if cls.contains (k / 16) then { x with ctrs := [] } else x }

/-- RESID_CTL_WRITE: ways are granted afresh, and the sampling counters reset to zero (R24). -/
def evResidCtlWrite (part n : Nat) (v : W32) (s : State) : State :=
  let r := ((s.part part).resid.get n).getD .reset
  (s.modPart part fun p => ({ p with resid := p.resid.set n (r.written v) } : Part).clipped).zeroSampling part

/-- A prefetch fill dropped from its slice, where one may be, and counted (R25). -/
def Slice.dropFill (x : Slice) : Slice :=
  match x.fillDue with
  | none => x
  | some (key, way, line) =>
    { x with
      sets := x.sets.adjust (fun ls => ls.filter fun y => y.line != line || y.way != way) key, drops := x.drops + 1,
      fillDue := none }

/-- PREFETCH_FILL_DROP: a prefetch fill meets an eviction of the same way in the same cycle and is dropped (R25). -/
def evPrefetchFillDrop (slice : Nat) (s : State) : State := { s with slices := s.slices.adjust Slice.dropFill slice }

end Sys2Proof.Machine
end

