-- ==== Sys2Proof/Machine/Kernel.lean ====
section
/-! DEFINITION. What the resident kernel does to the package: register writes (R4, R22, R23, R151, R253, R393, R399, R411, R417, R421),
the end of a process (R254), partitions (R420, R422), checkpoint and restore (R418, R419). -/

namespace Sys2Proof.Machine

/-! ### Registers -/

/-- Bits [63:n] of a value. -/
def highBits (v : W64) (n : Nat) : W64 := BitVec.ofNat 64 (v.toNat / 2 ^ n * 2 ^ n)

/-- A write of an arena register; FRHEAD is the device's (R421). -/
def Arena.put (a : Arena) (off : Nat) (v : W64) : Arena :=
  match off with
  | 0x00 => { a with ovfBase := highBits v 12 }
  | 0x08 => { a with ovfCnt := lo32 v }
  | 0x10 => { a with frmBase := highBits v 12 }
  | 0x18 => { a with frmCnt := lo32 v }
  | 0x20 => { a with splBase := highBits v 21 }
  | 0x28 => { a with splCnt := v.setWidth 16 }
  | 0x30 => { a with frBase := highBits v 12 }
  | 0x38 => { a with frLog := v.setWidth 5 }
  | 0x44 => { a with frTail := lo32 v }
  | 0x48 => { a with htBase := highBits v 12 }
  | 0x50 => { a with htCnt := v.setWidth 16 }
  | _ => a

/-- The address that RESID_BASE and RESID_LIM hold: bits [38:16] (R23). -/
def residAddr (v : W64) : W64 := BitVec.ofNat 64 (nbits v.toNat 16 23 * 2 ^ 16)

/-- A residency register changed. -/
def State.modResid (s : State) (part n : Nat) (f : Resid → Resid) : State :=
  s.modPart part fun p => { p with resid := p.resid.set n (f ((p.resid.get n).getD .reset)) }

/-- A write of the pre-emption control register (R151): the slot numbers and SOFT are written, a 1 clears ERR, and CLEAR, LOAD and
FORCE act. -/
def writePreempt (core : Nat) (v : W64) (s : State) : State :=
  let s1 := s.modCore core fun c =>
    { c with
      sslot := v.extractLsb' 48 16, fslot := v.extractLsb' 32 16, err := c.err && !v.getLsbD 28, softSwap := v.getLsbD 1,
      yielded := c.yielded && c.softSwap && v.getLsbD 1 }
  let s2 := if v.getLsbD 3 then evClear core s1 else s1
  let s3 := if v.getLsbD 2 then evLoad core s2 else s2
  if v.getLsbD 0 then evForce core s3 else s3

/-- The trace control register as a write leaves it: reserved bits stay zero, and a FLUSH of 0 to 9 leaves FLUSH unchanged (R393). -/
def traceWritten (old : W32) (v : W32) : W32 :=
  let flush := if nbits v.toNat 0 5 < 10 then old &&& 0x1F#32 else v &&& 0x1F#32
  (v &&& 0xF00F0000#32) ||| flush

/-- A write of a comparator's control word (R399). -/
def Comparator.ctl (c : Comparator) (v : W64) : Comparator :=
  { c with en := v.getLsbD 31, all := v.getLsbD 30, slot := v.setWidth 11 }

/-- A comparator of a core changed. -/
def State.modComparator (s : State) (core n : Nat) (f : Comparator → Comparator) : State :=
  s.modCore core fun c => { c with comparators := c.comparators.adjust f n }

/-- REGISTER_WRITE: a write by the resident kernel to a register (R4) (DESIGN CHOICE, assumption log 7). -/
def evRegisterWrite (r : KReg) (v : W64) (s : State) : State :=
  match r with
  | .residBase part n => s.modResid part n fun x => { x with base := residAddr v }
  | .residLim part n => s.modResid part n fun x => { x with lim := residAddr v }
  | .preempt core => writePreempt core v s
  | .hang core =>
    s.modCore core fun c =>
      { c with hangEn := v.getLsbD 31, hangLim := if nbits v.toNat 0 5 < 16 then c.hangLim else v.setWidth 5 }
  | .trace core => s.modCore core fun c => { c with traceCtl := traceWritten c.traceCtl (lo32 v) }
  | .bpAddr core n => s.modComparator core n fun c => { c with addr := v }
  | .bpCtl core n => s.modComparator core n fun c => c.ctl v
  | .arena part off => s.modPart part fun p => { p with arena := p.arena.put off v }
  | .homeMap die g => if g < 1536 then s.modDie die fun d => { d with homeMap := d.homeMap.set g (v.toNat % 16) } else s
  | .tableDesc asn size => { s with ptDesc := s.ptDesc.set (3 * asn + size) v }
  | .lostMap pkg => if v == 0#64 then { s with lost := s.lost.filter fun k => k != pkg } else s
  | .routeMask pkg => { s with routes := s.routes.set pkg (v.setWidth 16) }
  | .staging die =>
    s.modDie die fun d =>
      { d with staging := highBits v 20, stagingCnt := Nat.max 4 (Nat.min 64 (nbits v.toNat 0 7)) }

/-! ### Ending a process (R254) -/

/-- The tasks of a process. -/
def State.procTasks (s : State) (proc : Nat) : List Nat := (s.tasks.keep fun _ t => t.proc == proc).keys

/-- The units of some tasks. -/
def State.unitsOf (s : State) (ts : List Nat) : List Nat := ts.flatMap fun n => (s.task n).units

/-- Entries of a process taken out of every queue, with the claims passed to them (R254). -/
def State.dropEntries (s : State) (proc : Nat) : State :=
  let cut (es : List QEntry) : List QEntry := es.filter fun e => e.proc != proc
  let gone := (s.cores.vals.flatMap Core.glade).filter fun e => e.proc == proc
  let ends (k : Claim) : Bool := k.owner.any fun t => gone.any fun e => e.id == t
  let core (c : Core) : Core :=
    { c with glade := cut c.glade, conts := cut c.conts, ctx := { c.ctx with claims := c.ctx.claims.filter fun k => !ends k } }
  let die (d : Die) : Die := { d with canopy := cut d.canopy, stolen := d.stolen.mapVal fun _ es => cut es }
  let part (p : Part) : Part := { p with overflow := p.overflow.filter fun x => x.2.proc != proc }
  { s with
    cores := s.cores.mapVal fun _ c => core c
    dies := s.dies.mapVal fun _ d => die d
    parts := s.parts.mapVal fun _ p => part p
    copse := s.copse.mapVal fun _ es => cut es
    launches := s.launches.keep fun _ k => k.proc != proc }

/-- A unit cut at its boundary: a group or a sequencer ends where it stands, a page fault being served is abandoned; an access context
ends with its lines released (R254). -/
def State.cutUnit (s : State) (uid : Nat) : State :=
  match (s.unit uid).kind with
  | .acc => s.cutContext uid
  | _ =>
    let fin (y : Lane) : Lane := if y.st == .never then y else { y with st := .exited, inIter := false, frame := none }
    s.modUnit uid fun u =>
      { u with frontier := [], loop := none, runAhead := none, service := [], lanes := u.lanes.mapVal fun _ y => fin y }

/-- A copy of an ended process that has not begun its lines is dropped; a store that holds a version word odd goes on to make it
even; one that is begun finishes (R50, R52, R254). -/
def CopyOp.cut (o : CopyOp) : Option CopyOp :=
  match o.kind with
  | .store .. => if o.started then some o else if o.version.isSome then some { o with started := true } else none
  | _ => none

/-- An engine context without what an ended process has not begun. -/
def CoreCtx.cutOps (c : CoreCtx) (ts us : List Nat) : CoreCtx :=
  { c with
    copies := c.copies.filterMap fun p => if ts.contains p.2.task then (p.2.cut).map fun o => (p.1, o) else some p
    mops := c.mops.filter fun o => o.accepted || !ts.contains o.task
    rgrow := c.rgrow.filter fun g => !us.contains g.1 }

/-- An engine context without anything of some tasks (R254, R348, R349). -/
def CoreCtx.purge (c : CoreCtx) (ts us : List Nat) : CoreCtx :=
  let cs := c.claims.filter fun k => !us.contains k.unit && !(k.owner.any fun t => ts.contains t)
  let d : CoreCtx :=
    { c with
      tasks := c.tasks.filter fun n => !ts.contains n
      copies := c.copies.keep fun _ o => !ts.contains o.task
      mops := c.mops.filter fun o => !ts.contains o.task
      rgrow := c.rgrow.filter fun g => !us.contains g.1
      claims := cs
      banks := c.banks.keep fun n b => !ts.contains b.task && !(b.freeing && !cs.any fun k => k.bank == n) }
  if c.hold.any fun t => ts.contains t then { d with hold := Option.none, active := .none, shadow := .none } else d

/-- A set without some tasks. -/
def CtxSet.purge (x : CtxSet) (ts us : List Nat) : CtxSet := { x with ctx := x.ctx.purge ts us }

/-- The use of a spill slot without some tasks; a slot of one of them is free. -/
def SlotUse.purge (ts us : List Nat) : SlotUse → Option SlotUse
  | .set x => some (.set (x.purge ts us))
  | .park t => if ts.contains t then none else some (.park t)
  | .inherit t => if ts.contains t then none else some (.inherit t)

/-- Tasks, their units and their frames gone. -/
def State.dropTasks (s : State) (ts : List Nat) : State :=
  let us := s.unitsOf ts
  { s with
    tasks := s.tasks.keep fun n _ => !ts.contains n
    units := s.units.keep fun n _ => !us.contains n
    frames := s.frames.keep fun _ f => !ts.contains f.task }

/-- Tasks gone from slots and shadow banks (R254). -/
def State.dropSaved (s : State) (ts : List Nat) : State :=
  let us := s.unitsOf ts
  let core (c : Core) : Core :=
    { c with shadow := c.shadow.map fun x => x.purge ts us, spillSet := c.spillSet.map fun x => x.purge ts us }
  let part (p : Part) : Part := { p with slots := p.slots.filterMap fun x => (x.2.purge ts us).map fun y => (x.1, y) }
  { s with cores := s.cores.mapVal fun _ c => core c, parts := s.parts.mapVal fun _ p => part p }

/-- The coalescer records of a process dropped (R254). -/
def State.dropRecords (s : State) (proc : Nat) : State :=
  let cut (rs : List CoalRec) : List CoalRec := rs.filter fun r => r.proc != proc
  let core (c : Core) : Core := { c with coal := cut c.coal, coalClosed := cut c.coalClosed, coalWait := cut c.coalWait }
  { s with cores := s.cores.mapVal fun _ c => core c }

/-- Steps 1 and 2 of R254: no entry of the process is left, its resident contexts are cut, and parked, spilled and pending ones are
discarded. -/
def State.cutProcess (s : State) (proc : Nat) : State :=
  let s1 := (s.dropEntries proc).dropRecords proc
  let here := (s1.procTasks proc).filter fun n => (s1.task n).st == .resident || (s1.task n).st == .parking
  let us := s1.unitsOf here
  let s2 := us.foldl State.cutUnit s1
  let core (c : Core) : Core := { c with ctx := c.ctx.cutOps here us }
  let noReg (n : Nat) (k : Task) : Task := if here.contains n then { k with reg := none, joins := 0 } else k
  let s3 := { s2 with cores := s2.cores.mapVal fun _ c => core c, tasks := s2.tasks.mapVal noReg }
  let away := (s3.procTasks proc).filter fun n => !here.contains n && (s3.task n).st != .done
  let purge (c : Core) : Core := { c with ctx := c.ctx.purge away (s3.unitsOf away) }
  let s4 := { s3.dropSaved away with cores := ((s3.dropSaved away).cores).mapVal fun _ c => purge c }
  { s4.dropTasks away with deadProcs := insertN proc s4.deadProcs }

/-- Whether every engine operation of some tasks has completed and released its lines (step 3 of R254). -/
def State.opsDone (s : State) (ts : List Nat) : Bool :=
  ts.all fun n =>
    let c := (s.core (s.task n).core).ctx
    !(c.copies.vals.any fun o => o.task == n) && !(c.mops.any fun o => o.task == n)

/-- Steps 3 to 5 of R254: once the engine operations are done and the dirty bytes written back, everything of the process is freed. -/
def State.freeProcess (s : State) (proc : Nat) : State :=
  let ts := s.procTasks proc
  let us := s.unitsOf ts
  let cs := sortN (ts.map fun n => (s.task n).core)
  if !s.opsDone ts || cs.any fun c => !s.wbFree c then s
  else
    let t := cs.foldl State.wbAll s
    if !t.remoteOps.isEmpty then t
    else
      let core (c : Core) : Core :=
        { c with
          ctx := c.ctx.purge ts us
          reqs := c.reqs.keep fun _ r => !us.contains r.unit
          far := c.far.keep fun _ f => !us.contains f.unit
          samples := c.samples.filter fun m => !us.contains m.unit }
      let t1 := t.dropSaved ts
      { t1.dropTasks ts with cores := t1.cores.mapVal fun _ c => core c }

/-- PROCESS_END: the kernel ends a process. It takes effect in two parts: the cut at once, and the freeing, by this event again, once
the engines are done (R254). -/
def evProcessEnd (proc : Nat) (s : State) : State :=
  if s.deadProcs.contains proc then s.freeProcess proc else (s.cutProcess proc).freeProcess proc

/-! ### Partitions -/

/-- The home granule of an own address, numbered 2048 × die + granule (R21). -/
def granuleOf (pa : Nat) : Nat := pa / 2 ^ 26

/-- Granules written with zero (R420, R422). -/
def State.zeroGranules (s : State) (gs : List Nat) : State :=
  { s with mem := s.mem.filter fun p => !gs.contains (granuleOf p.1) }

/-- The residency registers of a partition as they are made: the defaults of the configuration image (R420, R423). -/
def State.residMade (s : State) (p : Part) : Part := ({ p with resid := s.residDefault } : Part).clipped

/-- PARTITION_MAKE: clusters as (die, cluster of the die), granules as (2048 × die + granule, cluster of the die), and the arena
registers as (offset, value). The home map is written, the granules are zeroed, the arena is laid out and the virtual function
enabled (R420). An identifier, a cluster or a granule that is not free is no partition's to take. -/
def evPartitionMake (part : Nat) (clusters granules : List (Nat × Nat)) (arena : List (Nat × W64)) (s : State) : State :=
  let cls := sortN (clusters.map fun c => 16 * c.1 + c.2)
  let free := (clusters.all fun c => decide (c.1 < 4) && decide (c.2 < 10)) && cls.all fun c => s.clusterPart c == 0
  let open_ := granules.all fun g =>
    decide (g.1 / 2048 < 4) && decide (g.1 % 2048 < 1536) && cls.contains (16 * (g.1 / 2048) + g.2)
      && decide (10 ≤ (s.die (g.1 / 2048)).home (g.1 % 2048))
  if part == 0 || decide (40 < part) || (s.parts.get part).isSome || clusters.isEmpty || !free || !open_ then s
  else
    let s1 := granules.foldl (fun t g => t.modDie (g.1 / 2048) fun d => { d with homeMap := d.homeMap.set (g.1 % 2048) g.2 }) s
    let s2 := s1.zeroGranules (granules.map Prod.fst)
    let p : Part :=
      { Part.blank with
        clusters := cls
        granules := granules
        arena := arena.foldl (fun a x => a.put x.1 x.2) .reset
        vf := true }
    s2.setPart part (s2.residMade p)

/-- The processes that have a task, an entry or a launch in a partition. -/
def State.partProcs (s : State) (part : Nat) : List Nat :=
  sortN ((s.tasks.vals.filter fun t => t.part == part).map Task.proc
    ++ (s.queuedEntries.filter fun e => e.part == part).map QEntry.proc
    ++ (s.launches.vals.filter fun k => k.part == part).map Launch.proc)

/-- A core that goes back to no partition: nothing of the old one is left in it (R422). -/
def Core.vacated (c : Core) : Core :=
  { c with
    l1 := []
    ctx := .none
    shadow := none
    spillSet := none
    spill := false
    fill := false
    ready := false
    loadWait := false
    clearWait := false
    softSwap := false
    forceSwap := false
    spillWork := []
    reqs := []
    far := []
    tlb := []
    glade := []
    conts := []
    samples := []
    failSince := [] }

/-- PARTITION_TEARDOWN: every process ends; then the granules are zeroed and the home-map entries cleared (R422). Where a process still
has engine operations, this event again goes on. -/
def evPartitionTeardown (part : Nat) (s : State) : State :=
  let s1 := (s.partProcs part).foldl (fun t p => evProcessEnd p t) s
  if (s.parts.get part).isNone || !(s1.partProcs part).isEmpty then s1
  else
    let p := s1.part part
    let s2 := p.granules.foldl (fun t g => t.modDie (g.1 / 2048) fun d => { d with homeMap := d.homeMap.set (g.1 % 2048) 15 })
      (s1.zeroGranules (p.granules.map Prod.fst))
    let s3 := (p.clusters.flatMap clusterCores).foldl (fun t k => t.modCore k Core.vacated) s2
    { s3 with parts := s3.parts.del part }

/-! ### Checkpoint and restore -/

/-- The cores that belong to a partition. -/
def State.ownedCores (s : State) : List Nat := (s.parts.vals.flatMap Part.clusters).flatMap clusterCores

/-- A core pre-empted for a checkpoint: its outstanding loads come in, an empty set is swapped in, and its set is spilled (R418). -/
def State.emptyCore (s : State) (core : Nat) : State :=
  let s1 := ((s.core core).reqs.keys).foldl (fun t r => evMemoryResponse core r t) s
  evSpillCompletion core (evSwap core (evForce core (evClear core s1)))

/-- The queues of a core, its cluster and its die flushed into the overflow areas; entries that hold claims, and continuations, stay
on their core (R131, R349, R418). None where an area is full. -/
def State.flushCore (s : State) (core : Nat) : Option State :=
  let c := s.core core
  let free := c.glade.filter fun e => !e.claimed
  let die := dieOf core
  let copse := s.copseOf (core / 4)
  let canopy := (s.die die).canopy ++ (s.die die).stolen.vals.flatten
  (free ++ copse ++ canopy).foldl (fun (acc : Option State) e => acc.bind fun t => t.pushOverflow die e.part [e])
    (some (({ s with copse := s.copse.del (core / 4) }.modCore core fun k =>
      { k with glade := k.glade.filter QEntry.claimed }).modDie die fun d => { d with canopy := [], stolen := [] }))

/-- A core's open records closed and written to the fault rings (R252, R418). -/
def State.closeRecords (s : State) (core : Nat) : State :=
  let s1 := s.modCore core fun c => { c with coal := [], coalClosed := c.coalClosed ++ c.coal }
  (List.range (s1.core core).coalClosed.length).foldl (fun t _ => evFaultRingWrite core t) s1

/-- The image of the package (R418). -/
def State.toImage (s : State) : Image :=
  { mem := s.mem
    cores := s.ownedCores.map fun c => (c, (s.core c).sslot)
    parts := s.parts
    frames := s.frames
    tasks := s.tasks
    units := s.units
    homeMaps := s.dies.mapVal fun _ d => d.homeMap
    held := s.cores.mapVal fun _ c => c.glade ++ c.conts
    launches := s.launches
    ptDesc := s.ptDesc }

/-- CHECKPOINT: every core is pre-empted, the queues and coalescers are flushed, the L1s are written back, and the image is streamed to
the safe tier; the partitions are left stopped, and resume by LOAD and FORCE (R418). Nothing is done while a swap, a fill or a spill of
some core is under way. -/
def evCheckpoint (s : State) : State :=
  let cs := s.ownedCores
  if cs.any fun c => (s.core c).ready || (s.core c).fill || (s.core c).spill then s
  else
    let s1 := cs.foldl State.emptyCore s
    match cs.foldl (fun (acc : Option State) c => acc.bind fun t => t.flushCore c) (some s1) with
    | none => s1
    | some s2 =>
      let s3 := cs.foldl State.wbAll (cs.foldl State.closeRecords s2)
      { s3 with image := some s3.toImage }

/-- A core as a restore leaves it: caches, TLB and queues empty, and a LOAD of its slot begun, with FORCE (R419). -/
def Core.restored (c : Core) (slot : Option (BitVec 16)) (held : List QEntry) : Core :=
  let d := { c.vacated with
    glade := held.filter fun e => e.cont.isNone
    conts := held.filter fun e => e.cont.isSome
    coal := []
    coalClosed := []
    coalWait := []
    mresetBusy := false }
  match slot with
  | some n => { d with fslot := n, fill := true, forceSwap := true }
  | none => d

/-- The dies as a restore leaves them (R419). -/
def Die.restored (d : Die) (homeMap : SMap Nat) : Die :=
  { d with homeMap := homeMap, canopy := [], dry := [], stolen := [] }

/-- RESTORE: the image's bytes, partitions, tasks and frames come back, and each core's set is loaded into the core that it left
(R419). -/
def evRestore (s : State) : State :=
  match s.image with
  | none => s
  | some m =>
    let slot (c : Nat) : Option (BitVec 16) := SMap.get m.cores c
    { s with
      mem := m.mem
      lines := []
      cores := s.cores.mapVal fun k c => c.restored (slot k) ((m.held.get k).getD [])
      copse := []
      dies := s.dies.mapVal fun k d => d.restored ((m.homeMaps.get k).getD [])
      slices := []
      parts := m.parts.mapVal fun _ p => { p with vf := true }
      tasks := m.tasks
      units := m.units
      frames := m.frames
      launches := m.launches
      ptDesc := m.ptDesc
      migration := none }

end Sys2Proof.Machine
end

