-- ==== Sys2Proof/Machine/Power.lean ====
section
/-! DEFINITION. Bring-up, package reset, loss of power, and the power limit (R401, R423, R424). -/

namespace Sys2Proof.Machine

/-- Bytes of the digest of a boot image (R423). -/
def bootDigest : Nat := 114

/-- Whether an image verifies (R423). -/
def imageGood (image : List Byte) : Bool := Config.ed448Verifies (Config.shake256 bootDigest image) image

/-- A die after bring-up on two images: its key, and both digests in the attestation log (R423). -/
def Die.booted (d : Die) (die : Nat) (im : List Byte × List Byte) : Die :=
  { d with
    key := Config.identityKey die
    attest := d.attest ++ [Config.shake256 bootDigest im.1, Config.shake256 bootDigest im.2] }

/-- A die brought up: on images that verify its kernel starts; else it holds its cores in reset (R423). -/
def bootDie (images : List (List Byte × List Byte)) (s : State) (die : Nat) : State :=
  let im := images.getD die ([], [])
  if imageGood im.1 && imageGood im.2 then s.modDie die fun d => d.booted die im
  else
    let hold (k : Nat) (c : Core) : Core := if dieOf k == die then { c with inReset := true } else c
    { s with cores := s.cores.mapVal hold, reports := s.reports ++ [.imageRefused die] }

/-- A residency register of a configuration image (R423). -/
def residOf (x : Nat × W64 × W64 × W32) : Nat × Resid :=
  (x.1, ({ Resid.reset with base := residAddr x.2.1, lim := residAddr x.2.2.1 } : Resid).written x.2.2.2)

/-- The configuration applied: package number, route table, residency defaults (R423). -/
def State.configure (s : State) (pkg : Nat) (image : List Byte) : State :=
  { s with
    pkg := pkg
    routes := (Config.imageRoutes image).foldl (fun m p => SMap.set m p.1 p.2) []
    residDefault := ((Config.imageResid image).map residOf).foldl (fun m p => SMap.set m p.1 p.2) [] }

/-- Bring-up of a package from a state at reset (R423). -/
def bringUp (images : List (List Byte × List Byte)) (pkg : Nat) (s : State) : State :=
  let s1 := (List.range 4).foldl (bootDie images) s
  let im := images.getD 0 ([], [])
  if imageGood im.1 then s1.configure pkg im.1 else s1

/-- The state at reset that a run goes on from: what the model itself keeps stays. -/
def State.afresh (s : State) : State :=
  { State.reset with schedule := s.schedule, freeCtr := s.freeCtr, nextId := s.nextId, clock := s.clock }

/-- POWER_ON: bring-up from power-on; heartwood counts no reset and is frozen (R401, R423). -/
def evPowerOn (images : List (List Byte × List Byte)) (pkg : Nat) (s : State) : State := bringUp images pkg s.afresh

/-- Heartwood through a package reset: RESETS counts it, a record of TYPE 0x0C is written unless it is frozen, and FROZEN is set
(R401). -/
def Die.packageReset (d : Die) (die : Nat) (part : Nat) (cyc : W64) : Die :=
  let n := d.heartResets + 1
  let r : TraceRec :=
    { seq := d.seq, aux := 0, ty := 0x0C, cyc := cyc, pc := 0#64, data := BitVec.ofNat 32 n, core := dieCore die, part := part,
      unit := 0, lane := 0, body := none }
  let h := ({ d with heartResets := n } : Die).addHeart r
  { Die.reset with
    heartHead := h.heartHead
    heartWraps := h.heartWraps
    heartResets := n
    heartFrozen := true
    heart := h.heart }

/-- PACKAGE_RESET: every register at reset, heartwood kept with the reset counted, and bring-up again (R401, R423). DRAM keeps its
bytes (DEDUCED, assumption log 23). -/
def evPackageReset (images : List (List Byte × List Byte)) (pkg : Nat) (s : State) : State :=
  let die (k : Nat) (d : Die) : Die := d.packageReset k 0 (s.core (dieCore k)).cyc
  bringUp images pkg { s.afresh with mem := s.mem, hostMem := s.hostMem, dies := s.dies.mapVal die }

/-- POWER_LOSS: all state is lost, heartwood included, and nothing runs until power-on (R401). -/
def evPowerLoss (s : State) : State :=
  let off (c : Core) : Core := { c with inReset := true }
  { s.afresh with hostMem := s.hostMem, cores := State.reset.cores.mapVal fun _ c => off c }

/-- POWER_OR_TEMPERATURE_LIMIT: the device starts or stops inserting idle cycles between issues (R424). -/
def evPowerOrTemperatureLimit (on : Bool) (s : State) : State := { s with powerLimit := on }

end Sys2Proof.Machine
end

