-- ==== Sys2Proof/Machine/Events.lean ====
section
/-! DEFINITION. The meanings of the events of the opcode table: what the device, the resident kernel, the host and the links do between
the issues of instructions. An event whose conditions do not hold leaves the state as it is. -/

namespace Sys2Proof.Machine

/-- OUTGOING_EDGE (R45). -/
def execOutgoingEdge (unit : Nat) (lane : Nat) (s : State) : Host.Outcome State Fault Refusal :=
  .next (evOutgoingEdge unit lane s)

/-- RUN_AHEAD_END (R249). -/
def execRunAheadEnd (unit : Nat) (s : State) : Host.Outcome State Fault Refusal := .next (evRunAheadEnd unit s)

/-- PAGE_FAULT_SERVICE (R250). -/
def execPageFaultService (unit : Nat) (undeliverable : List Nat) (s : State) : Host.Outcome State Fault Refusal :=
  .next (evPageFaultService unit undeliverable s)

/-- COALESCER_RECORD_CLOSE (R252). -/
def execCoalescerRecordClose (core : Nat) (s : State) : Host.Outcome State Fault Refusal :=
  .next (evCoalescerRecordClose core s)

/-- FAULT_RING_WRITE (R421). -/
def execFaultRingWrite (core : Nat) (s : State) : Host.Outcome State Fault Refusal := .next (evFaultRingWrite core s)

/-- HANG_REPORT (R253). -/
def execHangReport (task : Nat) (s : State) : Host.Outcome State Fault Refusal := .next (evHangReport task s)

/-- WAIT_CYCLE_REPORT (R253). -/
def execWaitCycleReport (unit : Nat) (s : State) : Host.Outcome State Fault Refusal := .next (evWaitCycleReport unit s)

/-- HOST_LAUNCH (R130). -/
def execHostLaunch (part : Nat) (asn : Nat) (proc : Nat) (record : W64) (s : State) : Host.Outcome State Fault Refusal :=
  .next (evHostLaunch part asn proc record s)

/-- DISTRIBUTOR_EMIT (R130). -/
def execDistributorEmit (die : Nat) (part : Nat) (s : State) : Host.Outcome State Fault Refusal :=
  .next (evDistributorEmit die part s)

/-- BLOCK_MOVE (R131). -/
def execBlockMove (level : Nat) (idx : Nat) (part : Nat) (s : State) : Host.Outcome State Fault Refusal :=
  .next (evBlockMove level idx part s)

/-- STEAL_MESSAGE (R132). -/
def execStealMessage (die : Nat) (thief : Nat) (part : Nat) (s : State) : Host.Outcome State Fault Refusal :=
  .next (evStealMessage die thief part s)

/-- STEAL_REPLY (R132). -/
def execStealReply (die : Nat) (donor : Nat) (part : Nat) (s : State) : Host.Outcome State Fault Refusal :=
  .next (evStealReply die donor part s)

/-- RUN_DRY (R132). -/
def execRunDry (die : Nat) (part : Nat) (s : State) : Host.Outcome State Fault Refusal := .next (evRunDry die part s)

/-- PLACEMENT (R135). -/
def execPlacement (core : Nat) (s : State) : Host.Outcome State Fault Refusal := .next (evPlacement core s)

/-- SPILL_RESTORE (R135). -/
def execSpillRestore (task : Nat) (s : State) : Host.Outcome State Fault Refusal := .next (evSpillRestore task s)

/-- CHILD_COMPLETION (R138). -/
def execChildCompletion (task : Nat) (s : State) : Host.Outcome State Fault Refusal := .next (evChildCompletion task s)

/-- TASK_COMPLETION (R138). -/
def execTaskCompletion (task : Nat) (s : State) : Host.Outcome State Fault Refusal := .next (evTaskCompletion task s)

/-- INHERITANCE_SPILL (R143). -/
def execInheritanceSpill (task : Nat) (s : State) : Host.Outcome State Fault Refusal := .next (evInheritanceSpill task s)

/-- PARK (R148). -/
def execPark (task : Nat) (s : State) : Host.Outcome State Fault Refusal := .next (evPark task s)

/-- PARK_RESUME (R148). -/
def execParkResume (task : Nat) (s : State) : Host.Outcome State Fault Refusal := .next (evParkResume task s)

/-- RGROW_GRANT (R144). -/
def execRgrowGrant (core : Nat) (s : State) : Host.Outcome State Fault Refusal := .next (evRgrowGrant core s)

/-- RGROW_DENIAL (R149). -/
def execRgrowDenial (core : Nat) (s : State) : Host.Outcome State Fault Refusal := .next (evRgrowDenial core s)

/-- REFILL_GRANT (R165). -/
def execRefillGrant (unit : Nat) (s : State) : Host.Outcome State Fault Refusal := .next (evRefillGrant unit s)

/-- AGED_ENTRY (R160). -/
def execAgedEntry (unit : Nat) (s : State) : Host.Outcome State Fault Refusal := .next (evAgedEntry unit s)

/-- BREAKPOINT_STOP (R399). -/
def execBreakpointStop (unit : Nat) (lane : Nat) (s : State) : Host.Outcome State Fault Refusal :=
  .next (evBreakpointStop unit lane s)

/-- RESUME (R400). -/
def execResume (unit : Nat) (lane : Nat) (s : State) : Host.Outcome State Fault Refusal := .next (evResume unit lane s)

/-- STEP (R400). -/
def execStep (unit : Nat) (lane : Nat) (s : State) : Host.Outcome State Fault Refusal := .next (evStep unit lane s)

/-- SAMPLE (R395). -/
def execSample (core : Nat) (s : State) : Host.Outcome State Fault Refusal := .next (evSample core s)

/-- COPY_COMPLETION (R259). -/
def execCopyCompletion (core : Nat) (op : Nat) (s : State) : Host.Outcome State Fault Refusal :=
  .next (evCopyCompletion core op s)

/-- COPY_DATA_FAULT (R277). -/
def execCopyDataFault (core : Nat) (op : Nat) (s : State) : Host.Outcome State Fault Refusal :=
  .next (evCopyDataFault core op s)

/-- COPY_PAGE_FAULT_SERVICE (R277). -/
def execCopyPageFaultService (core : Nat) (op : Nat) (undeliverable : List Nat) (s : State) :
    Host.Outcome State Fault Refusal :=
  .next (evCopyPageFaultService core op undeliverable s)

/-- AON_VERSION_WAIT (R52). -/
def execAonVersionWait (core : Nat) (op : Nat) (s : State) : Host.Outcome State Fault Refusal :=
  .next (evAonVersionWait core op s)

/-- STREAMING_OPERATION_COMPLETION (R288). -/
def execStreamingOperationCompletion (unit : Nat) (slot : Nat) (s : State) : Host.Outcome State Fault Refusal :=
  .next (evStreamingOperationCompletion unit slot s)

/-- ACCESS_STRAND_FAULT (R323). -/
def execAccessStrandFault (unit : Nat) (s : State) : Host.Outcome State Fault Refusal := .next (evAccessStrandFault unit s)

/-- MATRIX_OPERATION_COMPLETION (R354). -/
def execMatrixOperationCompletion (core : Nat) (op : Nat) (s : State) : Host.Outcome State Fault Refusal :=
  .next (evMatrixOperationCompletion core op s)

/-- CORE_SRAM_SPLIT_WRITE (R18). -/
def execCoreSramSplitWrite (core : Nat) (v : W32) (s : State) : Host.Outcome State Fault Refusal :=
  .next (evCoreSramSplitWrite core v s)

/-- SRAM_SPLIT_CHANGE (R18). -/
def execSramSplitChange (core : Nat) (s : State) : Host.Outcome State Fault Refusal := .next (evSramSplitChange core s)

/-- RESID_CTL_WRITE (R24). -/
def execResidCtlWrite (part : Nat) (n : Nat) (v : W32) (s : State) : Host.Outcome State Fault Refusal :=
  .next (evResidCtlWrite part n v s)

/-- PREFETCH_FILL_DROP (R25). -/
def execPrefetchFillDrop (slice : Nat) (s : State) : Host.Outcome State Fault Refusal := .next (evPrefetchFillDrop slice s)

/-- LOAD (R151). -/
def execLoad (core : Nat) (s : State) : Host.Outcome State Fault Refusal := .next (evLoad core s)

/-- CLEAR (R151). -/
def execClear (core : Nat) (s : State) : Host.Outcome State Fault Refusal := .next (evClear core s)

/-- SOFT (R151). -/
def execSoft (core : Nat) (s : State) : Host.Outcome State Fault Refusal := .next (evSoft core s)

/-- FORCE (R151). -/
def execForce (core : Nat) (s : State) : Host.Outcome State Fault Refusal := .next (evForce core s)

/-- SWAP (R151). -/
def execSwap (core : Nat) (s : State) : Host.Outcome State Fault Refusal := .next (evSwap core s)

/-- FILL_COMPLETION (R151). -/
def execFillCompletion (core : Nat) (s : State) : Host.Outcome State Fault Refusal := .next (evFillCompletion core s)

/-- SPILL_COMPLETION (R151). -/
def execSpillCompletion (core : Nat) (s : State) : Host.Outcome State Fault Refusal := .next (evSpillCompletion core s)

/-- RESET (R381). -/
def execReset (core : Nat) (s : State) : Host.Outcome State Fault Refusal := .next (evReset core s)

/-- MATRIX_RESET_COMPLETION (R380). -/
def execMatrixResetCompletion (core : Nat) (s : State) : Host.Outcome State Fault Refusal :=
  .next (evMatrixResetCompletion core s)

/-- INVALIDATE_PAGE (R410). -/
def execInvalidatePage (part : Nat) (asn : Nat) (size : Nat) (va : W64) (s : State) : Host.Outcome State Fault Refusal :=
  .next (evInvalidatePage part asn size va s)

/-- INVALIDATE_ADDRESS_SPACE (R410). -/
def execInvalidateAddressSpace (part : Nat) (asn : Nat) (s : State) : Host.Outcome State Fault Refusal :=
  .next (evInvalidateAddressSpace part asn s)

/-- INVALIDATE_PARTITION (R410). -/
def execInvalidatePartition (part : Nat) (s : State) : Host.Outcome State Fault Refusal := .next (evInvalidatePartition part s)

/-- INVALIDATE_REMOTE_TARGET (R410). -/
def execInvalidateRemoteTarget (part : Nat) (pkg : Nat) (s : State) : Host.Outcome State Fault Refusal :=
  .next (evInvalidateRemoteTarget part pkg s)

/-- INVALIDATE_COMPLETION (R410). -/
def execInvalidateCompletion (part : Nat) (s : State) : Host.Outcome State Fault Refusal :=
  .next (evInvalidateCompletion part s)

/-- HEARTWOOD_FROZEN_CLEAR (R401). -/
def execHeartwoodFrozenClear (die : Nat) (s : State) : Host.Outcome State Fault Refusal := .next (evHeartwoodFrozenClear die s)

/-- REGISTER_WRITE (R4). -/
def execRegisterWrite (r : KReg) (v : W64) (s : State) : Host.Outcome State Fault Refusal := .next (evRegisterWrite r v s)

/-- SEGMENT_CLOSE (R398). -/
def execSegmentClose (die : Nat) (s : State) : Host.Outcome State Fault Refusal := .next (evSegmentClose die s)

/-- SEGMENT_SUBMIT (R398). -/
def execSegmentSubmit (die : Nat) (s : State) : Host.Outcome State Fault Refusal := .next (evSegmentSubmit die s)

/-- MIGRATION_COMMAND (R413). -/
def execMigrationCommand (asn : Nat) (size : Nat) (va : W64) (pfn : Nat) (s : State) : Host.Outcome State Fault Refusal :=
  .next (evMigrationCommand asn size va pfn s)

/-- PROCESS_END (R254). -/
def execProcessEnd (proc : Nat) (s : State) : Host.Outcome State Fault Refusal := .next (evProcessEnd proc s)

/-- PARTITION_MAKE (R420). -/
def execPartitionMake (part : Nat) (clusters : List (Nat × Nat)) (granules : List (Nat × Nat)) (arena : List (Nat × W64)) (s : State) :
    Host.Outcome State Fault Refusal :=
  .next (evPartitionMake part clusters granules arena s)

/-- PARTITION_TEARDOWN (R422). -/
def execPartitionTeardown (part : Nat) (s : State) : Host.Outcome State Fault Refusal := .next (evPartitionTeardown part s)

/-- CHECKPOINT (R418). -/
def execCheckpoint (s : State) : Host.Outcome State Fault Refusal := .next (evCheckpoint s)

/-- RESTORE (R419). -/
def execRestore (s : State) : Host.Outcome State Fault Refusal := .next (evRestore s)

/-- HOST_BAR2_READ (R415). -/
def execHostBar2Read (pa : Nat) (n : Nat) (s : State) : Host.Outcome State Fault Refusal := .next (evHostBar2Read pa n s)

/-- HOST_BAR2_WRITE (R415). -/
def execHostBar2Write (pa : Nat) (data : List Byte) (s : State) : Host.Outcome State Fault Refusal :=
  .next (evHostBar2Write pa data s)

/-- READ (R417). -/
def execRead (port : Nat) (m : Flit) (s : State) : Host.Outcome State Fault Refusal := .next (evRead port m s)

/-- READ_DATA (R417). -/
def execReadData (port : Nat) (m : Flit) (s : State) : Host.Outcome State Fault Refusal := .next (evReadData port m s)

/-- WRITE (R417). -/
def execWrite (port : Nat) (m : Flit) (s : State) : Host.Outcome State Fault Refusal := .next (evWrite port m s)

/-- ATOMIC (R417). -/
def execAtomic (port : Nat) (m : Flit) (s : State) : Host.Outcome State Fault Refusal := .next (evAtomic port m s)

/-- ATOMIC_RESULT (R417). -/
def execAtomicResult (port : Nat) (m : Flit) (s : State) : Host.Outcome State Fault Refusal := .next (evAtomicResult port m s)

/-- ACKNOWLEDGEMENT (R417). -/
def execAcknowledgement (port : Nat) (m : Flit) (s : State) : Host.Outcome State Fault Refusal :=
  .next (evAcknowledgement port m s)

/-- LOSS_NOTICE (R411). -/
def execLossNotice (port : Nat) (m : Flit) (s : State) : Host.Outcome State Fault Refusal := .next (evLossNotice port m s)

/-- CHECKPOINT_DATA (R417). -/
def execCheckpointData (port : Nat) (m : Flit) (s : State) : Host.Outcome State Fault Refusal :=
  .next (evCheckpointData port m s)

/-- IDLE (R417). -/
def execIdle (port : Nat) (s : State) : Host.Outcome State Fault Refusal := .next (evIdle port s)

/-- IDLE_FLIT_TIMER (R417). -/
def execIdleFlitTimer (port : Nat) (s : State) : Host.Outcome State Fault Refusal := .next (evIdleFlitTimer port s)

/-- FLIT_CRC_FAILURE (R417). -/
def execFlitCrcFailure (port : Nat) (s : State) : Host.Outcome State Fault Refusal := .next (evFlitCrcFailure port s)

/-- PORT_DOWN (R417). -/
def execPortDown (port : Nat) (s : State) : Host.Outcome State Fault Refusal := .next (evPortDown port s)

/-- LINK_DOWN_TIMEOUT (R411). -/
def execLinkDownTimeout (core : Nat) (req : Nat) (s : State) : Host.Outcome State Fault Refusal :=
  .next (evLinkDownTimeout core req s)

/-- POWER_ON (R423). -/
def execPowerOn (images : List (List Byte × List Byte)) (pkg : Nat) (s : State) : Host.Outcome State Fault Refusal :=
  .next (evPowerOn images pkg s)

/-- PACKAGE_RESET (R423). -/
def execPackageReset (images : List (List Byte × List Byte)) (pkg : Nat) (s : State) : Host.Outcome State Fault Refusal :=
  .next (evPackageReset images pkg s)

/-- MEMORY_RESPONSE (R76). -/
def execMemoryResponse (core : Nat) (req : Nat) (s : State) : Host.Outcome State Fault Refusal :=
  .next (evMemoryResponse core req s)

/-- ENGINE_LINE_RELEASE (R50). -/
def execEngineLineRelease (line : Nat) (s : State) : Host.Outcome State Fault Refusal := .next (evEngineLineRelease line s)

/-- ACCESS_PAGE_FAULT_SERVICE (R301). -/
def execAccessPageFaultService (unit : Nat) (undeliverable : List Nat) (s : State) : Host.Outcome State Fault Refusal :=
  .next (evAccessPageFaultService unit undeliverable s)

/-- ROUTE_RETURN (R411). -/
def execRouteReturn (pkg : Nat) (s : State) : Host.Outcome State Fault Refusal := .next (evRouteReturn pkg s)

/-- POWER_LOSS (R401). -/
def execPowerLoss (s : State) : Host.Outcome State Fault Refusal := .next (evPowerLoss s)

/-- POWER_OR_TEMPERATURE_LIMIT (R424). -/
def execPowerOrTemperatureLimit (on : Bool) (s : State) : Host.Outcome State Fault Refusal :=
  .next (evPowerOrTemperatureLimit on s)

/-- SEGMENT_WRITE_COMPLETION (R398). -/
def execSegmentWriteCompletion (die : Nat) (s : State) : Host.Outcome State Fault Refusal :=
  .next (evSegmentWriteCompletion die s)

/-- MIGRATION_COMPLETION (R413). -/
def execMigrationCompletion (s : State) : Host.Outcome State Fault Refusal := .next (evMigrationCompletion s)

end Sys2Proof.Machine
end

