-- ==== Sys2Proof/Machine/Fp.lean ====
section
/-! DEFINITION. The floating-point, packed and conversion instructions (R195 to R204). -/

namespace Sys2Proof.Machine

/-- A floating-point instruction: bits [31:0] of each source, and zero above a scalar result (R72, R195). -/
def fpOp (lat : Nat) (d a : Reg) (b : SrcB) (f : W32 → W32 → W32) : Issue → State → Res :=
  compute lat d fun u l => zx (f (u.src32 a l) (u.srcB32 b l))

/-- A floating-point instruction of three register sources. -/
def fpOp3 (lat : Nat) (d a b c : Reg) (f : W32 → W32 → W32 → W32) : Issue → State → Res :=
  compute lat d fun u l => zx (f (u.src32 a l) (u.src32 b l) (u.src32 c l))

/-- FADD (R196). -/
def execFadd (h : Hdr) (rm : Rm) (d a : Reg) (b : SrcB) (s : State) : Host.Outcome State Fault Refusal :=
  runIssue h (.fadd h rm d a b) (fpOp 6 d a b (add32 rm)) s

/-- FSUB (R196). -/
def execFsub (h : Hdr) (rm : Rm) (d a : Reg) (b : SrcB) (s : State) : Host.Outcome State Fault Refusal :=
  runIssue h (.fsub h rm d a b) (fpOp 6 d a b fun x y => round32 rm ((num32 x).add rm (num32 y).neg)) s

/-- FMUL (R196). -/
def execFmul (h : Hdr) (rm : Rm) (d a : Reg) (b : SrcB) (s : State) : Host.Outcome State Fault Refusal :=
  runIssue h (.fmul h rm d a b) (fpOp 6 d a b (mul32 rm)) s

/-- FFMA (R196). -/
def execFfma (h : Hdr) (rm : Rm) (d a b c : Reg) (s : State) : Host.Outcome State Fault Refusal :=
  runIssue h (.ffma h rm d a b c) (fpOp3 6 d a b c (fma32 rm)) s

/-- FDIV (R196). -/
def execFdiv (h : Hdr) (rm : Rm) (d a : Reg) (b : SrcB) (s : State) : Host.Outcome State Fault Refusal :=
  runIssue h (.fdiv h rm d a b) (fpOp 18 d a b fun x y => round32 rm ((num32 x).div (num32 y))) s

/-- FRCP (R196). -/
def execFrcp (h : Hdr) (rm : Rm) (d a : Reg) (s : State) : Host.Outcome State Fault Refusal :=
  runIssue h (.frcp h rm d a) (fpOp 18 d a (.reg a) fun x _ => round32 rm ((Num.ofInt 1).div (num32 x))) s

/-- FSQRT (R196). -/
def execFsqrt (h : Hdr) (rm : Rm) (d a : Reg) (s : State) : Host.Outcome State Fault Refusal :=
  runIssue h (.fsqrt h rm d a) (fpOp 18 d a (.reg a) fun x _ => round32 rm (num32 x).sqrt) s

/-- FRSQ (R196). -/
def execFrsq (h : Hdr) (rm : Rm) (d a : Reg) (s : State) : Host.Outcome State Fault Refusal :=
  runIssue h (.frsq h rm d a) (fpOp 18 d a (.reg a) fun x _ => round32 rm (num32 x).rsqrt) s

/-- FRND (R196). -/
def execFrnd (h : Hdr) (rm : Rm) (d a : Reg) (s : State) : Host.Outcome State Fault Refusal :=
  runIssue h (.frnd h rm d a) (fpOp 6 d a (.reg a) fun x _ => round32 rm ((num32 x).integral rm)) s

/-- FSCL (R196). -/
def execFscl (h : Hdr) (rm : Rm) (d a : Reg) (b : SrcB) (s : State) : Host.Outcome State Fault Refusal :=
  runIssue h (.fscl h rm d a b) (fpOp 6 d a b fun x y => round32 rm ((num32 x).scale y.toInt)) s

/-- FMIN (R197). -/
def execFmin (h : Hdr) (d a : Reg) (b : SrcB) (s : State) : Host.Outcome State Fault Refusal :=
  runIssue h (.fmin h d a b) (fpOp 6 d a b fmin32) s

/-- FMAX (R197). -/
def execFmax (h : Hdr) (d a : Reg) (b : SrcB) (s : State) : Host.Outcome State Fault Refusal :=
  runIssue h (.fmax h d a b) (fpOp 6 d a b fmax32) s

/-- FCMP (R198). -/
def execFcmp (h : Hdr) (c : FCond) (p : Pred) (a : Reg) (b : SrcB) (s : State) : Host.Outcome State Fault Refusal :=
  runIssue h (.fcmp h c p a b) (computePred 6 p fun u l => fcmp32 c (u.src32 a l) (u.srcB32 b l)) s

/-- FCLS (R199). -/
def execFcls (h : Hdr) (p : Pred) (a : Reg) (mask : BitVec 8) (s : State) : Host.Outcome State Fault Refusal :=
  runIssue h (.fcls h p a mask) (computePred 6 p fun u l => mask.getLsbD (classBit (u.src32 a l))) s

/-- FEXP2 (R100, R200). -/
def execFexp2 (h : Hdr) (d a : Reg) (s : State) : Host.Outcome State Fault Refusal :=
  runIssue h (.fexp2 h d a) (fpOp 18 d a (.reg a) fun x _ => fexp2 x) s

/-- FLOG2 (R101, R200). -/
def execFlog2 (h : Hdr) (d a : Reg) (s : State) : Host.Outcome State Fault Refusal :=
  runIssue h (.flog2 h d a) (fpOp 18 d a (.reg a) fun x _ => flog2 x) s

/-- HXADD (R201). -/
def execHxadd (h : Hdr) (rm : Rm) (bs : BSrc) (d a b : Reg) (s : State) : Host.Outcome State Fault Refusal :=
  runIssue h (.hxadd h rm bs d a b) (fpOp3 6 d a b b (packedOp fp16 rm bs fun x y _ => x.add rm y)) s

/-- HXMUL (R201). -/
def execHxmul (h : Hdr) (rm : Rm) (bs : BSrc) (d a b : Reg) (s : State) : Host.Outcome State Fault Refusal :=
  runIssue h (.hxmul h rm bs d a b) (fpOp3 6 d a b b (packedOp fp16 rm bs fun x y _ => x.mul y)) s

/-- HXFMA (R201). -/
def execHxfma (h : Hdr) (rm : Rm) (bs : BSrc) (d a b c : Reg) (s : State) : Host.Outcome State Fault Refusal :=
  runIssue h (.hxfma h rm bs d a b c) (fpOp3 6 d a b c (packedOp fp16 rm bs fun x y z => (x.mul y).add rm z)) s

/-- BXADD (R201). -/
def execBxadd (h : Hdr) (rm : Rm) (bs : BSrc) (d a b : Reg) (s : State) : Host.Outcome State Fault Refusal :=
  runIssue h (.bxadd h rm bs d a b) (fpOp3 6 d a b b (packedOp bf16 rm bs fun x y _ => x.add rm y)) s

/-- BXMUL (R201). -/
def execBxmul (h : Hdr) (rm : Rm) (bs : BSrc) (d a b : Reg) (s : State) : Host.Outcome State Fault Refusal :=
  runIssue h (.bxmul h rm bs d a b) (fpOp3 6 d a b b (packedOp bf16 rm bs fun x y _ => x.mul y)) s

/-- BXFMA (R201). -/
def execBxfma (h : Hdr) (rm : Rm) (bs : BSrc) (d a b c : Reg) (s : State) : Host.Outcome State Fault Refusal :=
  runIssue h (.bxfma h rm bs d a b c) (fpOp3 6 d a b c (packedOp bf16 rm bs fun x y z => (x.mul y).add rm z)) s

/-- CVT (R97, R98, R202). -/
def execCvt (h : Hdr) (dt st : CvtTy) (rm : Rm) (sat ovfnan : Bool) (d a : Reg) (s : State) :
    Host.Outcome State Fault Refusal :=
  runIssue h (.cvt h dt st rm sat ovfnan d a) (fpOp 6 d a (.reg a) fun x _ => convert dt st rm sat ovfnan x.toNat) s

/-- PACK (R203). -/
def execPack (h : Hdr) (ty : PackTy) (rm : Rm) (sat ovfnan hi : Bool) (d a b c : Reg) (s : State) :
    Host.Outcome State Fault Refusal :=
  runIssue h (.pack h ty rm sat ovfnan hi d a b c) (fpOp3 6 d a b c (packResult ty rm sat ovfnan hi)) s

/-- Whether an unpacked element is a signed integer, whose scalar result is sign-extended (R204). -/
def unpkSigned (ty : UnpkTy) : Bool := ty == .s8 || ty == .s4

/-- UNPK (R204). -/
def execUnpk (h : Hdr) (ty : UnpkTy) (d a : Reg) (k : BitVec 8) (s : State) : Host.Outcome State Fault Refusal :=
  runIssue h (.unpk h ty d a k)
    (compute 6 d fun u l =>
      let v := unpkResult ty (u.src32 a l) k.toNat
      if unpkSigned ty then sx v else zx v) s

end Sys2Proof.Machine
end

