-- ==== Sys2Proof/Machine/Int.lean ====
section
/-! DEFINITION. The integer, logic, shift, bit-field, comparison and predicate instructions (R181 to R191). -/

namespace Sys2Proof.Machine

/-- The W-bit pattern of an exact value, wrapped or, under `.sat`, limited to the range of the type (R181). -/
def finish (w : Width) (z sat : Bool) (v : Int) : W64 :=
  let lo : Int := if z then 0 else -(2 ^ (w - 1))
  let hi : Int := if z then 2 ^ w - 1 else 2 ^ (w - 1) - 1
  BitVec.ofNat 64 (wrapNat w (if sat then max lo (min hi v) else v))

/-- A two-source arithmetic instruction over exact values (R183). -/
def arith (lat : Nat) (z sat : Bool) (d a : Reg) (b : SrcB) (f : Int → Int → Int) : Issue → State → Res :=
  let w := widthFor d
  compute lat d fun u l => finish w z sat (f (valOf w z (u.src w a l)) (valOf w z (u.srcB w b l)))

/-- A two-source instruction over W-bit patterns (R185). -/
def bits2 (d a : Reg) (b : SrcB) (f : Width → Nat → Nat → Nat) : Issue → State → Res :=
  let w := widthFor d
  compute 4 d fun u l => BitVec.ofNat 64 (f w (u.src w a l) (u.srcB w b l) % 2 ^ w)

/-- A one-source instruction over W-bit patterns (R186). -/
def bits1 (d a : Reg) (f : Width → Nat → Nat) : Issue → State → Res :=
  let w := widthFor d
  compute 4 d fun u l => BitVec.ofNat 64 (f w (u.src w a l) % 2 ^ w)

/-- NOP (R182). -/
def execNop (h : Hdr) (s : State) : Host.Outcome State Fault Refusal :=
  runIssue h (.nop h) (fun _ t => .done t []) s

/-- MOV (R182). -/
def execMov (h : Hdr) (d a : Reg) (s : State) : Host.Outcome State Fault Refusal :=
  runIssue h (.mov h d a) (bits1 d a fun _ v => v) s

/-- MOVI (R182). -/
def execMovi (h : Hdr) (z : Bool) (d : Reg) (imm : W32) (s : State) : Host.Outcome State Fault Refusal :=
  runIssue h (.movi h z d imm) (compute 4 d fun _ _ => if z || isVec d then zx imm else sx imm) s

/-- MOVI.hi: the low half of the destination is kept (R182). -/
def execMoviHi (h : Hdr) (d : Reg) (imm : W32) (s : State) : Host.Outcome State Fault Refusal :=
  runIssue h (.moviHi h d imm) (compute 4 d fun u l => join64 imm (u.src32 d l)) s

/-- ADD (R183). -/
def execAdd (h : Hdr) (z sat : Bool) (d a : Reg) (b : SrcB) (s : State) : Host.Outcome State Fault Refusal :=
  runIssue h (.add h z sat d a b) (arith 4 z sat d a b fun x y => x + y) s

/-- SUB (R183). -/
def execSub (h : Hdr) (z sat : Bool) (d a : Reg) (b : SrcB) (s : State) : Host.Outcome State Fault Refusal :=
  runIssue h (.sub h z sat d a b) (arith 4 z sat d a b fun x y => x - y) s

/-- MUL (R183). -/
def execMul (h : Hdr) (z sat : Bool) (d a : Reg) (b : SrcB) (s : State) : Host.Outcome State Fault Refusal :=
  runIssue h (.mul h z sat d a b) (arith 6 z sat d a b fun x y => x * y) s

/-- MULH: the high half of the product (R183). -/
def execMulh (h : Hdr) (z : Bool) (d a : Reg) (b : SrcB) (s : State) : Host.Outcome State Fault Refusal :=
  runIssue h (.mulh h z d a b) (arith 6 z false d a b fun x y => (x * y) / 2 ^ widthFor d) s

/-- MAD (R183). -/
def execMad (h : Hdr) (z sat : Bool) (d a b c : Reg) (s : State) : Host.Outcome State Fault Refusal :=
  let w := widthFor d
  runIssue h (.mad h z sat d a b c)
    (compute 6 d fun u l =>
      finish w z sat (valOf w z (u.src w a l) * valOf w z (u.src w b l) + valOf w z (u.src w c l))) s

/-- LEA (R183). -/
def execLea (h : Hdr) (d a b : Reg) (n : BitVec 8) (s : State) : Host.Outcome State Fault Refusal :=
  runIssue h (.lea h d a b n) (bits2 d a (.reg b) fun _ x y => x + y * 2 ^ n.toNat) s

/-- MIN (R183). -/
def execMin (h : Hdr) (z : Bool) (d a : Reg) (b : SrcB) (s : State) : Host.Outcome State Fault Refusal :=
  runIssue h (.min h z d a b) (arith 4 z false d a b fun x y => if y < x then y else x) s

/-- MAX (R183). -/
def execMax (h : Hdr) (z : Bool) (d a : Reg) (b : SrcB) (s : State) : Host.Outcome State Fault Refusal :=
  runIssue h (.max h z d a b) (arith 4 z false d a b fun x y => if x < y then y else x) s

/-- ABS, signed (R183). -/
def execAbs (h : Hdr) (sat : Bool) (d a : Reg) (s : State) : Host.Outcome State Fault Refusal :=
  runIssue h (.abs h sat d a) (arith 4 false sat d a (.reg a) fun x _ => x.natAbs) s

/-- NEG, signed (R183). -/
def execNeg (h : Hdr) (sat : Bool) (d a : Reg) (s : State) : Host.Outcome State Fault Refusal :=
  runIssue h (.neg h sat d a) (arith 4 false sat d a (.reg a) fun x _ => -x) s

/-- A value limited to the range of n bits (R184). -/
def satBits (z : Bool) (n : Nat) (v : Int) : Int :=
  if z then max 0 (min (2 ^ n - 1) v) else max (-(2 ^ (n - 1))) (min (2 ^ (n - 1) - 1) v)

/-- SAT (R184). -/
def execSat (h : Hdr) (z : Bool) (d a : Reg) (n : BitVec 8) (s : State) : Host.Outcome State Fault Refusal :=
  runIssue h (.sat h z d a n) (arith 4 false false d a (.reg a) fun x _ => satBits z n.toNat x) s

/-- AND (R185). -/
def execAnd (h : Hdr) (d a : Reg) (b : SrcB) (s : State) : Host.Outcome State Fault Refusal :=
  runIssue h (.and h d a b) (bits2 d a b fun _ x y => x &&& y) s

/-- OR (R185). -/
def execOr (h : Hdr) (d a : Reg) (b : SrcB) (s : State) : Host.Outcome State Fault Refusal :=
  runIssue h (.or h d a b) (bits2 d a b fun _ x y => x ||| y) s

/-- XOR (R185). -/
def execXor (h : Hdr) (d a : Reg) (b : SrcB) (s : State) : Host.Outcome State Fault Refusal :=
  runIssue h (.xor h d a b) (bits2 d a b fun _ x y => x ^^^ y) s

/-- ANDN (R185). -/
def execAndn (h : Hdr) (d a : Reg) (b : SrcB) (s : State) : Host.Outcome State Fault Refusal :=
  runIssue h (.andn h d a b) (bits2 d a b fun w x y => x &&& (2 ^ w - 1 - y)) s

/-- NOT (R185). -/
def execNot (h : Hdr) (d a : Reg) (s : State) : Host.Outcome State Fault Refusal :=
  runIssue h (.not h d a) (bits1 d a fun w x => 2 ^ w - 1 - x) s

/-- SHL: the count is bits [7:0] of source B (R185). -/
def execShl (h : Hdr) (d a : Reg) (b : SrcB) (s : State) : Host.Outcome State Fault Refusal :=
  runIssue h (.shl h d a b) (bits2 d a b fun _ x y => x * 2 ^ (y % 256)) s

/-- SHR (R185). -/
def execShr (h : Hdr) (d a : Reg) (b : SrcB) (s : State) : Host.Outcome State Fault Refusal :=
  runIssue h (.shr h d a b) (bits2 d a b fun _ x y => x / 2 ^ (y % 256)) s

/-- SHA (R185). -/
def execSha (h : Hdr) (d a : Reg) (b : SrcB) (s : State) : Host.Outcome State Fault Refusal :=
  runIssue h (.sha h d a b) (bits2 d a b fun w x y => wrapNat w (sgnOf w x / 2 ^ (y % 256))) s

/-- A W-bit pattern rotated left (R185). -/
def rotL (w : Width) (x k : Nat) : Nat := x * 2 ^ (k % w) % 2 ^ w + x / 2 ^ (w - k % w)

/-- ROT (R185). -/
def execRot (h : Hdr) (d a : Reg) (b : SrcB) (s : State) : Host.Outcome State Fault Refusal :=
  runIssue h (.rot h d a b) (bits2 d a b fun w x y => rotL w x (y % 256)) s

/-- The zero bits above the highest set bit (R186). -/
def clzN (w : Width) (x : Nat) : Nat := if x == 0 then w else w - 1 - Nat.log2 x

/-- CLZ (R186). -/
def execClz (h : Hdr) (d a : Reg) (s : State) : Host.Outcome State Fault Refusal :=
  runIssue h (.clz h d a) (bits1 d a clzN) s

/-- The set bits of a number below 2^w. -/
def popcN (w x : Nat) : Nat := ((List.range w).filter fun i => x.testBit i).length

/-- POPC (R186). -/
def execPopc (h : Hdr) (d a : Reg) (s : State) : Host.Outcome State Fault Refusal :=
  runIssue h (.popc h d a) (bits1 d a popcN) s

/-- The bits of a number below 2^w in reverse order. -/
def brevN (w x : Nat) : Nat := (List.range w).foldl (fun r i => 2 * r + (if x.testBit i then 1 else 0)) 0

/-- BREV (R186). -/
def execBrev (h : Hdr) (d a : Reg) (s : State) : Host.Outcome State Fault Refusal :=
  runIssue h (.brev h d a) (bits1 d a brevN) s

/-- The clamped field of BFX and BFI: position and length (R187). -/
def fieldOf (w : Width) (c : Nat) : Nat × Nat :=
  let p := Nat.min (c % 256) w
  (p, Nat.min (c / 256 % 256) (w - p))

/-- BFX (R187). -/
def bfxN (w : Width) (z : Bool) (a c : Nat) : Nat :=
  let (p, n) := fieldOf w c
  let v := a / 2 ^ p % 2 ^ n
  if n == 0 then 0 else if z then v else wrapNat w (sgnOf n v)

/-- BFX (R187). -/
def execBfx (h : Hdr) (z : Bool) (d a b : Reg) (s : State) : Host.Outcome State Fault Refusal :=
  runIssue h (.bfx h z d a b) (bits2 d a (.reg b) fun w x y => bfxN w z x y) s

/-- BFI (R187). -/
def bfiN (w : Width) (a b c : Nat) : Nat :=
  let (p, n) := fieldOf w c
  b % 2 ^ p + 2 ^ p * (a % 2 ^ n) + 2 ^ (p + n) * (b / 2 ^ (p + n))

/-- BFI (R187). -/
def execBfi (h : Hdr) (d a b c : Reg) (s : State) : Host.Outcome State Fault Refusal :=
  let w := widthFor d
  runIssue h (.bfi h d a b c)
    (compute 4 d fun u l => BitVec.ofNat 64 (bfiN w (u.src w a l) (u.src w b l) (u.src w c l))) s

/-- A byte of BYTX's pool (R188). -/
def bytxPool (a b sel : Nat) : Nat :=
  if sel < 4 then a / 2 ^ (8 * sel) % 256
  else if sel < 8 then b / 2 ^ (8 * (sel - 4)) % 256
  else if sel == 9 then 0xFF
  else 0

/-- One result byte of BYTX under its control byte (R188). -/
def bytxByte (a b c : Nat) : Nat :=
  let v := bytxPool a b (c % 16)
  match c / 16 % 4 with
  | 0 => v
  | 1 => if v < 128 then 0 else 0xFF
  | 2 => brevN 8 v
  | _ => 255 - v

/-- BYTX on 32-bit words (R188). -/
def bytxN (a b c : Nat) : Nat :=
  (List.range 4).foldl (fun r k => r + 2 ^ (8 * k) * bytxByte a b (c / 2 ^ (8 * k) % 256)) 0

/-- BYTX (R188). -/
def execBytx (h : Hdr) (d a b c : Reg) (s : State) : Host.Outcome State Fault Refusal :=
  runIssue h (.bytx h d a b c)
    (compute 4 d fun u l => BitVec.ofNat 64 (bytxN (u.src 32 a l) (u.src 32 b l) (u.src 32 c l))) s

/-- SEL (R189). -/
def execSel (h : Hdr) (d a b : Reg) (p : BitVec 8) (s : State) : Host.Outcome State Fault Refusal :=
  let w := widthFor d
  runIssue h (.sel h d a b p)
    (compute 4 d fun u l => BitVec.ofNat 64 (if hasLane (u.p (predOf p)) l then u.src w a l else u.src w b l)) s

/-- CMP (R190). -/
def execCmp (h : Hdr) (c : Cond) (z : Bool) (p : Pred) (a : Reg) (b : SrcB) (s : State) :
    Host.Outcome State Fault Refusal :=
  let w := widthCmp a b
  runIssue h (.cmp h c z p a b)
    (computePred 4 p fun u l => cmpHolds c (valOf w z (u.src w a l)) (valOf w z (u.srcB w b l))) s

/-- PSET (R191). -/
def execPset (h : Hdr) (p : Pred) (src : PsetSrc) (s : State) : Host.Outcome State Fault Refusal :=
  runIssue h (.pset h p src) (computePred 4 p fun u l => psetBit u src l) s

end Sys2Proof.Machine
end

