-- ==== Sys2Proof/Machine/Trap.lean ====
section
/-! DEFINITION. Special registers (R74, R175, R235 to R237), software traps, trap return and the trace marker (R239 to
R241). -/

namespace Sys2Proof.Machine

/-! ### Special registers -/

/-- `%mode` of a task: priority, special-value mode and scoreboard check (R74). -/
def Task.mode (t : Task) : Nat :=
  recPrio t.record + (if recModeF t.record then 4 else 0) + (if recCheck t.record then 8 else 0)

/-- The refill section of a lane's PC (R175). -/
def Unit.sect (u : Unit) (pc : W64) : Nat :=
  match u.loop with
  | some lp => lp.sect pc
  | none => 0

/-- The value of a special register for a lane of a unit at an instruction (R74, R175). -/
def State.special (s : State) (uid l : Nat) (pc : W64) (x : Nat) : W64 :=
  let u := s.unit uid
  let t := s.task u.task
  let y := u.lane l
  match x with
  | 0x00 => BitVec.ofNat 64 l
  | 0x01 => BitVec.ofNat 64 u.width
  | 0x02 => BitVec.ofNat 64 u.index
  | 0x03 => zx t.index
  | 0x04 => zx y.iter
  | 0x05 => zx y.age
  | 0x06 => BitVec.ofNat 64 (u.sect pc)
  | 0x07 => BitVec.ofNat 64 u.core
  | 0x08 => BitVec.ofNat 64 t.part
  | 0x09 => BitVec.ofNat 64 y.depth
  | 0x0A => y.tpc
  | 0x0B => zx y.tcause
  | 0x0C => y.tinfo
  | 0x0D => (s.core u.core).cyc
  | 0x0E => BitVec.ofNat 64 t.mode
  | _ => 0#64

/-- MFS, latency 4 (R236). -/
def mfsBody (hi : Bool) (d : Reg) (x : BitVec 8) (y : Issue) (s : State) : Res :=
  compute 4 d (fun _ l =>
    let v := s.special y.uid l y.pc x.toNat
    if hi then zx (hi32 v) else v) y s

/-- MFS (R235, R236). -/
def execMfs (h : Hdr) (hi : Bool) (d : Reg) (x : BitVec 8) (s : State) : Host.Outcome State Fault Refusal :=
  runIssue h (.mfs h hi d x) (mfsBody hi d x) s

/-- The bits of a 64-bit trap register that MTS writes (R237). -/
def mtsMerge (hi : Bool) (a : Reg) (old v : W64) : W64 :=
  if !isVec a then v else if hi then join64 (lo32 v) (lo32 old) else zx (lo32 v)

/-- A lane's trap register written by MTS (R237). -/
def Lane.mts (y : Lane) (x : Nat) (hi : Bool) (a : Reg) (v : W64) : Lane :=
  if x == 0x0A then { y with tpc := mtsMerge hi a y.tpc v }
  else if x == 0x0B then { y with tcause := lo32 v }
  else { y with tinfo := mtsMerge hi a y.tinfo v }

/-- MTS: PRIV for a register that is none of the three trap registers (R237). -/
def mtsBody (hi : Bool) (a : Reg) (x : BitVec 8) (y : Issue) (s : State) : Res :=
  let u := s.unit y.uid
  if x == 0x0A#8 || x == 0x0B#8 || x == 0x0C#8 then
    .done (s.setUnit y.uid (y.lanes.foldl (fun v l => v.modLane l fun z => z.mts x.toNat hi a (u.src64 a l)) u)) []
  else .done s (y.trapAll cPriv (x.setWidth 64))

/-- MTS (R235, R237). -/
def execMts (h : Hdr) (hi : Bool) (a : Reg) (x : BitVec 8) (s : State) : Host.Outcome State Fault Refusal :=
  runIssue h (.mts h hi a x) (mtsBody hi a x) s

/-! ### TRAP, TRET, TMARK -/

/-- The information of a software trap (R239). -/
def Unit.trapInfo (u : Unit) (info : Option Reg) (l : Nat) : W64 :=
  match info with
  | some a => u.src64 a l
  | none => 0#64

/-- TRAP: a trap of each lane of Active with the code as its cause (R239). -/
def execTrap (h : Hdr) (code : BitVec 8) (info : Option Reg) (s : State) : Host.Outcome State Fault Refusal :=
  runIssue h (.trap h code info)
    (fun x t => .done t (x.lanes.map fun l => (l, .trap code.toNat ((t.unit x.uid).trapInfo info l)))) s

/-- TRAP.K: escalation with the code, or with the lane's trap registers where the code is 0 (R239). -/
def trapKBody (code : BitVec 8) (info : Option Reg) (x : Issue) (s : State) : Res :=
  let u := s.unit x.uid
  .done s (x.lanes.map fun l =>
    if code == 0#8 then (l, .escal ((u.lane l).tcause.toNat % 256) (u.lane l).tinfo)
    else (l, .escal code.toNat (u.trapInfo info l)))

/-- TRAP.K (R239). -/
def execTrapK (h : Hdr) (code : BitVec 8) (info : Option Reg) (s : State) : Host.Outcome State Fault Refusal :=
  runIssue h (.trapK h code info) (trapKBody code info) s

/-- The resume of one lane by TRET: an escalation from MATRIX_RESET (R382), a new trap at a PC that is no multiple of 4 (R208,
R240), the end of a lane that took QUEUE_MISUSE in place of a grant (R165), or its PC at its saved priority. -/
def tretOut (y : Lane) (pc : W64) : LaneOut :=
  if y.mtrap then .escal cMreset y.tinfo
  else if y.badGrant then .idle .spent
  else if pc.toNat % 4 != 0 then .jumpTrap pc y.savedPrio cIfetch pc
  else .jump pc y.savedPrio

/-- TRET of the lanes of Active: one that is not Trapped raises ILLEGAL_OP; the others leave Trapped (R240). -/
def tretBody (i : Instr) (target : Nat → W64) (x : Issue) (s : State) : Res :=
  let u := s.unit x.uid
  let back := x.lanes.filter fun l => (u.lane l).trapped && !(u.lane l).mtrap
  let outs : List (Nat × LaneOut) := x.lanes.map fun l =>
    if (u.lane l).trapped then (l, tretOut (u.lane l) (target l)) else (l, .trap cIllegalOp (stateInfo i 0))
  .done (s.setUnit x.uid (back.foldl (fun v l => v.modLane l fun y => { y with trapped := false, mtrap := false }) u)) outs

/-- TRET (R240). -/
def execTret (h : Hdr) (s : State) : Host.Outcome State Fault Refusal :=
  runIssueThen h (.tret h) (fun x t => tretBody (.tret h) (fun l => ((t.unit x.uid).lane l).tpc) x t) groupRelease s

/-- The length of the instruction at an address, by its first parcel's LEN (R60, R240). -/
def State.lenAt (s : State) (uid : Nat) (pc : W64) : Nat :=
  match s.codeN uid pc.toNat 4 with
  | some bs => if field bs 0 4 % 4 == 3 then 4 else lenBytes (BitVec.ofNat 2 (field bs 0 4))
  | none => 0

/-- What a fetch of the parcel at a lane's `%tpc` meets, as the coalescer names it (R63, R240). -/
def State.tpcXlat (s : State) (uid l : Nat) : LaneX :=
  let pc := ((s.unit uid).lane l).tpc
  if ((s.unit uid).lane l).badGrant then .ok [] else s.laneXlat uid (pc &&& ~~~3#64) 4 .x

/-- TRET.SKIP: the resume after the instruction at `%tpc` (R240). -/
def tretSkipBody (i : Instr) (x : Issue) (s : State) : Res :=
  let u := s.unit x.uid
  let back := x.lanes.filter fun l => (u.lane l).trapped && !(u.lane l).mtrap
  let xs := back.map fun l => (l, s.tpcXlat x.uid l)
  let pages := missPages xs
  if !pages.isEmpty then .wait (s.pageFault x i pages)
  else
    let bad := faultLanes xs
    match tretBody i (fun l => (u.lane l).tpc + BitVec.ofNat 64 (s.lenAt x.uid (u.lane l).tpc)) x s with
    | .wait t => .wait t
    | .done t outs =>
      .done (bad.foldl (fun v p => v.modUnit x.uid fun w => w.modLane p.1 fun _ => u.lane p.1) t)
        (bad ++ outs)

/-- TRET.SKIP (R240). -/
def execTretSkip (h : Hdr) (s : State) : Host.Outcome State Fault Refusal :=
  runIssueThen h (.tretSkip h) (tretSkipBody (.tretSkip h)) groupRelease s

/-- TMARK: one trace record for each lane of Active while tracing is enabled, else nothing (R241, R392). -/
def tmarkBody (id : BitVec 8) (val : Option Reg) (x : Issue) (s : State) : Res :=
  let u := s.unit x.uid
  .done (x.lanes.foldl (fun t l => t.traceLane x.uid l 0x01 id.toNat x.pc (match val with
    | some a => u.src32 a l
    | none => 0#32)) s) []

/-- TMARK (R241). -/
def execTmark (h : Hdr) (id : BitVec 8) (val : Option Reg) (s : State) : Host.Outcome State Fault Refusal :=
  runIssue h (.tmark h id val) (tmarkBody id val) s

end Sys2Proof.Machine
end

