-- ==== Sys2Proof/Machine/Dispatch.lean ====
section
/-! DEFINITION. One arm per instruction and event of the opcode table, each a direct call of its meaning. -/

namespace Sys2Proof.Machine

def exec (i : Instr) (s : State) : Host.Outcome State Fault Refusal :=
  match i with
  | .pad32 => Sys2Proof.Machine.execPad32 s
  | .nop h => Sys2Proof.Machine.execNop h s
  | .mov h d a => Sys2Proof.Machine.execMov h d a s
  | .movi h z d imm => Sys2Proof.Machine.execMovi h z d imm s
  | .moviHi h d imm => Sys2Proof.Machine.execMoviHi h d imm s
  | .add h z sat d a b => Sys2Proof.Machine.execAdd h z sat d a b s
  | .sub h z sat d a b => Sys2Proof.Machine.execSub h z sat d a b s
  | .mul h z sat d a b => Sys2Proof.Machine.execMul h z sat d a b s
  | .mulh h z d a b => Sys2Proof.Machine.execMulh h z d a b s
  | .mad h z sat d a b c => Sys2Proof.Machine.execMad h z sat d a b c s
  | .lea h d a b n => Sys2Proof.Machine.execLea h d a b n s
  | .min h z d a b => Sys2Proof.Machine.execMin h z d a b s
  | .max h z d a b => Sys2Proof.Machine.execMax h z d a b s
  | .abs h sat d a => Sys2Proof.Machine.execAbs h sat d a s
  | .neg h sat d a => Sys2Proof.Machine.execNeg h sat d a s
  | .sat h z d a n => Sys2Proof.Machine.execSat h z d a n s
  | .and h d a b => Sys2Proof.Machine.execAnd h d a b s
  | .or h d a b => Sys2Proof.Machine.execOr h d a b s
  | .xor h d a b => Sys2Proof.Machine.execXor h d a b s
  | .andn h d a b => Sys2Proof.Machine.execAndn h d a b s
  | .not h d a => Sys2Proof.Machine.execNot h d a s
  | .shl h d a b => Sys2Proof.Machine.execShl h d a b s
  | .shr h d a b => Sys2Proof.Machine.execShr h d a b s
  | .sha h d a b => Sys2Proof.Machine.execSha h d a b s
  | .rot h d a b => Sys2Proof.Machine.execRot h d a b s
  | .clz h d a => Sys2Proof.Machine.execClz h d a s
  | .popc h d a => Sys2Proof.Machine.execPopc h d a s
  | .brev h d a => Sys2Proof.Machine.execBrev h d a s
  | .bfx h z d a b => Sys2Proof.Machine.execBfx h z d a b s
  | .bfi h d a b c => Sys2Proof.Machine.execBfi h d a b c s
  | .bytx h d a b c => Sys2Proof.Machine.execBytx h d a b c s
  | .sel h d a b p => Sys2Proof.Machine.execSel h d a b p s
  | .cmp h cond z p a b => Sys2Proof.Machine.execCmp h cond z p a b s
  | .pset h p src => Sys2Proof.Machine.execPset h p src s
  | .shfl h mode d a b => Sys2Proof.Machine.execShfl h mode d a b s
  | .vote h mode d p => Sys2Proof.Machine.execVote h mode d p s
  | .rduc h op rm z d a => Sys2Proof.Machine.execRduc h op rm z d a s
  | .scan h op rm z excl d a => Sys2Proof.Machine.execScan h op rm z excl d a s
  | .mfs h hi d x => Sys2Proof.Machine.execMfs h hi d x s
  | .mts h hi a x => Sys2Proof.Machine.execMts h hi a x s
  | .fadd h rm d a b => Sys2Proof.Machine.execFadd h rm d a b s
  | .fsub h rm d a b => Sys2Proof.Machine.execFsub h rm d a b s
  | .fmul h rm d a b => Sys2Proof.Machine.execFmul h rm d a b s
  | .ffma h rm d a b c => Sys2Proof.Machine.execFfma h rm d a b c s
  | .fdiv h rm d a b => Sys2Proof.Machine.execFdiv h rm d a b s
  | .frcp h rm d a => Sys2Proof.Machine.execFrcp h rm d a s
  | .fsqrt h rm d a => Sys2Proof.Machine.execFsqrt h rm d a s
  | .frsq h rm d a => Sys2Proof.Machine.execFrsq h rm d a s
  | .frnd h rm d a => Sys2Proof.Machine.execFrnd h rm d a s
  | .fscl h rm d a b => Sys2Proof.Machine.execFscl h rm d a b s
  | .fmin h d a b => Sys2Proof.Machine.execFmin h d a b s
  | .fmax h d a b => Sys2Proof.Machine.execFmax h d a b s
  | .fcmp h cond p a b => Sys2Proof.Machine.execFcmp h cond p a b s
  | .fcls h p a mask => Sys2Proof.Machine.execFcls h p a mask s
  | .fexp2 h d a => Sys2Proof.Machine.execFexp2 h d a s
  | .flog2 h d a => Sys2Proof.Machine.execFlog2 h d a s
  | .hxadd h rm bs d a b => Sys2Proof.Machine.execHxadd h rm bs d a b s
  | .hxmul h rm bs d a b => Sys2Proof.Machine.execHxmul h rm bs d a b s
  | .hxfma h rm bs d a b c => Sys2Proof.Machine.execHxfma h rm bs d a b c s
  | .bxadd h rm bs d a b => Sys2Proof.Machine.execBxadd h rm bs d a b s
  | .bxmul h rm bs d a b => Sys2Proof.Machine.execBxmul h rm bs d a b s
  | .bxfma h rm bs d a b c => Sys2Proof.Machine.execBxfma h rm bs d a b c s
  | .cvt h dt st rm sat ovfnan d a => Sys2Proof.Machine.execCvt h dt st rm sat ovfnan d a s
  | .pack h ty rm sat ovfnan hi d a b c => Sys2Proof.Machine.execPack h ty rm sat ovfnan hi d a b c s
  | .unpk h ty d a k => Sys2Proof.Machine.execUnpk h ty d a k s
  | .bra h bp disp => Sys2Proof.Machine.execBra h bp disp s
  | .jmp h bp a => Sys2Proof.Machine.execJmp h bp a s
  | .jmpIndexed h bp a b => Sys2Proof.Machine.execJmpIndexed h bp a b s
  | .call h bp link disp => Sys2Proof.Machine.execCall h bp link disp s
  | .callR h bp link a => Sys2Proof.Machine.execCallR h bp link a s
  | .ret h bp link => Sys2Proof.Machine.execRet h bp link s
  | .brk h code => Sys2Proof.Machine.execBrk h code s
  | .rfli h src lens => Sys2Proof.Machine.execRfli h src lens s
  | .rfliOrd h src lens => Sys2Proof.Machine.execRfliOrd h src lens s
  | .rfl h bp => Sys2Proof.Machine.execRfl h bp s
  | .rflOrd h bp => Sys2Proof.Machine.execRflOrd h bp s
  | .syng h => Sys2Proof.Machine.execSyng h s
  | .ld h size d a off disp => Sys2Proof.Machine.execLd h size d a off disp s
  | .st h size d a off disp => Sys2Proof.Machine.execSt h size d a off disp s
  | .lds h size d a off disp => Sys2Proof.Machine.execLds h size d a off disp s
  | .sts h size d a off disp => Sys2Proof.Machine.execSts h size d a off disp s
  | .ldt h size d a t imm => Sys2Proof.Machine.execLdt h size d a t imm s
  | .stt h size d a t imm => Sys2Proof.Machine.execStt h size d a t imm s
  | .atom h op z pub sub wide d a b disp => Sys2Proof.Machine.execAtom h op z pub sub wide d a b disp s
  | .atomf h op pub sub d a b disp => Sys2Proof.Machine.execAtomf h op pub sub d a b disp s
  | .cas h pub sub wide d a b disp => Sys2Proof.Machine.execCas h pub sub wide d a b disp s
  | .pref h l2 a off disp => Sys2Proof.Machine.execPref h l2 a off disp s
  | .qpop h d q tag => Sys2Proof.Machine.execQpop h d q tag s
  | .qpush h fin a q tag => Sys2Proof.Machine.execQpush h fin a q tag s
  | .qsta h d q => Sys2Proof.Machine.execQsta h d q s
  | .spawn h a b => Sys2Proof.Machine.execSpawn h a b s
  | .spawnU h a b => Sys2Proof.Machine.execSpawnU h a b s
  | .await h => Sys2Proof.Machine.execAwait h s
  | .exit h => Sys2Proof.Machine.execExit h s
  | .exitS h a b => Sys2Proof.Machine.execExitS h a b s
  | .exitJ h a b => Sys2Proof.Machine.execExitJ h a b s
  | .rgrow h d n => Sys2Proof.Machine.execRgrow h d n s
  | .rshrk h n => Sys2Proof.Machine.execRshrk h n s
  | .yield h => Sys2Proof.Machine.execYield h s
  | .trap h code info => Sys2Proof.Machine.execTrap h code info s
  | .trapK h code info => Sys2Proof.Machine.execTrapK h code info s
  | .tret h => Sys2Proof.Machine.execTret h s
  | .tretSkip h => Sys2Proof.Machine.execTretSkip h s
  | .tmark h id val => Sys2Proof.Machine.execTmark h id val s
  | .ald h size d hn off disp => Sys2Proof.Machine.execAld h size d hn off disp s
  | .ast h size d hn off disp => Sys2Proof.Machine.execAst h size d hn off disp s
  | .aprf h l2 hn off disp => Sys2Proof.Machine.execAprf h l2 hn off disp s
  | .ahq h sel d hn => Sys2Proof.Machine.execAhq h sel d hn s
  | .strm h size q hn a b c => Sys2Proof.Machine.execStrm h size q hn a b c s
  | .gth h sx q hn a b c e => Sys2Proof.Machine.execGth h sx q hn a b c e s
  | .gthQ h sx q hn a qs e => Sys2Proof.Machine.execGthQ h sx q hn a qs e s
  | .sct h comb hn a qv qi => Sys2Proof.Machine.execSct h comb hn a qv qi s
  | .hprb h d q hn a b qk bits => Sys2Proof.Machine.execHprb h d q hn a b qk bits s
  | .isct h d q hn a b c => Sys2Proof.Machine.execIsct h d q hn a b c s
  | .walk h q hn a b rows depth => Sys2Proof.Machine.execWalk h q hn a b rows depth s
  | .qput h fin q a b => Sys2Proof.Machine.execQput h fin q a b s
  | .qtake h pop d q a => Sys2Proof.Machine.execQtake h pop d q a s
  | .qend h q => Sys2Proof.Machine.execQend h q s
  | .qendX h q => Sys2Proof.Machine.execQendX h q s
  | .qclr h q => Sys2Proof.Machine.execQclr h q s
  | .mlds h t => Sys2Proof.Machine.execMlds h t s
  | .mldsK1 h t => Sys2Proof.Machine.execMldsK1 h t s
  | .mswp h => Sys2Proof.Machine.execMswp h s
  | .mma h set bank t m => Sys2Proof.Machine.execMma h set bank t m s
  | .mmas h set bank t m => Sys2Proof.Machine.execMmas h set bank t m s
  | .mbmp h set bank ta tb m => Sys2Proof.Machine.execMbmp h set bank ta tb m s
  | .mhad h p t => Sys2Proof.Machine.execMhad h p t s
  | .mprn h n m tr td ts => Sys2Proof.Machine.execMprn h n m tr td ts s
  | .acal h i32 bank n1 => Sys2Proof.Machine.execAcal h i32 bank n1 s
  | .acfr h bank n1 => Sys2Proof.Machine.execAcfr h bank n1 s
  | .acclm h pair bank first count => Sys2Proof.Machine.execAcclm h pair bank first count s
  | .acz h bank => Sys2Proof.Machine.execAcz h bank s
  | .acrdVector h c d bank => Sys2Proof.Machine.execAcrdVector h c d bank s
  | .acrdScalar h d bank row col => Sys2Proof.Machine.execAcrdScalar h d bank row col s
  | .acst h kind sat tr cnt rm t bank first rows cols => Sys2Proof.Machine.execAcst h kind sat tr cnt rm t bank first rows cols s
  | .mstat h sel d => Sys2Proof.Machine.execMstat h sel d s
  | .mwait h => Sys2Proof.Machine.execMwait h s
  | .cpl h aon dsp ext dest a b => Sys2Proof.Machine.execCpl h aon dsp ext dest a b s
  | .cps h keep aon dsp src a b => Sys2Proof.Machine.execCps h keep aon dsp src a b s
  | .cpf h dest a b kindw => Sys2Proof.Machine.execCpf h dest a b kindw s
  | .cpx h tr dest src => Sys2Proof.Machine.execCpx h tr dest src s
  | .cpw h => Sys2Proof.Machine.execCpw h s
  | .rini h r t count => Sys2Proof.Machine.execRini h r t count s
  | .awf h d r => Sys2Proof.Machine.execAwf h d r s
  | .rlsRing h r => Sys2Proof.Machine.execRlsRing h r s
  | .rlsTile h t => Sys2Proof.Machine.execRlsTile h t s
  | .rsta h d r => Sys2Proof.Machine.execRsta h d r s
  | .tsta h sel d t => Sys2Proof.Machine.execTsta h sel d t s
  | .tbindSp h t a cap => Sys2Proof.Machine.execTbindSp h t a cap s
  | .tbindRd h t r => Sys2Proof.Machine.execTbindRd h t r s
  | .tbindWr h t r => Sys2Proof.Machine.execTbindWr h t r s
  | .tbindSelf h t => Sys2Proof.Machine.execTbindSelf h t s
  | .outgoingEdge unit lane => Sys2Proof.Machine.execOutgoingEdge unit lane s
  | .runAheadEnd unit => Sys2Proof.Machine.execRunAheadEnd unit s
  | .pageFaultService unit undeliverable => Sys2Proof.Machine.execPageFaultService unit undeliverable s
  | .coalescerRecordClose core => Sys2Proof.Machine.execCoalescerRecordClose core s
  | .faultRingWrite core => Sys2Proof.Machine.execFaultRingWrite core s
  | .hangReport task => Sys2Proof.Machine.execHangReport task s
  | .waitCycleReport unit => Sys2Proof.Machine.execWaitCycleReport unit s
  | .hostLaunch part asn proc record => Sys2Proof.Machine.execHostLaunch part asn proc record s
  | .distributorEmit die part => Sys2Proof.Machine.execDistributorEmit die part s
  | .blockMove level idx part => Sys2Proof.Machine.execBlockMove level idx part s
  | .stealMessage die thief part => Sys2Proof.Machine.execStealMessage die thief part s
  | .stealReply die donor part => Sys2Proof.Machine.execStealReply die donor part s
  | .runDry die part => Sys2Proof.Machine.execRunDry die part s
  | .placement core => Sys2Proof.Machine.execPlacement core s
  | .spillRestore task => Sys2Proof.Machine.execSpillRestore task s
  | .childCompletion task => Sys2Proof.Machine.execChildCompletion task s
  | .taskCompletion task => Sys2Proof.Machine.execTaskCompletion task s
  | .inheritanceSpill task => Sys2Proof.Machine.execInheritanceSpill task s
  | .park task => Sys2Proof.Machine.execPark task s
  | .parkResume task => Sys2Proof.Machine.execParkResume task s
  | .rgrowGrant core => Sys2Proof.Machine.execRgrowGrant core s
  | .rgrowDenial core => Sys2Proof.Machine.execRgrowDenial core s
  | .refillGrant unit => Sys2Proof.Machine.execRefillGrant unit s
  | .agedEntry unit => Sys2Proof.Machine.execAgedEntry unit s
  | .breakpointStop unit lane => Sys2Proof.Machine.execBreakpointStop unit lane s
  | .resume unit lane => Sys2Proof.Machine.execResume unit lane s
  | .step unit lane => Sys2Proof.Machine.execStep unit lane s
  | .sample core => Sys2Proof.Machine.execSample core s
  | .copyCompletion core op => Sys2Proof.Machine.execCopyCompletion core op s
  | .copyDataFault core op => Sys2Proof.Machine.execCopyDataFault core op s
  | .copyPageFaultService core op undeliverable => Sys2Proof.Machine.execCopyPageFaultService core op undeliverable s
  | .aonVersionWait core op => Sys2Proof.Machine.execAonVersionWait core op s
  | .streamingOperationCompletion unit slot => Sys2Proof.Machine.execStreamingOperationCompletion unit slot s
  | .accessStrandFault unit => Sys2Proof.Machine.execAccessStrandFault unit s
  | .matrixAcceptance core => Sys2Proof.Machine.execMatrixAcceptance core s
  | .matrixOperationCompletion core op => Sys2Proof.Machine.execMatrixOperationCompletion core op s
  | .coreSramSplitWrite core v => Sys2Proof.Machine.execCoreSramSplitWrite core v s
  | .sramSplitChange core => Sys2Proof.Machine.execSramSplitChange core s
  | .residCtlWrite part n v => Sys2Proof.Machine.execResidCtlWrite part n v s
  | .prefetchFillDrop slice => Sys2Proof.Machine.execPrefetchFillDrop slice s
  | .load core => Sys2Proof.Machine.execLoad core s
  | .clear core => Sys2Proof.Machine.execClear core s
  | .soft core => Sys2Proof.Machine.execSoft core s
  | .force core => Sys2Proof.Machine.execForce core s
  | .swap core => Sys2Proof.Machine.execSwap core s
  | .fillCompletion core => Sys2Proof.Machine.execFillCompletion core s
  | .spillCompletion core => Sys2Proof.Machine.execSpillCompletion core s
  | .reset core => Sys2Proof.Machine.execReset core s
  | .matrixResetCompletion core => Sys2Proof.Machine.execMatrixResetCompletion core s
  | .invalidatePage part asn size va => Sys2Proof.Machine.execInvalidatePage part asn size va s
  | .invalidateAddressSpace part asn => Sys2Proof.Machine.execInvalidateAddressSpace part asn s
  | .invalidatePartition part => Sys2Proof.Machine.execInvalidatePartition part s
  | .invalidateRemoteTarget part pkg => Sys2Proof.Machine.execInvalidateRemoteTarget part pkg s
  | .invalidateCompletion part => Sys2Proof.Machine.execInvalidateCompletion part s
  | .heartwoodFrozenClear die => Sys2Proof.Machine.execHeartwoodFrozenClear die s
  | .registerWrite r v => Sys2Proof.Machine.execRegisterWrite r v s
  | .segmentClose die => Sys2Proof.Machine.execSegmentClose die s
  | .segmentSubmit die => Sys2Proof.Machine.execSegmentSubmit die s
  | .migrationCommand asn size va pfn => Sys2Proof.Machine.execMigrationCommand asn size va pfn s
  | .processEnd proc => Sys2Proof.Machine.execProcessEnd proc s
  | .partitionMake part clusters granules arena => Sys2Proof.Machine.execPartitionMake part clusters granules arena s
  | .partitionTeardown part => Sys2Proof.Machine.execPartitionTeardown part s
  | .checkpoint => Sys2Proof.Machine.execCheckpoint s
  | .restore => Sys2Proof.Machine.execRestore s
  | .hostBar2Read pa n => Sys2Proof.Machine.execHostBar2Read pa n s
  | .hostBar2Write pa data => Sys2Proof.Machine.execHostBar2Write pa data s
  | .read port m => Sys2Proof.Machine.execRead port m s
  | .readData port m => Sys2Proof.Machine.execReadData port m s
  | .write port m => Sys2Proof.Machine.execWrite port m s
  | .atomic port m => Sys2Proof.Machine.execAtomic port m s
  | .atomicResult port m => Sys2Proof.Machine.execAtomicResult port m s
  | .acknowledgement port m => Sys2Proof.Machine.execAcknowledgement port m s
  | .lossNotice port m => Sys2Proof.Machine.execLossNotice port m s
  | .checkpointData port m => Sys2Proof.Machine.execCheckpointData port m s
  | .idle port => Sys2Proof.Machine.execIdle port s
  | .idleFlitTimer port => Sys2Proof.Machine.execIdleFlitTimer port s
  | .flitCrcFailure port => Sys2Proof.Machine.execFlitCrcFailure port s
  | .portDown port => Sys2Proof.Machine.execPortDown port s
  | .linkDownTimeout core req => Sys2Proof.Machine.execLinkDownTimeout core req s
  | .powerOn images pkg => Sys2Proof.Machine.execPowerOn images pkg s
  | .packageReset images pkg => Sys2Proof.Machine.execPackageReset images pkg s
  | .memoryResponse core req => Sys2Proof.Machine.execMemoryResponse core req s
  | .engineLineRelease line => Sys2Proof.Machine.execEngineLineRelease line s
  | .accessPageFaultService unit undeliverable => Sys2Proof.Machine.execAccessPageFaultService unit undeliverable s
  | .routeReturn pkg => Sys2Proof.Machine.execRouteReturn pkg s
  | .powerLoss => Sys2Proof.Machine.execPowerLoss s
  | .powerOrTemperatureLimit on => Sys2Proof.Machine.execPowerOrTemperatureLimit on s
  | .segmentWriteCompletion die => Sys2Proof.Machine.execSegmentWriteCompletion die s
  | .migrationCompletion => Sys2Proof.Machine.execMigrationCompletion s

end Sys2Proof.Machine
end

