-- ==== Sys2Proof/Machine/Run.lean ====
section
/-! DEFINITION. Fetching an instruction and issuing it (R60 to R63, R83, R171, R382, R399), the moves of the schedule, and what the device
does by itself where the schedule is empty. -/

namespace Sys2Proof.Machine

/-! ### Fetch -/

/-- What a fetch comes to: it waits for another package, meets a page that is not mapped, raises a fault with the opcode that it found,
finds PAD32, or reads an instruction. -/
inductive Fetched where
  | wait (s : State)
  | miss (page : Nat)
  | fault (cause : Cause) (info : W64) (opc : Nat)
  | pad (s : State)
  | instr (s : State) (i : Instr)

/-- The request of a unit's fetch path for the block of an address in another package (R63, R403). -/
def Core.fetchFar (c : Core) (uid pa : Nat) : Option Far :=
  c.far.vals.find? fun f => f.unit == uid && f.lane == fetchLane && f.line == lineOf pa

/-- Whether code at an address can be read now, is still to come, or lies in a lost target. -/
def State.codeReady (s : State) (uid pa : Nat) : Option Bool :=
  if (remotePkg s pa).isNone then some true
  else
    match (s.core (s.unit uid).core).fetchFar uid pa with
    | none => none
    | some f => if f.data.isSome then some true else if f.lost then some false else none

/-- The parcels at an address read as an instruction (R60, R62, R83). -/
def State.readParcels (s : State) (uid : Nat) (pc : W64) (pa : Nat) : Fetched :=
  let u := s.unit uid
  let room := 32 - pc.toNat % 32
  match frame ((List.range 16).map fun k => s.codeByte uid (pa + k)) with
  | .short => .fault cIllegalOp 0#64 0
  | .pad => .pad s
  | .notInstr p0 => .fault cIllegalOp (decodeInfo p0 0x02 2) 0
  | .word r n p0 =>
    let opc := r.opc.toNat
    if room < n then .fault cIfetch pc opc
    else
      match rawFault r p0 u.kind (s.task u.task).gang u.role u.regs with
      | some (c, info) => .fault c info opc
      | none =>
        match decodeRaw r with
        | .ok i => .instr s i
        | .error f => .fault cIllegalOp (decodeInfo p0 f.why f.bit) opc

/-- The fetch of a unit at a PC (R62, R63, R247, R250, R408). -/
def State.fetch (s : State) (uid : Nat) (pc : W64) : Fetched :=
  let u := s.unit uid
  let t := s.task u.task
  if pc.toNat % 4 != 0 then .fault cIfetch pc 0
  else
    match s.translate u.core t.part t.asn pc.toNat .x with
    | .pageFault => if s.undeliv t.asn (pc.toNat / 2 ^ 16) then .fault cPage pc 0 else .miss (pc.toNat / 2 ^ 16)
    | .prot => .fault cProt pc 0
    | .linkDown => .fault cLink pc 0
    | .ok pa =>
      let s1 := s.fillTlb u.core t.asn pc.toNat
      match s1.codeReady uid pa with
      | some true => s1.readParcels uid pc pa
      | some false => .fault cLink pc 0
      | none =>
        .wait (if ((s1.core u.core).fetchFar uid pa).isSome then s1 else s1.sendReads u.core uid fetchLane [pa])

/-! ### Issue -/

/-- Whether a unit may issue: its task is resident and restored, no page fault of it is being served, and its core is not held in
reset (R135, R247, R423). -/
def State.mayIssue (s : State) (uid : Nat) : Bool :=
  match s.units.get uid with
  | none => false
  | some u =>
    let t := s.task u.task
    let c := s.core u.core
    t.st == .resident && !t.restoring && u.service.isEmpty && !c.inReset && c.ctx.tasks.contains u.task

/-- The lanes of an entry that wait for an earlier retire before the first instruction of theirs (R171). -/
def State.ordWaits (s : State) (uid : Nat) (e : Entry) : List Nat :=
  let u := s.unit uid
  match u.loop with
  | none => []
  | some lp =>
    let ret := lp.bounds.2.2.1
    if !lp.ord || s.firstInstr uid e.pc padFuel != s.firstInstr uid ret padFuel then []
    else
      (lanesOf e.mask).filter fun l =>
        let y := u.lane l
        y.inIter && !y.trapped && y.age != 0#32 && !lp.finished.contains (y.age.toNat - 1)

/-- Lanes that a matrix reset has reached trap with MATRIX_RESET in place of their next instruction (R382). -/
def State.takeReset (s : State) (uid : Nat) (e : Entry) (ls : List Nat) : State :=
  let u := s.unit uid
  let pc := s.firstInstr uid e.pc padFuel
  let s1 := s.setUnit uid (ls.foldl (fun v l => v.modLane l fun y => { y with mreset := false }) u)
  s1.raiseAll uid ls pc cMreset (BitVec.ofNat 64 u.core) 0

/-- What comes before the selected entry's instruction: a matrix reset's traps, breakpoint stops, or ordered waits; in run-ahead an
ordered wait ends it (R171, R249, R382, R399). -/
def State.beforeIssue (s : State) (uid : Nat) (e : Entry) : Option State :=
  let u := s.unit uid
  let ords := s.ordWaits uid e
  if u.runAhead.isSome then
    if ords.isEmpty then none else some (s.modUnit uid fun v => v.modAhead fun ra => { ra with stopped := BitVec.allOnes 64 })
  else
    let resets := u.resetLanes e.mask
    if !resets.isEmpty then some (s.takeReset uid e resets)
    else
      let stops := if (s.core u.core).comparators.vals.any Comparator.en then
          (lanesOf e.mask).filter fun l => (s.stopFor uid l).isSome
        else []
      if !stops.isEmpty then some (stops.foldl (fun t l => evBreakpointStop uid l t) s)
      else if ords.isEmpty then none
      else some (s.modUnit uid fun v => v.place (maskOf ords) e.pc e.prio (some .ord))

/-- A fault of a fetch: on every lane of the entry's mask; in run-ahead the lanes stop (R83, R248). -/
def State.fetchRaise (s : State) (uid : Nat) (e : Entry) (cause : Cause) (info : W64) (opc : Nat) : State :=
  if (s.unit uid).runAhead.isSome then s.modUnit uid fun v => v.stopAhead e.mask
  else s.raiseAll uid (lanesOf e.mask) e.pc cause info opc

/-- The requests of a unit's fetch path forgotten once its frontier has moved on. -/
def State.dropFetch (s : State) (uid : Nat) (old : List Entry) : State :=
  let u := s.unit uid
  if u.frontier == old then s
  else s.modCore u.core fun c => { c with far := c.far.keep fun _ f => f.unit != uid || f.lane != fetchLane }

/-- The state after an issue: no unit is selected, and what the fetch asked for is forgotten once the frontier has moved on. -/
def settled (uid : Nat) (old : List Entry) : Host.Outcome State Fault Refusal → Host.Outcome State Fault Refusal
  | .next t => .next ({ t with cur := none }.dropFetch uid old)
  | r => r

/-- The instruction at the PC of the selected entry fetched and issued. -/
def fetchIssue (uid : Nat) (e : Entry) (s : State) : Host.Outcome State Fault Refusal :=
  let u := s.unit uid
  match s.fetch uid e.pc with
  | .wait t => .next (t.pass u.core 1)
  | .miss page => .next (s.fetchFault uid e.mask page)
  | .fault c info opc => .next (s.fetchRaise uid e c info opc)
  | .pad t => settled uid u.frontier (exec .pad32 { t with cur := some uid })
  | .instr t i => settled uid u.frontier (exec i { t with cur := some uid })

/-- One unit lets its selected entry issue, where it may (R158). -/
def issueUnit (uid : Nat) (s : State) : Host.Outcome State Fault Refusal :=
  if !s.mayIssue uid then .next s
  else
    match (s.unit uid).pick with
    | none => .next s
    | some e =>
      match s.beforeIssue uid e with
      | some t => .next t
      | none => fetchIssue uid e s

/-! ### Moves -/

/-- A move of the schedule. An instruction is no event: units issue it. -/
def applyMove (m : Move) (s : State) : Host.Outcome State Fault Refusal :=
  match m with
  | .ev i => if i.issues || i == .pad32 then .next s else exec i s
  | .issue uid => issueUnit uid s
  | .tick core => .next (s.pass core 1)
  | .evict core addr => .next (s.evictByte core addr)
  | .kstore pa bytes => .next (evHostBar2Write pa bytes s)
  | .flit port => .next (sendNext port s)
  | .debug uid l w => .next (debugWrite uid l w s)

/-! ### What the device does by itself -/

/-- Events that may be due on one core. -/
def State.coreMoves (s : State) (core : Nat) : List Instr :=
  let c := s.core core
  let when_ (b : Bool) (i : Instr) : List Instr := if b then [i] else []
  (c.reqs.keys.map fun r => Instr.memoryResponse core r)
    ++ ((c.far.keep fun _ f => s.lost.contains f.pkg && !f.lost).keys.map fun r => .linkDownTimeout core r)
    ++ (c.ctx.copies.keys.flatMap fun o => [.copyCompletion core o, .copyDataFault core o, .aonVersionWait core o])
    ++ when_ (c.ctx.mops.any fun o => !o.accepted && o.turn) (.matrixAcceptance core)
    ++ ((c.ctx.mops.filter fun o => o.accepted).map fun o => .matrixOperationCompletion core o.id)
    ++ when_ c.mresetBusy (.matrixResetCompletion core)
    ++ when_ (!c.ctx.rgrow.isEmpty) (.rgrowGrant core) ++ when_ (!c.ctx.rgrow.isEmpty) (.rgrowDenial core)
    ++ when_ c.fill (.fillCompletion core) ++ when_ c.ready (.swap core) ++ when_ c.spill (.spillCompletion core)
    ++ when_ c.l1pend (.sramSplitChange core)
    ++ when_ (!c.coal.isEmpty) (.coalescerRecordClose core) ++ when_ (!c.coalClosed.isEmpty) (.faultRingWrite core)
    ++ when_ (!c.samples.isEmpty) (.sample core)
    ++ when_ (!c.glade.isEmpty || !c.conts.isEmpty || s.tasks.vals.any fun t => t.core == core && t.st == .parked)
      (.placement core)
    ++ when_ (s.corePart core != 0 && !(s.copseOf (core / 4)).isEmpty) (.blockMove 0 core 0)

/-- Events that may be due on one unit. -/
def State.unitMoves (s : State) (uid : Nat) : List Instr :=
  let u := s.unit uid
  let when_ (b : Bool) (i : Instr) : List Instr := if b then [i] else []
  when_ u.runAhead.isSome (.runAheadEnd uid) ++ (u.streams.keys.map fun k => .streamingOperationCompletion uid k)
    ++ when_ u.accFault.isSome (.accessStrandFault uid)
    ++ when_ ((s.core u.core).hangEn && u.waitsCycle) (.waitCycleReport uid)

/-- Events that may be due on one task. -/
def State.taskMoves (s : State) (n : Nat) (t : Task) : List Instr :=
  let when_ (b : Bool) (i : Instr) : List Instr := if b then [i] else []
  when_ (s.taskEnded n) (.taskCompletion n) ++ when_ (t.st == .done) (.childCompletion n)
    ++ when_ t.restoring (.spillRestore n) ++ when_ (t.st == .resident && t.awaitSince.isSome) (.park n)
    ++ when_ (t.st == .pending) (.inheritanceSpill n) ++ when_ (s.core t.core).hangEn (.hangReport n)

/-- Whether a steal would find a block (R132). -/
def State.stealable (s : State) (die part : Nat) : Bool :=
  [0, 1, 2, 3].any fun d => d != die && decide (16 ≤ (s.canopyOf d part).length)

/-- Events that may be due on one die for one partition. -/
def State.dieMoves (s : State) (die part : Nat) : List Instr :=
  let d := s.die die
  let when_ (b : Bool) (i : Instr) : List Instr := if b then [i] else []
  when_ (!(s.emittable die part).isEmpty) (.distributorEmit die part)
    ++ when_ (!(s.overflowOf die part).isEmpty) (.blockMove 2 die part)
    ++ (match (d.dry.get part).getD [] with
      | x :: _ => [.stealMessage x die part]
      | [] => [])
    ++ when_ (d.stolen.get part).isSome (.stealReply die 0 part)
    ++ when_ (s.stealable die part) (.runDry die part)

/-- Events that may be due on one partition. -/
def State.partMoves (s : State) (n : Nat) (p : Part) : List Instr :=
  (if p.tlbBusy then [.invalidateCompletion n] else []) ++ (s.partDies n).flatMap (State.dieMoves s · n)
    ++ ((p.clusters.filter fun c => !(s.canopyOf (c / 16) n).isEmpty).map fun c => .blockMove 1 c n)

/-- Events that may be due on the trace sink of one die. -/
def sinkMoves (n : Nat) (d : Die) : List Instr :=
  (if d.segments.any fun g => !g.closed then [.segmentClose n] else [])
    ++ if d.segments.any fun g => g.closed && !g.submitted then [.segmentSubmit n] else []

/-- What the device may have to do between issues, in the order in which it is tried. -/
def State.autoMoves (s : State) : List Instr :=
  ((s.lines.keep fun _ d => d.owner.isSome).keys.map fun n => Instr.engineLineRelease n)
    ++ s.cores.keys.flatMap s.coreMoves ++ (s.busyCores.flatMap s.residentUnits).flatMap s.unitMoves
    ++ (s.tasks.flatMap fun p => s.taskMoves p.1 p.2) ++ (s.parts.flatMap fun p => s.partMoves p.1 p.2)
    ++ (s.dies.flatMap fun p => sinkMoves p.1 p.2) ++ if s.migration.isSome then [.migrationCompletion] else []

/-- The first event of a list that changes the state, as it is seen through a function, done. -/
def firstEvent (view : State → State) (s : State) : List Instr → Option State
  | [] => none
  | i :: is =>
    match exec i s with
    | .next t => if t == s || view t == view s then firstEvent view s is else some t
    | _ => firstEvent view s is

/-- A state without the counts of `.aon` retries and without the home slices: an event that only reads a version again has brought
nothing on (R53, R402). -/
def State.noRetries (s : State) : State :=
  { s with cores := s.cores.mapVal fun _ c => { c with aonRetries := 0 }, slices := [] }

/-- The units of a core that have an entry to issue. -/
def State.ready (s : State) (core : Nat) : List Nat :=
  (s.residentUnits core).filter fun uid => s.mayIssue uid && (s.unit uid).pick.isSome

/-- Issues of the package after which a unit that has not issued goes first, so that every resident group eventually issues (R150). -/
def starveLimit : Nat := 256

/-- Whether a unit has waited that long. -/
def State.starved (s : State) (uid : Nat) : Bool := decide (starveLimit ≤ s.clock - (s.unit uid).lastIssue)

/-- The last issue of an engine of a core: of its lane groups, of its sequencer, or of its access contexts (R17, R155, R287). -/
def State.engineLast (s : State) (core : Nat) (k : UnitKind) : Nat :=
  ((s.residentUnits core).filter fun uid => (s.unit uid).kind == k).foldl (fun n uid => Nat.max n (s.unit uid).lastIssue) 0

/-- The order in which units of a core are chosen, smaller first: one that has waited long, the engine that issued least recently, then
by task priority, then by least recent issue (R150, R155, R287). -/
def State.issueKey (s : State) (uid : Nat) : List Nat :=
  let u := s.unit uid
  [if s.starved uid then 0 else 1, if s.starved uid then 0 else s.engineLast u.core u.kind,
   if s.starved uid then 0 else 3 - s.unitPrio uid, u.lastIssue]

/-- Lexicographic order of equally long lists of numbers. -/
def leKey : List Nat → List Nat → Bool
  | a :: as, b :: bs => decide (a < b) || (a == b && leKey as bs)
  | _, _ => true

/-- Whether a unit goes before another. -/
def State.unitBefore (s : State) (a b : Nat) : Bool := leKey (s.issueKey a) (s.issueKey b)

/-- A unit put in its place of the order of R150. -/
def State.insertUnit (s : State) (a : Nat) : List Nat → List Nat
  | [] => [a]
  | b :: bs => if s.unitBefore a b then a :: b :: bs else b :: s.insertUnit a bs

/-- Whether a unit has moved on. -/
def movedOn (uid : Nat) (s t : State) : Bool :=
  t.clock != s.clock || (t.unit uid).frontier != (s.unit uid).frontier || (t.unit uid).runAhead != (s.unit uid).runAhead
    || (t.unit uid).service != (s.unit uid).service

/-- The units of a list tried in order, until one moves on. -/
def tryUnits : List Nat → State → Host.Outcome State Fault Refusal
  | [], s => .next s
  | uid :: us, s =>
    match issueUnit uid s with
    | .next t => if movedOn uid s t then .next t else tryUnits us t
    | r => r

/-- The core of a list with the fewest cycles. -/
def State.earliest (s : State) : List Nat → Option Nat
  | [] => none
  | c :: cs => some (cs.foldl (fun a b => if (s.core b).cyc.ult (s.core a).cyc then b else a) c)

/-- A step where the schedule is empty: what waits between issues is looked at; then one event of the device, else the issue of one
unit of the core that is earliest, while a core that can issue nothing lets a cycle pass. Where nothing can issue, a cycle passes on
every core, and a load that waits for an even version tries again (R53) (DESIGN CHOICE, assumption log 8). -/
def autoStep (s : State) : Host.Outcome State Fault Refusal :=
  let s1 := s.refresh
  match firstEvent State.noRetries s1 s1.autoMoves with
  | some t => .next t
  | none =>
    let able := s1.busyCores.filter fun c => !(s1.ready c).isEmpty
    match s1.earliest able with
    | none => .next (s1.cores.keys.foldl (State.pass · · 1) ((firstEvent id s1 s1.autoMoves).getD s1))
    | some c =>
      let idle := s1.busyCores.filter fun k => !able.contains k
      let s2 := idle.foldl (State.pass · · 1) s1
      tryUnits ((s2.ready c).foldl (fun acc u => s2.insertUnit u acc) []) s2

/-- The next step: the first move of the schedule, or what the device does by itself. -/
def runStep (s : State) : Host.Outcome State Fault Refusal :=
  match s.schedule with
  | m :: ms => applyMove m { s with schedule := ms }
  | [] => autoStep s

/-! ### A word to run -/

/-- The kind of unit that may issue an opcode (R81, R82). -/
def kindFor (opc : Nat) : UnitKind := if 0xC0 ≤ opc && opc ≤ 0xCD then .acc else .group

/-- The gang role that may issue an opcode (R81). -/
def roleFor (opc : Nat) : Role :=
  if 0xE0 ≤ opc && opc ≤ 0xEE then .matrix else if 0xF0 ≤ opc && opc ≤ 0xF4 then .copy else .vector

/-- The PC at which a word to run is placed. -/
def wordPc : W64 := 0x1000#64

/-- A record that makes its task a gang, every other byte zero (R126, R127). -/
def gangRecord : List Byte := 0x10#8 :: List.replicate 255 0#8

/-- A translation of the first GiB to itself (R406, R409). -/
def wordTlb : TlbEntry := { asn := 1, size := 2, vpn := 0, pfn := 0, x := true, w := true, r := true }

/-- The unit that runs a word. -/
def wordUnit (task opc : Nat) : Unit :=
  let k := kindFor opc
  let width := if k == .group then 8 else 1
  { Unit.blank with
    kind := k
    task := task
    role := roleFor opc
    width := width
    lmask := maskOf (List.range width)
    regs := if k == .group then 192 else 0
    regmax := if k == .group then 192 else 0
    lanes := (List.range width).map fun l => (l, Lane.placed true 0 0)
    frontier := [{ pc := wordPc, prio := 1#2, mask := maskOf (List.range width), blk := none, cnt := 0, aged := false,
                   solo := false }] }

/-- The task that runs a word. -/
def wordTask (uid : Nat) : Task :=
  { Task.blank with part := 1, asn := 1, record := gangRecord, st := .resident, units := [uid], spadSize := 65536 }

/-- A state with one word placed to run next: partition 1 holds cluster 0 of die 0 and its first granule, one task of one unit is
resident on core 0, its PC names the word, and the schedule lets it issue (DESIGN CHOICE, assumption log 24). -/
def placeWord (s : State) (nbits w : Nat) : State :=
  let bytes := leBytes 16 (w % 2 ^ nbits)
  let opc := w / 2 ^ 6 % 256
  let task := s.nextId
  let uid := s.nextId + 1
  let s1 := (s.modDie 0 fun d => { d with homeMap := d.homeMap.set 0 0 }).setPart 1
    { Part.blank with clusters := [0], granules := [(0, 0)], vf := true }
  let s2 := s1.modCore 0 fun c =>
    { c with tlb := [wordTlb], inReset := false, ctx := { c.ctx with tasks := c.ctx.tasks ++ [task] } }
  let s3 := (s2.setTask task (wordTask uid)).setUnit uid (wordUnit task opc)
  { s3.homeWriteN wordPc.toNat bytes with nextId := s.nextId + 2, schedule := [.issue uid] }

end Sys2Proof.Machine
end

