-- ==== Sys2Proof/Machine/Step.lean ====
section
/-! DEFINITION. The step of the machine, and a word placed for it to run next. -/

namespace Sys2Proof.Machine

/-- One step: a move of the schedule, or what the device does by itself. -/
def step (s : State) : Host.Outcome State Fault Refusal := runStep s

/-- The state with an instruction's word placed where the next step fetches. -/
def State.withFetchWord (s : State) (nbits w : Nat) : State := placeWord s nbits w

end Sys2Proof.Machine
end

