-- ==== Sys2Proof/Safety.lean ====
section
/-! DEFINITION. What claims call a sound state, a safe step, an issue that goes ahead, what a register comes to hold, where a lane
stands, and what an instruction leaves alone. -/

namespace Sys2Proof.Machine

/-! ### Sound states -/

/-- Every memory of the package is in canonical form: DRAM, the host's memory, and each task's scratchpad. -/
def State.memoriesWf (s : State) : Bool :=
  Memory.wf s.mem && Memory.wf s.hostMem && s.tasks.vals.all fun t => Memory.wf t.spad

/-- The registers of a core hold only values that R18, R253 and R393 allow. -/
def Core.fieldsOk (c : Core) : Bool :=
  c.l1sz != 0b111#3 && c.l1next != 0b111#3 && decide (16 ≤ c.hangLim.toNat) && decide (10 ≤ nbits c.traceCtl.toNat 0 5)

/-- The residency registers of a partition hold only values that R23 allows. -/
def Part.fieldsOk (p : Part) : Bool := p.resid.vals.all fun r => decide (r.ways ≤ 12) && decide (r.sample ≤ 16)

/-- A step that neither faults nor is refused. -/
def Safe (o : Host.Outcome State Fault Refusal) : Prop := ∃ t, o = .next t

/-! ### An issue that goes ahead -/

/-- The state in which the selected unit's instruction is looked at: the results that are due have been written (R78). -/
def State.due (s : State) (uid : Nat) : State := s.modUnit uid Unit.retire

/-- The unit as its instruction finds it. -/
def State.dueUnit (s : State) (uid : Nat) : Unit := (s.due uid).unit uid

/-- Active of the selected entry (R7, R65). -/
def State.activeOf (s : State) (h : Hdr) (uid : Nat) (e : Entry) : LMask := (s.dueUnit uid).active h e.mask

/-- The issue in progress of the selected entry at an instruction. -/
def State.issueAt (s : State) (h : Hdr) (i : Instr) (uid : Nat) (e : Entry) : Issue := issueOf h i uid (s.dueUnit uid) e

/-- An issue that goes ahead: unit `uid` is selected and its selected entry `e` is at instruction `i`, outside run-ahead and no
stepped lane; the unit may issue `i` (R81 to R83), no variable-latency result that it names is outstanding (R76), and no
STALL_SHORT is due (R77). -/
structure Issues (s : State) (h : Hdr) (i : Instr) (uid : Nat) (e : Entry) : Prop where
  selected : s.cur = some uid
  picked : (s.dueUnit uid).pick = some e
  held : e.mask ≠ 0#64
  unstepped : e.solo = false
  settled : (s.dueUnit uid).runAhead = none
  legal : instrFault i (s.dueUnit uid) ((s.due uid).task (s.dueUnit uid).task).gang = none
  free : (s.dueUnit uid).interlocked i (s.activeOf h uid e) = false
  timely : (s.due uid).shortOf (s.dueUnit uid) i (s.activeOf h uid e) = none

/-! ### What a register comes to hold -/

/-- The unit once every result due by nominal count `n` has been written (R78). -/
def Unit.after (u : Unit) (n : Nat) : Unit := { u with nominal := n }.retire

/-- A register as lane `l` reads it at nominal count `n`: a vector register's lane zero-extended, or a scalar register. -/
def Unit.regAt (u : Unit) (n : Nat) (r : Reg) (l : Nat) : W64 := (u.after n).src64 r l

/-- A predicate in lane `l` at nominal count `n`. -/
def Unit.predAt (u : Unit) (n : Nat) (p : Pred) (l : Nat) : Bool := hasLane ((u.after n).p p) l

/-- The value that an instruction gives register `d` in lane `l` under mask `act`: its own lane's bits [31:0] in a vector register;
in a scalar one the value of the lowest lane of `act`; nothing where no lane writes (R72, R178). -/
def resultAt (d : Reg) (act : LMask) (f : Nat → W64) (l : Nat) : Option W64 :=
  if isVec d then (if hasLane act l then some (zx (lo32 (f l))) else none)
  else if act = 0#64 then none else some (f (lowest act))

/-- From `lat` issues after count `n0` on, `v` holds the results `f` in `d`; every other register, lane and predicate reads as in
`u` at every count, and so does `d` in the lanes that receive no result. -/
structure RegResult (u v : Unit) (lat : Nat) (d : Reg) (act : LMask) (f : Nat → W64) : Prop where
  result : ∀ n l r, u.nominal + lat ≤ n → l < 64 → resultAt d act f l = some r → v.regAt n d l = r
  kept : ∀ n l, l < 64 → resultAt d act f l = none → v.regAt n d l = u.regAt n d l
  others : ∀ n r l, l < 64 → r ≠ d → v.regAt n r l = u.regAt n r l
  preds : ∀ n p l, v.predAt n p l = u.predAt n p l

/-- From `lat` issues on, `v` holds the results `f` in predicate `p` for the lanes of `act`; `p7` keeps reading as 1 (R65); every
register, every other predicate and every other lane reads as in `u`. -/
structure PredResult (u v : Unit) (lat : Nat) (p : Pred) (act : LMask) (f : Nat → Bool) : Prop where
  result : ∀ n l, u.nominal + lat ≤ n → p ≠ 7#3 → hasLane act l = true → v.predAt n p l = f l
  seven : ∀ n l, l < 64 → v.predAt n 7#3 l = true
  kept : ∀ n q l, l < 64 → (q ≠ p ∨ hasLane act l = false) → v.predAt n q l = u.predAt n q l
  regs : ∀ n r l, v.regAt n r l = u.regAt n r l

/-- No register and no predicate of `v` differs from `u`'s at any count. -/
structure NoResult (u v : Unit) : Prop where
  preds : ∀ n p l, v.predAt n p l = u.predAt n p l
  regs : ∀ n r l, v.regAt n r l = u.regAt n r l

/-! ### Where lanes stand -/

/-- Lane `l` is in an entry with this PC, priority and blocked state. -/
def Unit.stands (u : Unit) (l : Nat) (pc : W64) (prio : BitVec 2) (blk : Option Wait) : Prop :=
  ∃ e, u.entryOf l = some e ∧ e.pc = pc ∧ e.prio = prio ∧ e.blk = blk

/-- Lanes outside a mask stand in `v` where they stood in `u`. -/
def Unit.othersStand (u v : Unit) (m : LMask) : Prop :=
  ∀ l pc prio blk, hasLane m l = false → u.stands l pc prio blk → v.stands l pc prio blk

/-- Every lane of an issue goes on after the instruction, and the other lanes stand where they stood (R157). -/
structure GoesOn (u v : Unit) (e : Entry) (len : Nat) : Prop where
  next : ∀ l, hasLane e.mask l = true → v.stands l (e.pc + BitVec.ofNat 64 len) e.prio none
  rest : u.othersStand v e.mask

/-- Every lane of Active goes to its target at a priority, the issue's other lanes go on after the instruction, and the other lanes
stand where they stood (R157, R205). -/
structure Branches (u v : Unit) (e : Entry) (act : LMask) (len : Nat) (bp : BitVec 2) (target : Nat → W64) : Prop where
  taken : ∀ l, hasLane act l = true → v.stands l (target l) bp none
  falls : ∀ l, hasLane e.mask l = true → hasLane act l = false → v.stands l (e.pc + BitVec.ofNat 64 len) e.prio none
  rest : u.othersStand v e.mask

/-! ### What is left alone -/

/-- A unit without its registers and what every issue counts: its frontier, its results in flight, its nominal count and the times of
its issues. Registers and predicates are compared as they read, by `regAt` and `predAt`. -/
def Unit.still (u : Unit) : Unit :=
  { u with
    vregs := [], sregs := [], preds := [], frontier := [], late := [], nominal := 0, lastIssue := 0, replays := 0,
    lastRelease := none }

/-- A unit without these and without the states of its lanes. -/
def Unit.apart (u : Unit) : Unit := { u.still with lanes := [] }

/-- A core without its cycle and issue counts. -/
def Core.still (c : Core) : Core := { c with cyc := 0#64, issues := 0 }

/-- A core without these and without the time of its last trace record and its coalescer. -/
def Core.quiet (c : Core) : Core := { c.still with lastTrace := 0#64, coal := [], coalClosed := [], coalWait := [] }

/-- A task without the time of its last action. -/
def Task.still (t : Task) : Task := { t with lastAct := 0#64, hungSent := false }

/-- A die without its trace records. -/
def Die.quiet (d : Die) : Die :=
  { d with
    seq := 0, segno := 0, segments := [], overwritten := 0, heart := [], heartHead := 0, heartWraps := 0 }

/-- Everything but units, cores and tasks, and the count of issues. -/
def State.shared (s : State) : State := { s with units := [], cores := [], tasks := [], clock := 0 }

/-- Everything but these and the dies. -/
def State.outer (s : State) : State := { s.shared with dies := [] }

/-- What an instruction whose effect lies in registers and in its frontier leaves alone: every byte of memory as any core reads it and
every byte of every scratchpad, every other unit, the unit's lanes and all else of it, each core but its counts, each task but its time,
and everything else of the package. -/
structure Leaves (s t : State) (uid : Nat) : Prop where
  bytes : ∀ core a, t.viewByte core a = s.viewByte core a
  spads : ∀ k a, Memory.read (t.task k).spad a = Memory.read (s.task k).spad a
  shared : t.shared = s.shared
  units : ∀ k, k ≠ uid → t.unit k = s.unit k
  unit : (t.unit uid).still = (s.unit uid).still
  cores : ∀ c, (t.core c).still = (s.core c).still
  tasks : ∀ k, (t.task k).still = (s.task k).still

/-- What an instruction that traps or records a trace leaves alone: all that `Leaves` names but the lanes `m` of its own unit, the core's
coalescer and the dies' trace records. -/
structure LeavesBut (m : LMask) (s t : State) (uid : Nat) : Prop where
  bytes : ∀ core a, t.viewByte core a = s.viewByte core a
  spads : ∀ k a, Memory.read (t.task k).spad a = Memory.read (s.task k).spad a
  outer : t.outer = s.outer
  dies : ∀ d, (t.die d).quiet = (s.die d).quiet
  units : ∀ k, k ≠ uid → t.unit k = s.unit k
  unit : (t.unit uid).apart = (s.unit uid).apart
  lanes : ∀ l, hasLane m l = false → (t.unit uid).lane l = (s.unit uid).lane l
  cores : ∀ c, (t.core c).quiet = (s.core c).quiet
  tasks : ∀ k, (t.task k).still = (s.task k).still

/-- Instruction `i` completes: whenever it issues, it gives register `d` the results `f` at latency `lat`, its lanes go on, and nothing
else changes. -/
def GivesReg (h : Hdr) (i : Instr) (lat : Unit → Nat) (d : Reg) (f : Unit → LMask → Nat → W64) : Prop :=
  ∀ s uid e, Issues s h i uid e → ∃ t, exec i s = .next t ∧
    RegResult (s.dueUnit uid) (t.unit uid) (lat (s.dueUnit uid)) d (s.activeOf h uid e)
      (f (s.dueUnit uid) (s.activeOf h uid e)) ∧
    GoesOn (s.dueUnit uid) (t.unit uid) e (lenBytes i.toRaw.len) ∧ Leaves (s.due uid) t uid

/-- Instruction `i` completes: whenever it issues, it gives predicate `p` the results `f` at latency `lat`, its lanes go on, and nothing
else changes. -/
def GivesPred (h : Hdr) (i : Instr) (lat : Nat) (p : Pred) (f : Unit → LMask → Nat → Bool) : Prop :=
  ∀ s uid e, Issues s h i uid e → ∃ t, exec i s = .next t ∧
    PredResult (s.dueUnit uid) (t.unit uid) lat p (s.activeOf h uid e) (f (s.dueUnit uid) (s.activeOf h uid e)) ∧
    GoesOn (s.dueUnit uid) (t.unit uid) e (lenBytes i.toRaw.len) ∧ Leaves (s.due uid) t uid

/-- Instruction `i` completes: whenever it issues, the lanes of Active go to their targets at priority `bp`, the others fall through, no
register or predicate changes, and nothing else does. -/
def TransfersTo (h : Hdr) (i : Instr) (bp : BitVec 2) (target : Unit → W64 → Nat → W64) : Prop :=
  ∀ s uid e, Issues s h i uid e → ∃ t, exec i s = .next t ∧
    Branches (s.dueUnit uid) (t.unit uid) e (s.activeOf h uid e) (lenBytes i.toRaw.len) bp (target (s.dueUnit uid) e.pc) ∧
    NoResult (s.dueUnit uid) (t.unit uid) ∧ Leaves (s.due uid) t uid

/-! ### Traps (R238) -/

/-- The trap vector of a unit's task (R126). -/
def State.vector (s : State) (uid : Nat) : W64 := recTrapvec (s.task (s.unit uid).task).record

/-- The priority of a lane: that of the entry that holds it (R157). -/
def Unit.prioOf (u : Unit) (l : Nat) : BitVec 2 := match u.entryOf l with
  | some e => e.prio
  | none => 1#2

/-- What TrapEntry does with lane `l` of `u`, giving `v`: the trap registers, the saved priority, the vector and priority 3; or, where the
lane is Trapped already or the task has no vector, its issue stops where it is (R238). -/
def TookTrap (u v : Unit) (vec : W64) (l : Nat) (pc : W64) (cause : Nat) (info : W64) : Prop :=
  if (u.lane l).trapped = true ∨ vec = 0#64 then v.lane l = u.lane l ∧ v.stands l pc (u.prioOf l) (some .escalated)
  else v.lane l = { u.lane l with
      trapped := true, tpc := pc, tcause := BitVec.ofNat 32 cause, tinfo := info, savedPrio := u.prioOf l,
      mtrap := decide (cause = 0x25) } ∧
    v.stands l vec 3#2 none

/-- A core's coalescer holds a record of an escalation: KIND 1, the cause, and the information, whose bits [15:0] are zero for causes 0x10
to 0x13 (R251). -/
def Core.recorded (c : Core) (cause : Nat) (info : W64) : Prop :=
  ∃ r, (r ∈ c.coal ∨ r ∈ c.coalClosed ∨ r ∈ c.coalWait) ∧ r.kind = 1 ∧ r.cause = cause ∧
    r.addr = (if 0x10 ≤ cause ∧ cause ≤ 0x13 then info &&& 0xFFFFFFFFFFFF0000#64 else info)

/-- Instruction `i` raises a fault on each lane of Active of a group or a sequencer: each takes the trap alone, the issue's other lanes go
on, no register or predicate changes, and nothing else does (R8, R238). -/
def RaisesOnActive (s : State) (h : Hdr) (i : Instr) (uid : Nat) (e : Entry) (cause : Nat) (info : Nat → W64) : Prop :=
  ∃ t, exec i s = .next t ∧
    (∀ l, hasLane (s.activeOf h uid e) l = true →
      TookTrap (s.dueUnit uid) (t.unit uid) ((s.due uid).vector uid) l e.pc cause (info l)) ∧
    (∀ l, hasLane e.mask l = true → hasLane (s.activeOf h uid e) l = false →
      (t.unit uid).stands l (e.pc + BitVec.ofNat 64 (lenBytes i.toRaw.len)) e.prio none) ∧
    (s.dueUnit uid).othersStand (t.unit uid) e.mask ∧ NoResult (s.dueUnit uid) (t.unit uid) ∧
    LeavesBut (s.activeOf h uid e) (s.due uid) t uid

/-! ### Values as the manual writes them (R72, R178, R181) -/

/-- Source A as a W-bit pattern. -/
def Unit.pat (u : Unit) (d a : Reg) (l : Nat) : Nat := u.src (if isVec d then 32 else 64) a l

/-- Source B as a W-bit pattern. -/
def Unit.patB (u : Unit) (d : Reg) (b : SrcB) (l : Nat) : Nat := u.srcB (if isVec d then 32 else 64) b l

/-- W of an operation that writes `d`. -/
def wOf (d : Reg) : Nat := if isVec d then 32 else 64

/-- `Val` of a W-bit pattern: its signed value, or under `.z` its unsigned value. -/
def valW (w : Nat) (z : Bool) (x : Nat) : Int := if z || decide (x < 2 ^ (w - 1)) then x else (x : Int) - 2 ^ w

/-- `Clamp` under `.sat`, else the value itself. -/
def clampW (w : Nat) (z sat : Bool) (v : Int) : Int :=
  if !sat then v
  else if z then (if v < 0 then 0 else if 2 ^ w - 1 < v then 2 ^ w - 1 else v)
  else if v < -(2 ^ (w - 1)) then -(2 ^ (w - 1)) else if 2 ^ (w - 1) - 1 < v then 2 ^ (w - 1) - 1 else v

/-- The W-bit pattern of an integer. -/
def wrapW (w : Nat) (v : Int) : W64 := BitVec.ofInt 64 (v % 2 ^ w)

end Sys2Proof.Machine
end

