-- ==== Sys2Proof/Certificates/Slice0/Obligations.lean ====
section
/-! DEFINITION. The statements for the provers: what each instruction and each event of the CX4 completes with, and what the machine as a
whole keeps. A statement over several forms is the conjunction of named parts, `Claim.<Name>`. -/

open Sys2Proof Sys2Proof.Machine

/-- ADD, SUB, MUL, MULH, MAD, LEA, MIN, MAX, ABS, NEG and SAT complete with the values of the tables of R183 and R184. -/
def Obligations.IntegerArithmeticResults : Prop :=
  (∀ h z sat d a b, GivesReg h (.add h z sat d a b) (fun _ => 4) d fun u _ l =>
    wrapW (wOf d) (clampW (wOf d) z sat (valW (wOf d) z (u.pat d a l) + valW (wOf d) z (u.patB d b l)))) ∧
  (∀ h z sat d a b, GivesReg h (.sub h z sat d a b) (fun _ => 4) d fun u _ l =>
    wrapW (wOf d) (clampW (wOf d) z sat (valW (wOf d) z (u.pat d a l) - valW (wOf d) z (u.patB d b l)))) ∧
  (∀ h z sat d a b, GivesReg h (.mul h z sat d a b) (fun _ => 6) d fun u _ l =>
    wrapW (wOf d) (clampW (wOf d) z sat (valW (wOf d) z (u.pat d a l) * valW (wOf d) z (u.patB d b l)))) ∧
  (∀ h z d a b, GivesReg h (.mulh h z d a b) (fun _ => 6) d fun u _ l =>
    wrapW (wOf d) (valW (wOf d) z (u.pat d a l) * valW (wOf d) z (u.patB d b l) / 2 ^ wOf d)) ∧
  (∀ h z sat d a b c, GivesReg h (.mad h z sat d a b c) (fun _ => 6) d fun u _ l =>
    wrapW (wOf d) (clampW (wOf d) z sat
      (valW (wOf d) z (u.pat d a l) * valW (wOf d) z (u.pat d b l) + valW (wOf d) z (u.pat d c l)))) ∧
  (∀ h d a b n, GivesReg h (.lea h d a b n) (fun _ => 4) d fun u _ l =>
    wrapW (wOf d) (u.pat d a l + u.pat d b l * 2 ^ n.toNat)) ∧
  (∀ h z d a b, GivesReg h (.min h z d a b) (fun _ => 4) d fun u _ l =>
    wrapW (wOf d) (min (valW (wOf d) z (u.pat d a l)) (valW (wOf d) z (u.patB d b l)))) ∧
  (∀ h z d a b, GivesReg h (.max h z d a b) (fun _ => 4) d fun u _ l =>
    wrapW (wOf d) (max (valW (wOf d) z (u.pat d a l)) (valW (wOf d) z (u.patB d b l)))) ∧
  (∀ h sat d a, GivesReg h (.abs h sat d a) (fun _ => 4) d fun u _ l =>
    wrapW (wOf d) (clampW (wOf d) false sat |valW (wOf d) false (u.pat d a l)|)) ∧
  (∀ h sat d a, GivesReg h (.neg h sat d a) (fun _ => 4) d fun u _ l =>
    wrapW (wOf d) (clampW (wOf d) false sat (-valW (wOf d) false (u.pat d a l)))) ∧
  (∀ h z d a n, GivesReg h (.sat h z d a n) (fun _ => 4) d fun u _ l =>
    wrapW (wOf d) (clampW n.toNat z true (valW (wOf d) false (u.pat d a l))))

/-- NOP, MOV, MOVI and MOVI.hi complete with the effects of the table of R182. -/
def Claim.MoveResults : Prop :=
  (∀ h s uid e, Issues s h (.nop h) uid e → ∃ t, exec (.nop h) s = .next t ∧ NoResult (s.dueUnit uid) (t.unit uid) ∧
    GoesOn (s.dueUnit uid) (t.unit uid) e 8 ∧ Leaves (s.due uid) t uid ∧
    (t.unit uid).nominal = (s.dueUnit uid).nominal + 1 + h.stall.toNat) ∧
  (∀ h d a, GivesReg h (.mov h d a) (fun _ => 4) d fun u _ l => BitVec.ofNat 64 (u.pat d a l)) ∧
  (∀ h z d imm, GivesReg h (.movi h z d imm) (fun _ => 4) d fun _ _ _ =>
    if z || isVec d then imm.setWidth 64 else imm.signExtend 64) ∧
  (∀ h d imm, GivesReg h (.moviHi h d imm) (fun _ => 4) d fun u _ l => imm ++ lo32 (u.src64 d l))

/-- AND, OR, XOR, ANDN, NOT, SHL, SHR, SHA and ROT complete with the results of the table of R185. -/
def Claim.LogicShiftResults : Prop :=
  (∀ h d a b, GivesReg h (.and h d a b) (fun _ => 4) d fun u _ l => BitVec.ofNat 64 (u.pat d a l) &&& BitVec.ofNat 64 (u.patB d b l)) ∧
  (∀ h d a b, GivesReg h (.or h d a b) (fun _ => 4) d fun u _ l => BitVec.ofNat 64 (u.pat d a l) ||| BitVec.ofNat 64 (u.patB d b l)) ∧
  (∀ h d a b, GivesReg h (.xor h d a b) (fun _ => 4) d fun u _ l => BitVec.ofNat 64 (u.pat d a l) ^^^ BitVec.ofNat 64 (u.patB d b l)) ∧
  (∀ h d a b, GivesReg h (.andn h d a b) (fun _ => 4) d fun u _ l =>
    BitVec.ofNat 64 (u.pat d a l) &&& ~~~BitVec.ofNat 64 (u.patB d b l)) ∧
  (∀ h d a, GivesReg h (.not h d a) (fun _ => 4) d fun u _ l => ~~~BitVec.ofNat 64 (u.pat d a l)) ∧
  (∀ h d a b, GivesReg h (.shl h d a b) (fun _ => 4) d fun u _ l =>
    if wOf d ≤ u.patB d b l % 256 then 0#64 else BitVec.ofNat 64 (u.pat d a l) <<< (u.patB d b l % 256)) ∧
  (∀ h d a b, GivesReg h (.shr h d a b) (fun _ => 4) d fun u _ l =>
    if wOf d ≤ u.patB d b l % 256 then 0#64 else BitVec.ofNat 64 (u.pat d a l) >>> (u.patB d b l % 256)) ∧
  (∀ h d a b, GivesReg h (.sha h d a b) (fun _ => 4) d fun u _ l =>
    wrapW (wOf d) (if wOf d ≤ u.patB d b l % 256 then (if 2 ^ (wOf d - 1) ≤ u.pat d a l then -1 else 0)
      else valW (wOf d) false (u.pat d a l) / 2 ^ (u.patB d b l % 256))) ∧
  (∀ h d a b, GivesReg h (.rot h d a b) (fun _ => 4) d fun u _ l =>
    if isVec d then ((BitVec.ofNat 32 (u.pat d a l)).rotateLeft (u.patB d b l % 256 % 32)).setWidth 64
    else (BitVec.ofNat 64 (u.pat d a l)).rotateLeft (u.patB d b l % 256 % 64))

/-- NOP, MOV, MOVI, MOVI.hi, AND, OR, XOR, ANDN, NOT, SHL, SHR, SHA and ROT complete with their effects (R182, R185). -/
def Obligations.MoveAndLogicResults : Prop := Claim.MoveResults ∧ Claim.LogicShiftResults

/-- BFX, BFI and BYTX complete with the results of R187 and R188. -/
def Obligations.FieldResults : Prop :=
  (∀ h z d a b, GivesReg h (.bfx h z d a b) (fun _ => 4) d fun u _ l =>
    let w := wOf d
    let p := min (u.pat d b l % 256) w
    let n := min (u.pat d b l / 256 % 256) (w - p)
    let v := u.pat d a l / 2 ^ p % 2 ^ n
    if n = 0 then 0#64 else wrapW w (valW n z v)) ∧
  (∀ h d a b c s uid e, Issues s h (.bfi h d a b c) uid e → ∃ t f, exec (.bfi h d a b c) s = .next t ∧
    RegResult (s.dueUnit uid) (t.unit uid) 4 d (s.activeOf h uid e) f ∧
    (∀ l i, i < wOf d →
      let u := s.dueUnit uid
      let p := min (u.pat d c l % 256) (wOf d)
      let n := min (u.pat d c l / 256 % 256) (wOf d - p)
      (f l).getLsbD i = if p ≤ i ∧ i < p + n then (u.pat d a l).testBit (i - p) else (u.pat d b l).testBit i) ∧
    GoesOn (s.dueUnit uid) (t.unit uid) e 8 ∧ Leaves (s.due uid) t uid) ∧
  (∀ h d a b c s uid e, Issues s h (.bytx h d a b c) uid e → ∃ t f, exec (.bytx h d a b c) s = .next t ∧
    RegResult (s.dueUnit uid) (t.unit uid) 4 d (s.activeOf h uid e) f ∧
    (∀ l k, k < 4 →
      let u := s.dueUnit uid
      let pool := valBytes 4 (u.src 32 a l) ++ valBytes 4 (u.src 32 b l) ++ [0x00#8, 0xFF#8]
      let ctl := u.src 32 c l / 2 ^ (8 * k) % 256
      let x := pool.getD (ctl % 16) 0#8
      (f l).extractLsb' (8 * k) 8 = match ctl / 16 % 4 with
        | 0 => x
        | 1 => if x.getLsbD 7 then 0xFF#8 else 0x00#8
        | 2 => x.reverse
        | _ => ~~~x) ∧
    (∀ l, (f l).extractLsb' 32 32 = 0#32) ∧
    GoesOn (s.dueUnit uid) (t.unit uid) e 8 ∧ Leaves (s.due uid) t uid)

/-- CMP and PSET complete with the predicates of R190 and R191. -/
def Obligations.PredicateResults : Prop :=
  (∀ h c z p a b, GivesPred h (.cmp h c z p a b) 4 p fun u _ l =>
    let w := if isVec a || srcBVec b then 32 else 64
    let x := valW w z (u.src w a l)
    let y := valW w z (u.srcB w b l)
    match c with
    | .eq => decide (x = y)
    | .ne => decide (x ≠ y)
    | .lt => decide (x < y)
    | .le => decide (x ≤ y)
    | .gt => decide (y < x)
    | .ge => decide (y ≤ x)) ∧
  (∀ h p op a b, GivesPred h (.pset h p (.bin op a b)) 4 p fun u _ l =>
    let x := (u.p a).getLsbD l
    let y := (u.p b).getLsbD l
    match op with
    | .and => x && y
    | .or => x || y
    | .xor => x != y
    | .andn => x && !y) ∧
  (∀ h p a, GivesPred h (.pset h p (.mask a)) 4 p fun u _ l => (u.src64 a 0).getLsbD l)

/-! ### Instructions whose rules are stated whole -/

/-- Bits of the base word of the instruction that stands first in some bytes (R64). -/
def Claim.wordBits (bs : List Byte) (lo n : Nat) : Nat := bytesVal (bs.take 8) / 2 ^ lo % 2 ^ n

/-- CLZ, POPC and BREV complete with the results of the table of R186: the zero bits above the highest set bit, the set bits, the bits in reverse; a word
that decodes to one of them has its OPC, is 64 bits long, and has SB, SC and MOD zero. -/
def Obligations.BitCountResults : Prop :=
  (∀ h d a, GivesReg h (.clz h d a) (fun _ => 4) d fun u _ l =>
    BitVec.ofNat 64 ((List.range (wOf d)).countP fun i => (List.range (wOf d)).all fun j => decide (j < i) || !(u.pat d a l).testBit j)) ∧
  (∀ h d a, GivesReg h (.popc h d a) (fun _ => 4) d fun u _ l =>
    BitVec.ofNat 64 ((List.range (wOf d)).countP fun i => (u.pat d a l).testBit i)) ∧
  (∀ h d a s uid e, Issues s h (.brev h d a) uid e → ∃ t f, exec (.brev h d a) s = .next t ∧
    RegResult (s.dueUnit uid) (t.unit uid) 4 d (s.activeOf h uid e) f ∧
    (∀ l i, i < wOf d → (f l).getLsbD i = ((s.dueUnit uid).pat d a l).testBit (wOf d - 1 - i)) ∧
    GoesOn (s.dueUnit uid) (t.unit uid) e 8 ∧ Leaves (s.due uid) t uid) ∧
  (∀ bs i n, decode bs = .ok (i, n) →
    let opc : Nat := Claim.wordBits bs 6 8
    ((∃ h d a, i = .clz h d a) ↔ opc = 0x19) ∧ ((∃ h d a, i = .popc h d a) ↔ opc = 0x1A) ∧ ((∃ h d a, i = .brev h d a) ↔ opc = 0x1B) ∧
      (0x19 ≤ opc ∧ opc ≤ 0x1B →
        n = 8 ∧ Claim.wordBits bs 34 8 = 0 ∧ Claim.wordBits bs 42 8 = 0 ∧ Claim.wordBits bs 52 12 = 0))

/-- SEL completes, writing source A to the lanes whose bit of predicate N is 1 and source B to the others, and in a scalar operation by the bit of the
lowest lane of Active; a word that decodes to it has OPC 0x1F, is 64 bits long, holds N in SC and has MOD zero, and no unit may issue it with SC[7:3]
not zero (R189). -/
def Obligations.SelectResults : Prop :=
  (∀ h d a b n, GivesReg h (.sel h d a b n) (fun _ => 4) d fun u act l =>
    BitVec.ofNat 64 (if hasLane (u.p (n.extractLsb' 0 3)) (if isVec d then l else lowest act) then u.pat d a l else u.pat d b l)) ∧
  (∀ bs i k, decode bs = .ok (i, k) →
    ((∃ h d a b n, i = .sel h d a b n) ↔ Claim.wordBits bs 6 8 = 0x1F) ∧
      ∀ h d a b n, i = .sel h d a b n → k = 8 ∧ n.toNat = Claim.wordBits bs 42 8 ∧ Claim.wordBits bs 52 12 = 0 ∧
        Reg.ofCode (BitVec.ofNat 8 (Claim.wordBits bs 26 8)) = a ∧ Reg.ofCode (BitVec.ofNat 8 (Claim.wordBits bs 34 8)) = b ∧
        Reg.ofCode (BitVec.ofNat 8 (Claim.wordBits bs 18 8)) = d) ∧
  (∀ h d a b (n : BitVec 8) (u : Machine.Unit) gang, n.extractLsb' 3 5 ≠ 0#5 → (instrFault (.sel h d a b n) u gang).isSome)

/-- VOTE completes in its four modes over the lanes of Active, and with none it has no effect. A word that decodes to it has OPC 0x23, is 64 bits long,
names pA in SA and the mode in MOD[1:0], and has SB and SC zero; a MOD[11:2] that is not zero is refused with WHY 0x07, and on a group a destination of
the wrong class with WHY 0x08 (R193). -/
def Obligations.VoteResults : Prop :=
  (∀ h d n, GivesReg h (.vote h .ballot d n) (fun _ => 8) (Reg.ofCode d) fun u act _ => u.p (n.extractLsb' 0 3) &&& act) ∧
  (∀ h d n, GivesPred h (.vote h .any d n) 8 (d.extractLsb' 0 3) fun u act _ =>
    (lanesOf act).any fun k => (u.p (n.extractLsb' 0 3)).getLsbD k) ∧
  (∀ h d n, GivesPred h (.vote h .all d n) 8 (d.extractLsb' 0 3) fun u act _ =>
    (lanesOf act).all fun k => (u.p (n.extractLsb' 0 3)).getLsbD k) ∧
  (∀ h d n, GivesPred h (.vote h .eq d n) 8 (d.extractLsb' 0 3) fun u act _ =>
    (lanesOf act).all fun k => (lanesOf act).all fun j =>
      (u.p (n.extractLsb' 0 3)).getLsbD k == (u.p (n.extractLsb' 0 3)).getLsbD j) ∧
  (∀ bs i k, decode bs = .ok (i, k) →
    ((∃ h m d n, i = .vote h m d n) ↔ Claim.wordBits bs 6 8 = 0x23) ∧
      ∀ h m d n, i = .vote h m d n → k = 8 ∧ d.toNat = Claim.wordBits bs 18 8 ∧ n.toNat = Claim.wordBits bs 26 8 ∧
        Claim.wordBits bs 34 8 = 0 ∧ Claim.wordBits bs 42 8 = 0 ∧ Claim.wordBits bs 52 12 = match m with
          | .ballot => 0
          | .any => 1
          | .all => 2
          | .eq => 3) ∧
  (∀ bs, 8 ≤ bs.length → Claim.wordBits bs 0 2 = 0 → Claim.wordBits bs 6 8 = 0x23 → Claim.wordBits bs 14 4 ≠ 15 →
    Claim.wordBits bs 50 2 = 0 → Claim.wordBits bs 54 10 ≠ 0 → ∃ bit, decode bs = .error (.illegal { why := 0x07, bit := bit })) ∧
  (∀ h m (d n : BitVec 8) (u : Machine.Unit) gang, h.wf = true → u.kind = .group →
    (if m = .ballot then d.toNat < 192 else 8 ≤ d.toNat) →
    ∃ info, instrFault (.vote h m d n) u gang = some (0x01, info) ∧ info.extractLsb' 0 8 = 0x08#8)

/-- QPOP, QPUSH and QSTA on a queue that the task did not declare, or whose entry width is not the group's, raise QUEUE_MISUSE on every lane of
Active, with the queue number and the reason, and change nothing else (R231). -/
def Claim.QueueMisuse : Prop :=
  ∀ s h uid e (q : QueueN) i,
    (∃ d tag, i = Instr.qpop h d q tag) ∨ (∃ fin a tag, i = Instr.qpush h fin a q tag) ∨ (∃ d, i = Instr.qsta h d q) → Issues s h i uid e →
    (s.dueUnit uid).kind ≠ .acc → s.activeOf h uid e ≠ 0#64 →
    let u : Machine.Unit := s.dueUnit uid
    let k : Task := s.task u.task
    (k.queues.get q.toNat = none → RaisesOnActive s h i uid e 0x33 fun _ => 1#16 ++ 0#45 ++ q) ∧
    ((k.queues.get q.toNat).isSome → k.wq ≠ u.width → RaisesOnActive s h i uid e 0x33 fun _ => 2#16 ++ 0#45 ++ q)

/-- An FP32 pattern that is a NaN: exponent field all ones and a fraction that is not zero. -/
def Claim.isNan (x : W32) : Bool := x.extractLsb' 23 8 == 0xFF#8 && x.extractLsb' 0 23 != 0#23

/-- The rank of an FP32 pattern that is not a NaN, −0 just below +0. -/
def Claim.rank (x : W32) : Int := if x.getLsbD 31 then -((x.extractLsb' 0 31).toNat : Int) - 1 else (x.extractLsb' 0 31).toNat

/-- The rank with −0 equal to +0. -/
def Claim.rank0 (x : W32) : Int := if x.getLsbD 31 then -((x.extractLsb' 0 31).toNat : Int) else (x.extractLsb' 0 31).toNat

/-- FADD, FSUB, FMUL, FFMA, FDIV, FRCP, FSQRT, FRSQ, FRND and FSCL complete with the exact result rounded once (R195, R196). -/
def Obligations.RoundedFloatResults : Prop :=
  (∀ h rm d a b, GivesReg h (.fadd h rm d a b) (fun _ => 6) d fun u _ l =>
    (round32 rm ((num32 (u.src32 a l)).add rm (num32 (u.srcB32 b l)))).setWidth 64) ∧
  (∀ h rm d a b, GivesReg h (.fsub h rm d a b) (fun _ => 6) d fun u _ l =>
    (round32 rm ((num32 (u.src32 a l)).add rm (num32 (u.srcB32 b l)).neg)).setWidth 64) ∧
  (∀ h rm d a b, GivesReg h (.fmul h rm d a b) (fun _ => 6) d fun u _ l =>
    (round32 rm ((num32 (u.src32 a l)).mul (num32 (u.srcB32 b l)))).setWidth 64) ∧
  (∀ h rm d a b c, GivesReg h (.ffma h rm d a b c) (fun _ => 6) d fun u _ l =>
    (round32 rm (((num32 (u.src32 a l)).mul (num32 (u.src32 b l))).add rm (num32 (u.src32 c l)))).setWidth 64) ∧
  (∀ h rm d a b, GivesReg h (.fdiv h rm d a b) (fun _ => 18) d fun u _ l =>
    (round32 rm ((num32 (u.src32 a l)).div (num32 (u.srcB32 b l)))).setWidth 64) ∧
  (∀ h rm d a, GivesReg h (.frcp h rm d a) (fun _ => 18) d fun u _ l =>
    (round32 rm ((Machine.Num.ofInt 1).div (num32 (u.src32 a l)))).setWidth 64) ∧
  (∀ h rm d a, GivesReg h (.fsqrt h rm d a) (fun _ => 18) d fun u _ l => (round32 rm (num32 (u.src32 a l)).sqrt).setWidth 64) ∧
  (∀ h rm d a, GivesReg h (.frsq h rm d a) (fun _ => 18) d fun u _ l => (round32 rm (num32 (u.src32 a l)).rsqrt).setWidth 64) ∧
  (∀ h rm d a, GivesReg h (.frnd h rm d a) (fun _ => 6) d fun u _ l =>
    (round32 rm ((num32 (u.src32 a l)).integral rm)).setWidth 64) ∧
  (∀ h rm d a b, GivesReg h (.fscl h rm d a b) (fun _ => 6) d fun u _ l =>
    (round32 rm ((num32 (u.src32 a l)).scale (u.srcB32 b l).toInt)).setWidth 64)

/-- FMIN and FMAX give the lesser or greater operand, −0 below +0; the other operand where one is a NaN; 0x7FC0_0000 where both are
(R197). -/
def Claim.FloatMinMax : Prop :=
  (∀ h d a b, GivesReg h (.fmin h d a b) (fun _ => 6) d fun u _ l =>
    let x := u.src32 a l
    let y := u.srcB32 b l
    (if Claim.isNan x && Claim.isNan y then 0x7FC00000#32
      else if Claim.isNan x then y
      else if Claim.isNan y then x
      else if Claim.rank x ≤ Claim.rank y then x else y).setWidth 64) ∧
  (∀ h d a b, GivesReg h (.fmax h d a b) (fun _ => 6) d fun u _ l =>
    let x := u.src32 a l
    let y := u.srcB32 b l
    (if Claim.isNan x && Claim.isNan y then 0x7FC00000#32
      else if Claim.isNan x then y
      else if Claim.isNan y then x
      else if Claim.rank y ≤ Claim.rank x then x else y).setWidth 64)

/-- FCMP and FCLS complete with the predicates of R198 and R199. -/
def Claim.FloatPredicates : Prop :=
  (∀ h c p a b, GivesPred h (.fcmp h c p a b) 6 p fun u _ l =>
    let x := u.src32 a l
    let y := u.srcB32 b l
    let nan := Claim.isNan x || Claim.isNan y
    match c with
    | .eq => !nan && decide (Claim.rank0 x = Claim.rank0 y)
    | .ne => nan || decide (Claim.rank0 x ≠ Claim.rank0 y)
    | .lt => !nan && decide (Claim.rank0 x < Claim.rank0 y)
    | .le => !nan && decide (Claim.rank0 x ≤ Claim.rank0 y)
    | .gt => !nan && decide (Claim.rank0 y < Claim.rank0 x)
    | .ge => !nan && decide (Claim.rank0 y ≤ Claim.rank0 x)
    | .num => !nan
    | .nan => nan) ∧
  (∀ h p a m, GivesPred h (.fcls h p a m) 6 p fun u _ l =>
    let x := u.src32 a l
    let ex := x.extractLsb' 23 8
    let fr := x.extractLsb' 0 23
    if ex = 0xFF#8 ∧ fr ≠ 0#23 then m.getLsbD 0
    else if ex = 0xFF#8 then (if x.getLsbD 31 then m.getLsbD 1 else m.getLsbD 7)
    else if ex = 0#8 ∧ fr = 0#23 then m.getLsbD 4
    else if ex = 0#8 then (if x.getLsbD 31 then m.getLsbD 3 else m.getLsbD 5)
    else if x.getLsbD 31 then m.getLsbD 2 else m.getLsbD 6)

/-- FMIN, FMAX, FCMP and FCLS complete with their results (R197 to R199). -/
def Obligations.FloatComparisons : Prop := Claim.FloatMinMax ∧ Claim.FloatPredicates

/-- FEXP2 and FLOG2 complete at latency 18 with the bits of the evaluations of R100 and R101. -/
def Obligations.ExpLogResults : Prop :=
  (∀ h d a, GivesReg h (.fexp2 h d a) (fun _ => 18) d fun u _ l => (fexp2 (u.src32 a l)).setWidth 64) ∧
  (∀ h d a, GivesReg h (.flog2 h d a) (fun _ => 18) d fun u _ l => (flog2 (u.src32 a l)).setWidth 64) ∧
  (∀ h d a, (Instr.fexp2 h d a).toRaw.len = 0b00#2 ∧ (Instr.flog2 h d a).toRaw.len = 0b00#2)

/-- The low half and the high half of source b of a packed instruction (R201). -/
def Claim.halves (bs : BSrc) (b : W32) : BitVec 16 × BitVec 16 :=
  let lo := b.extractLsb' 0 16
  let hi := b.extractLsb' 16 16
  match bs with
  | .none => (lo, hi)
  | .bswap => (hi, lo)
  | .blo => (lo, lo)
  | .bhi => (hi, hi)
  | .bneg => (lo ^^^ 0x8000#16, hi ^^^ 0x8000#16)

/-- A packed instruction: each half computed alone, rounded once to its format (R96, R201). -/
def Claim.packed (f : Fmt) (rm : Rm) (bs : BSrc) (op : Machine.Num → Machine.Num → Machine.Num → Machine.Num) (a b c : W32) : W64 :=
  let half (x y z : BitVec 16) : BitVec 16 :=
    BitVec.ofNat 16 (f.round rm (op (f.decode x.toNat) (f.decode y.toNat) (f.decode z.toNat)))
  ((half (a.extractLsb' 16 16) (Claim.halves bs b).2 (c.extractLsb' 16 16)) ++
    (half (a.extractLsb' 0 16) (Claim.halves bs b).1 (c.extractLsb' 0 16))).setWidth 64

/-- HXADD, HXMUL, HXFMA, BXADD, BXMUL and BXFMA complete with each half computed and rounded by itself (R96, R201). -/
def Claim.PackedResults : Prop :=
  (∀ h rm bs d a b, GivesReg h (.hxadd h rm bs d a b) (fun _ => 6) d fun u _ l =>
    Claim.packed fp16 rm bs (fun (x y _ : Machine.Num) => x.add rm y) (u.src32 a l) (u.src32 b l) (u.src32 b l)) ∧
  (∀ h rm bs d a b, GivesReg h (.hxmul h rm bs d a b) (fun _ => 6) d fun u _ l =>
    Claim.packed fp16 rm bs (fun (x y _ : Machine.Num) => x.mul y) (u.src32 a l) (u.src32 b l) (u.src32 b l)) ∧
  (∀ h rm bs d a b c, GivesReg h (.hxfma h rm bs d a b c) (fun _ => 6) d fun u _ l =>
    Claim.packed fp16 rm bs (fun (x y z : Machine.Num) => (x.mul y).add rm z) (u.src32 a l) (u.src32 b l) (u.src32 c l)) ∧
  (∀ h rm bs d a b, GivesReg h (.bxadd h rm bs d a b) (fun _ => 6) d fun u _ l =>
    Claim.packed bf16 rm bs (fun (x y _ : Machine.Num) => x.add rm y) (u.src32 a l) (u.src32 b l) (u.src32 b l)) ∧
  (∀ h rm bs d a b, GivesReg h (.bxmul h rm bs d a b) (fun _ => 6) d fun u _ l =>
    Claim.packed bf16 rm bs (fun (x y _ : Machine.Num) => x.mul y) (u.src32 a l) (u.src32 b l) (u.src32 b l)) ∧
  (∀ h rm bs d a b c, GivesReg h (.bxfma h rm bs d a b c) (fun _ => 6) d fun u _ l =>
    Claim.packed bf16 rm bs (fun (x y z : Machine.Num) => (x.mul y).add rm z) (u.src32 a l) (u.src32 b l) (u.src32 c l))

/-- CVT, PACK and UNPK complete with the conversions of R97, R98 and R202 to R204. -/
def Claim.ConversionResults : Prop :=
  (∀ h dt st rm sat ov d a, GivesReg h (.cvt h dt st rm sat ov d a) (fun _ => 6) d fun u _ l =>
    (convert dt st rm sat ov (u.src32 a l).toNat).setWidth 64) ∧
  (∀ h ty rm sat ov hi d a b c, GivesReg h (.pack h ty rm sat ov hi d a b c) (fun _ => 6) d fun u _ l =>
    (packResult ty rm sat ov hi (u.src32 a l) (u.src32 b l) (u.src32 c l)).setWidth 64) ∧
  (∀ h ty d a k, GivesReg h (.unpk h ty d a k) (fun _ => 6) d fun u _ l =>
    match ty with
    | .s8 => (unpkResult ty (u.src32 a l) k.toNat).signExtend 64
    | .s4 => (unpkResult ty (u.src32 a l) k.toNat).signExtend 64
    | _ => (unpkResult ty (u.src32 a l) k.toNat).setWidth 64)

/-- The packed instructions and CVT, PACK and UNPK complete with their results (R201 to R204). -/
def Obligations.PackedAndConversionResults : Prop := Claim.PackedResults ∧ Claim.ConversionResults

/-- SHFL, RDUC and SCAN complete with the values of R192 and R194, by the trees of R109 and R110. -/
def Claim.CrossLaneValues : Prop :=
  (∀ h m d a b, GivesReg h (.shfl h m d a b) (fun _ => 8) d fun u act l =>
    let k := (u.srcB32 b l).toNat
    let j : Int := match m with
      | .idx => k
      | .up => (l : Int) - k
      | .down => (l : Int) + k
      | .xor => (l ^^^ k : Nat)
    (if 0 ≤ j ∧ j < u.width ∧ hasLane act j.toNat = true then u.src32 a j.toNat else u.src32 a l).setWidth 64) ∧
  (∀ h op rm z d a, GivesReg h (.rduc h op rm z d a) (fun u => 2 * log2w u.width + 4) d fun u act _ =>
    match op with
    | .fadd => (reduceMask u op rm z a act).setWidth 64
    | .fmin => (reduceMask u op rm z a act).setWidth 64
    | .fmax => (reduceMask u op rm z a act).setWidth 64
    | _ => if z then (reduceMask u op rm z a act).setWidth 64 else (reduceMask u op rm z a act).signExtend 64) ∧
  (∀ h op rm z x d a, GivesReg h (.scan h op rm z x d a) (fun u => 2 * log2w u.width + 4) d fun u act l =>
    (reduceMask u op rm z a (act &&& BitVec.ofNat 64 (2 ^ (if x then l else l + 1) - 1))).setWidth 64)

/-- RDUC.add over Active is the sum modulo 2^32 of the source over the lanes of Active (R109, R194). -/
def Claim.ReduceAddIsSum : Prop :=
  ∀ h rm z d a s uid e, Issues s h (.rduc h .add rm z d a) uid e →
    (s.dueUnit uid).width ∈ [8, 16, 32, 64] → (∀ l, hasLane e.mask l = true → l < (s.dueUnit uid).width) →
    ∃ t, exec (.rduc h .add rm z d a) s = .next t ∧
      ∀ n l, (s.dueUnit uid).nominal + (2 * log2w (s.dueUnit uid).width + 4) ≤ n → hasLane (s.activeOf h uid e) l = true →
        (lo32 ((t.unit uid).regAt n d l)).toNat =
          ((lanesOf (s.activeOf h uid e)).map fun k => ((s.dueUnit uid).src32 a k).toNat).sum % 2 ^ 32

/-- SHFL, RDUC and SCAN complete with their values, and RDUC.add with the sum (R192, R194). -/
def Obligations.CrossLaneResults : Prop := Claim.CrossLaneValues ∧ Claim.ReduceAddIsSum

/-- BRA, JMP, JMP with an index and RET complete: every lane of Active goes to its target (R205 to R207). -/
def Claim.BranchTargets : Prop :=
  (∀ h bp disp, TransfersTo h (.bra h bp disp) bp fun _ pc _ => pc + 4#64 * disp.signExtend 64) ∧
  (∀ h bp a, TransfersTo h (.jmp h bp a) bp fun u _ l => u.src64 a l) ∧
  (∀ h bp a b, TransfersTo h (.jmpIndexed h bp a b) bp fun u _ l => u.src64 a l + (u.src32 b l).setWidth 64) ∧
  (∀ h bp n, TransfersTo h (.ret h bp (.s n)) bp fun u _ l => u.src64 (.s n) l) ∧
  (∀ h bp (n m : Fin 192), m.val = n.val + 1 →
    TransfersTo h (.ret h bp (.v n)) bp fun u _ l => u.v m l ++ u.v n l)

/-- CALL completes: the lanes of Active go to the target, and the link holds P + 8 for them, in a scalar register or in a vector pair
(R207). -/
def Claim.CallLinks : Prop :=
  ∀ s h uid e bp link,
    (∀ i target, (∃ disp, i = Instr.call h bp link disp ∧ target = fun _ => e.pc + 4#64 * disp.signExtend 64) ∨
        (∃ a, i = Instr.callR h bp link a ∧ target = fun l => (s.dueUnit uid).src64 a l) →
      Issues s h i uid e →
      ∃ t, exec i s = .next t ∧
        Branches (s.dueUnit uid) (t.unit uid) e (s.activeOf h uid e) 8 bp target ∧
        (∀ n, link = .s n → RegResult (s.dueUnit uid) (t.unit uid) 0 link (s.activeOf h uid e) fun _ => e.pc + 8#64) ∧
        (∀ (n m : Fin 192), link = .v n → m.val = n.val + 1 →
          (∀ k l, (s.dueUnit uid).nominal ≤ k → hasLane (s.activeOf h uid e) l = true →
            (t.unit uid).regAt k (.v n) l = zx (lo32 (e.pc + 8#64)) ∧ (t.unit uid).regAt k (.v m) l = zx (hi32 (e.pc + 8#64))) ∧
          (∀ k r l, l < 64 → (r ≠ .v n ∧ r ≠ .v m ∨ hasLane (s.activeOf h uid e) l = false) →
            (t.unit uid).regAt k r l = (s.dueUnit uid).regAt k r l) ∧
          (∀ k p l, (t.unit uid).predAt k p l = (s.dueUnit uid).predAt k p l)) ∧
        Leaves (s.due uid) t uid)

/-- BRK completes: as a NOP where no software breakpoint is armed; where one is, each lane of Active stops at the BRK, with a report for
each to the kernel, and the issue's other lanes go on (R209, R399). -/
def Claim.BreakStopsOrPasses : Prop :=
  ∀ s h uid e code, Issues s h (.brk h code) uid e →
    ((s.core (s.dueUnit uid).core).traceSwbk = false →
      ∃ t, exec (.brk h code) s = .next t ∧ GoesOn (s.dueUnit uid) (t.unit uid) e 8 ∧ NoResult (s.dueUnit uid) (t.unit uid) ∧
        Leaves (s.due uid) t uid) ∧
    ((s.core (s.dueUnit uid).core).traceSwbk = true →
      ∃ t, exec (.brk h code) s = .next t ∧
        (∀ l, hasLane (s.activeOf h uid e) l = true → (t.unit uid).stands l e.pc e.prio (some (.stopped true))) ∧
        (∀ l, hasLane e.mask l = true → hasLane (s.activeOf h uid e) l = false → (t.unit uid).stands l (e.pc + 8#64) e.prio none) ∧
        (s.dueUnit uid).othersStand (t.unit uid) e.mask ∧
        t.reports = s.reports ++ (lanesOf (s.activeOf h uid e)).map fun l => .stop uid l)

/-- BRA, JMP, RET, CALL and BRK complete (R205 to R209). -/
def Obligations.ControlTransfers : Prop := Claim.BranchTargets ∧ Claim.CallLinks ∧ Claim.BreakStopsOrPasses

/-- MFS completes with the values of the table of R74 at latency 4; a vector destination takes bits [31:0] of a 64-bit register, or under
`.hi` bits [63:32] (R74, R236). -/
def Claim.ReadSpecial : Prop :=
  ∀ s h hi d x uid e, Issues s h (.mfs h hi d x) uid e → x.toNat ≤ 0x0E →
    ∃ t, exec (.mfs h hi d x) s = .next t ∧
      RegResult (s.dueUnit uid) (t.unit uid) 4 d (s.activeOf h uid e) (fun l =>
        let u := s.dueUnit uid
        let k := (s.due uid).task u.task
        let y := u.lane l
        let v : W64 := match x.toNat with
          | 0x00 => BitVec.ofNat 64 l
          | 0x01 => BitVec.ofNat 64 u.width
          | 0x02 => BitVec.ofNat 64 u.index
          | 0x03 => k.index.setWidth 64
          | 0x04 => y.iter.setWidth 64
          | 0x05 => y.age.setWidth 64
          | 0x06 => BitVec.ofNat 64 (match u.loop with
            | some lp => lp.sect e.pc
            | none => 0)
          | 0x07 => BitVec.ofNat 64 u.core
          | 0x08 => BitVec.ofNat 64 k.part
          | 0x09 => BitVec.ofNat 64 y.depth
          | 0x0A => y.tpc
          | 0x0B => y.tcause.setWidth 64
          | 0x0C => y.tinfo
          | 0x0D => (s.core u.core).cyc
          | _ => BitVec.ofNat 64 (recPrio k.record + (if recModeF k.record then 4 else 0) + if recCheck k.record then 8 else 0)
        if hi then v >>> 32 else v) ∧
      GoesOn (s.dueUnit uid) (t.unit uid) e 8 ∧ Leaves (s.due uid) t uid

/-- MTS completes on `%tpc`, `%tcause` and `%tinfo`, writing the bits of the table of R237 in each lane of Active; naming another register
raises PRIV with the number as `%tinfo` (R237). -/
def Claim.WriteSpecial : Prop :=
  ∀ s h hi a x uid e, Issues s h (.mts h hi a x) uid e →
    (x ∈ [0x0A#8, 0x0B#8, 0x0C#8] →
      ∃ t, exec (.mts h hi a x) s = .next t ∧ GoesOn (s.dueUnit uid) (t.unit uid) e 8 ∧ NoResult (s.dueUnit uid) (t.unit uid) ∧
        LeavesBut (s.activeOf h uid e) (s.due uid) t uid ∧
        (∀ l, hasLane (s.activeOf h uid e) l = true →
          let y := (s.dueUnit uid).lane l
          let v := (s.dueUnit uid).src64 a l
          let put (old : W64) : W64 := match a with
            | .s _ => v
            | .v _ => if hi then lo32 v ++ lo32 old else (lo32 v).setWidth 64
          (t.unit uid).lane l = if x = 0x0A#8 then { y with tpc := put y.tpc }
            else if x = 0x0B#8 then { y with tcause := lo32 v }
            else { y with tinfo := put y.tinfo })) ∧
    ((s.dueUnit uid).kind ≠ .acc → x ∉ [0x0A#8, 0x0B#8, 0x0C#8] →
      RaisesOnActive s h (.mts h hi a x) uid e 0x06 fun _ => x.setWidth 64)

/-- MFS reads the special registers and MTS writes those that it may (R74, R236, R237). -/
def Obligations.SpecialRegisters : Prop := Claim.ReadSpecial ∧ Claim.WriteSpecial

/-- TRAP takes a trap on each lane of Active of a group or a sequencer, with the code as its cause and the named register, or 0, as its
information (R238, R239). -/
def Claim.SoftwareTrap : Prop :=
  ∀ s h uid e code info, Issues s h (.trap h code info) uid e → (s.dueUnit uid).kind ≠ .acc →
    RaisesOnActive s h (.trap h code info) uid e code.toNat fun l => match info with
      | some a => (s.dueUnit uid).src64 a l
      | none => 0#64

/-- TRAP on the access strand stops it: the fault waits for its delivery, with the code and the instruction's PC (R239, R316, R323). -/
def Claim.AccessTrap : Prop :=
  ∀ s h uid e code info, Issues s h (.trap h code info) uid e → (s.dueUnit uid).kind = .acc →
    hasLane (s.activeOf h uid e) 0 = true → s.activeOf h uid e = 1#64 → (s.dueUnit uid).accFault = none →
    ∃ t, exec (.trap h code info) s = .next t ∧ (t.unit uid).frontier = [] ∧
      (t.unit uid).accFault = some (code.toNat, (match info with
        | some a => (s.dueUnit uid).src64 a 0
        | none => 0#64), e.pc, 0xB0)

/-- TRAP.K escalates each lane of Active: its issue stops where it is, and the coalescer receives a record of the code and the information,
or with code 0 of the lane's own `%tcause` and `%tinfo` (R238, R239, R251). -/
def Claim.EscalatingTrap : Prop :=
  ∀ s h uid e code info, Issues s h (.trapK h code info) uid e →
    ∃ t, exec (.trapK h code info) s = .next t ∧
      (∀ l, hasLane (s.activeOf h uid e) l = true →
        (t.unit uid).stands l e.pc ((s.dueUnit uid).prioOf l) (some .escalated) ∧
        (t.unit uid).lane l = (s.dueUnit uid).lane l ∧
        (t.core (s.dueUnit uid).core).recorded
          (if code = 0#8 then ((s.dueUnit uid).lane l).tcause.toNat % 256 else code.toNat)
          (if code = 0#8 then ((s.dueUnit uid).lane l).tinfo else match info with
            | some a => (s.dueUnit uid).src64 a l
            | none => 0#64)) ∧
      (∀ l, hasLane e.mask l = true → hasLane (s.activeOf h uid e) l = false → (t.unit uid).stands l (e.pc + 8#64) e.prio none) ∧
      (s.dueUnit uid).othersStand (t.unit uid) e.mask ∧ NoResult (s.dueUnit uid) (t.unit uid) ∧
      LeavesBut (s.activeOf h uid e) (s.due uid) t uid

/-- TRAP takes a trap, on the access strand stops it, and TRAP.K escalates (R238, R239). -/
def Obligations.SoftwareTraps : Prop := Claim.SoftwareTrap ∧ Claim.AccessTrap ∧ Claim.EscalatingTrap

/-- RFLI and RFLI.ORD over a range, issued by every live lane at once, open the loop: each live lane, in increasing order, takes the next
iteration number and age and goes on in `.prologue` at priority 3 (R163 to R166, R211). -/
def Claim.LoopOpens : Prop :=
  ∀ s h uid e n lens i ord,
    (i = Instr.rfli h (.range n) lens ∧ ord = false) ∨ (i = Instr.rfliOrd h (.range n) lens ∧ ord = true) → Issues s h i uid e →
    let u := s.dueUnit uid
    let first := lo32 (u.s n.val)
    let last := hi32 (u.s n.val)
    u.frontier = [e] → u.live = lanesOf e.mask → u.live ≠ [] →
    (∀ l ∈ u.live, (u.lane l).inIter = false ∧ (u.lane l).grant = none) →
    first.toNat + u.live.length ≤ last.toNat →
    ∃ t, exec i s = .next t ∧
      (∀ k l, u.live[k]? = some l →
        ((t.unit uid).lane l).inIter = true ∧ ((t.unit uid).lane l).iter = first + BitVec.ofNat 32 k ∧
        ((t.unit uid).lane l).age = BitVec.ofNat 32 k ∧ (t.unit uid).stands l (e.pc + 8#64) 3#2 none) ∧
      (∃ lp, (t.unit uid).loop = some lp ∧ lp.addr = e.pc ∧ lp.ord = ord ∧ lp.lens = lens ∧ lp.finished = [] ∧
        lp.nextAge = u.live.length ∧ lp.src = .range (first + BitVec.ofNat 32 u.live.length) last) ∧
      NoResult u (t.unit uid) ∧ (∀ core a, t.viewByte core a = s.viewByte core a) ∧
      (∀ k, k ≠ uid → t.unit k = s.unit k)

/-- RFL and RFL.ORD at the end of `.retire` of a loop over a range, for lanes that hold no frame: each lane's retire counts as finished, and
the lane takes the next iteration number and age and goes on in `.prologue` at the block priority (R165 to R167, R212). -/
def Claim.LoopRefills : Prop :=
  ∀ s h uid e bp i ord lp first last,
    (i = Instr.rfl h bp ∧ ord = false) ∨ (i = Instr.rflOrd h bp ∧ ord = true) → Issues s h i uid e →
    let u := s.dueUnit uid
    u.loop = some lp → lp.ord = ord → lp.src = .range first last → lp.waiting = [] → u.copyFault = none →
    e.pc + 8#64 = lp.addr + 8#64 + 4#64 * lp.lens.plen.setWidth 64 + 4#64 * lp.lens.blen.setWidth 64
      + 4#64 * lp.lens.tlen.setWidth 64 →
    (∀ l ∈ lanesOf e.mask, (u.lane l).st = .live ∧ (u.lane l).inIter = true ∧ (u.lane l).frame = none ∧ (u.lane l).grant = none) →
    first.toNat + (lanesOf e.mask).length ≤ last.toNat →
    ∃ t, exec i s = .next t ∧
      (∀ k l, (lanesOf e.mask)[k]? = some l →
        ((t.unit uid).lane l).inIter = true ∧ ((t.unit uid).lane l).iter = first + BitVec.ofNat 32 k ∧
        ((t.unit uid).lane l).age = BitVec.ofNat 32 (lp.nextAge + k) ∧ (t.unit uid).stands l (lp.addr + 8#64) bp none) ∧
      (∃ lp', (t.unit uid).loop = some lp' ∧ lp'.nextAge = lp.nextAge + (lanesOf e.mask).length ∧
        (∀ a ∈ lp.finished, a ∈ lp'.finished) ∧ ∀ l ∈ lanesOf e.mask, (u.lane l).age.toNat ∈ lp'.finished) ∧
      NoResult u (t.unit uid) ∧ (∀ core a, t.viewByte core a = s.viewByte core a) ∧
      (∀ k, k ≠ uid → t.unit k = s.unit k)

/-- RFLI and RFLI.ORD open a loop, and RFL and RFL.ORD refill its lanes (R163 to R167, R210 to R212). -/
def Obligations.RefillLoops : Prop := Claim.LoopOpens ∧ Claim.LoopRefills

/-- SYNG completes when every live lane of the group waits at the same PC: all go on together. Until then its lanes wait there (R172,
R173, R213). -/
def Claim.BarrierReleases : Prop :=
  ∀ s h uid e, Issues s h (.syng h) uid e →
    let u := s.dueUnit uid
    ((∀ f ∈ u.frontier, f.mask &&& ~~~e.mask ≠ 0#64 → f.blk = some .syng ∧ f.pc = e.pc) →
      ∃ t, exec (.syng h) s = .next t ∧
        (∀ l, hasLane e.mask l = true → (t.unit uid).stands l (e.pc + 8#64) e.prio none) ∧
        (∀ l prio, hasLane e.mask l = false → u.stands l e.pc prio (some .syng) →
          ∃ prio', (t.unit uid).stands l (e.pc + 8#64) prio' none) ∧
        NoResult u (t.unit uid) ∧ Leaves (s.due uid) t uid) ∧
    ((∃ f ∈ u.frontier, f.mask &&& ~~~e.mask ≠ 0#64 ∧ (f.blk ≠ some .syng ∨ f.pc ≠ e.pc)) →
      ∃ t, exec (.syng h) s = .next t ∧
        (∀ l, hasLane e.mask l = true → (t.unit uid).stands l e.pc e.prio (some .syng)) ∧
        u.othersStand (t.unit uid) e.mask ∧ NoResult u (t.unit uid) ∧ Leaves (s.due uid) t uid)

/-- AWAIT completes for a lane that has no frame or whose frame counts no child, and blocks a lane whose frame counts some (R141). -/
def Claim.AwaitCompletes : Prop :=
  ∀ s h uid e, Issues s h (.await h) uid e →
    ∃ t, exec (.await h) s = .next t ∧
      (∀ l, hasLane (s.activeOf h uid e) l = true →
        match ((s.dueUnit uid).lane l).frame.bind s.frames.get with
        | none => (t.unit uid).stands l (e.pc + 8#64) e.prio none
        | some f =>
          if f.pend = 0 then (t.unit uid).stands l (e.pc + 8#64) e.prio none ∧ ((t.unit uid).lane l).frame = none
          else (t.unit uid).stands l e.pc e.prio (some .await) ∧ ((t.unit uid).lane l).frame = ((s.dueUnit uid).lane l).frame) ∧
      (∀ l, hasLane e.mask l = true → hasLane (s.activeOf h uid e) l = false → (t.unit uid).stands l (e.pc + 8#64) e.prio none) ∧
      (s.dueUnit uid).othersStand (t.unit uid) e.mask ∧ NoResult (s.dueUnit uid) (t.unit uid) ∧
      (∀ a, t.homeByte a = s.homeByte a) ∧ ∀ k, k ≠ uid → t.unit k = s.unit k

/-- SYNG and AWAIT complete, or wait (R141, R172, R173, R213). -/
def Obligations.LanesWait : Prop := Claim.BarrierReleases ∧ Claim.AwaitCompletes

/-- Nothing that an outgoing edge of the lanes of a unit waits for is outstanding: no engine operation of theirs, no dirty byte of the core in a
line that an engine owns or in another package, no line of an engine still to be written, and no write to another package (R45, R50,
R374). -/
structure Claim.EdgesFree (s : State) (uid : Nat) (ls : List Nat) : Prop where
  idle : ∀ l ∈ ls, s.strandBusy uid l = false
  held : (s.unit uid).copyFault = none
  near : ∀ l ∈ ls, ((s.unit uid).lane l).remoteDirty = false
  own : ∀ a ∈ (s.core (s.unit uid).core).dirtyAddrs, s.owned a = false ∧ remotePkg s a = none
  lines : s.linesDue (s.unit uid).core = false
  acked : s.remoteOps = []

/-- What the end of the lanes `ls` leaves: each is Idle and in no entry, a lane in an iteration has retired, and no byte of the core's L1 is
dirty (R45, R142, R170). -/
structure Claim.Ended (s t : State) (uid : Nat) (ls : List Nat) : Prop where
  idle : ∀ l ∈ ls, ((t.unit uid).lane l).st = .exited ∧ ((t.unit uid).lane l).inIter = false ∧ (t.unit uid).entryOf l = none
  retired : (∀ f ∈ (s.unit uid).frontier, f.rfliAt = none) → ∀ l ∈ ls, ((s.unit uid).lane l).inIter = true →
    ∀ lp, (t.unit uid).loop = some lp → ((s.unit uid).lane l).age.toNat ∈ lp.finished
  clean : ls ≠ [] → ∀ a b, (t.core (s.unit uid).core).l1.get a = some b → b.dirty = false

/-- EXIT completes for lanes that await no child and whose edges are free: each performs its outgoing edge and is Idle (R142, R170). -/
def Claim.ExitEnds : Prop :=
  ∀ s h uid e, Issues s h (.exit h) uid e → Claim.EdgesFree (s.due uid) uid (lanesOf (s.activeOf h uid e)) →
    (∀ l ∈ lanesOf (s.activeOf h uid e), ((s.dueUnit uid).lane l).frame = none) →
    ∃ t, exec (.exit h) s = .next t ∧ Claim.Ended (s.due uid) t uid (lanesOf (s.activeOf h uid e))

/-- EXIT.S and EXITJ complete likewise where the task has registered the same record with the same instruction, and where the record that they
read may be registered they register it first, with its address, its bytes and the argument (R142, R143). -/
def Claim.ExitRegisters : Prop :=
  ∀ s h uid e a b i join,
    (i = Instr.exitS h a b ∧ join = false) ∨ (i = Instr.exitJ h a b ∧ join = true) → Issues s h i uid e →
    Claim.EdgesFree (s.due uid) uid (lanesOf (s.activeOf h uid e)) →
    (∀ l ∈ lanesOf (s.activeOf h uid e), ((s.dueUnit uid).lane l).frame = none) → s.activeOf h uid e ≠ 0#64 →
    let u := s.dueUnit uid
    let addr := u.src64 a 0
    (∀ g, (s.task u.task).reg = some g → g.join = join → g.addr = addr →
      ∃ t, exec i s = .next t ∧ Claim.Ended (s.due uid) t uid (lanesOf (s.activeOf h uid e)) ∧
        (t.task u.task).reg = some g) ∧
    (∀ s1 bytes, (s.task u.task).reg = none → readRecord i addr (s.issueAt h i uid e) (s.due uid) = .got s1 bytes →
      registerFault s1 (s1.task u.task) join addr bytes = none →
      ∃ t, exec i s = .next t ∧ Claim.Ended (s.due uid) t uid (lanesOf (s.activeOf h uid e)) ∧
        (t.task u.task).reg = some { join := join, addr := addr, record := bytes, arg := u.src64 b 0 })

/-- EXIT, EXIT.S and EXITJ complete (R142, R143, R170). -/
def Obligations.LanesEnd : Prop := Claim.ExitEnds ∧ Claim.ExitRegisters

/-- YIELD completes as a NOP; where the core's SOFT bit is set and the shadow bank holds a filled set, it also calls for the swap at the
boundary after it (R146). -/
def Claim.YieldCompletes : Prop :=
  ∀ s h uid e, Issues s h (.yield h) uid e →
    ∃ t, exec (.yield h) s = .next t ∧ GoesOn (s.dueUnit uid) (t.unit uid) e 8 ∧ NoResult (s.dueUnit uid) (t.unit uid) ∧
      (let c := s.core (s.dueUnit uid).core
       (t.core (s.dueUnit uid).core).yielded =
        if s.activeOf h uid e ≠ 0#64 ∧ c.softSwap = true ∧ c.ready = true then true else c.yielded) ∧
      (∀ core a, t.viewByte core a = s.viewByte core a) ∧ (∀ k, k ≠ uid → t.unit k = s.unit k) ∧
      (t.unit uid).still = (s.dueUnit uid).still

/-- RGROW answers the present count where it asks for no more, 0 off a group, traps with FOOTPRINT above REGMAX, and else blocks its lanes with
a request to the task engine; RSHRK lowers the count (R144, R145). -/
def Claim.RegisterCounts : Prop :=
  (∀ s h uid e m n, Issues s h (.rgrow h (.s m) n) uid e →
    let d : Reg := .s m
    let u := s.dueUnit uid
    let act := s.activeOf h uid e
    (act = 0#64 ∨ u.kind ≠ .group ∨ n.toNat ≤ u.regs →
      ∃ t, exec (.rgrow h (.s m) n) s = .next t ∧
        RegResult u (t.unit uid) 0 d act (fun _ => if u.kind = .group then BitVec.ofNat 64 u.regs else 0#64) ∧
        GoesOn u (t.unit uid) e 8 ∧ Leaves (s.due uid) t uid) ∧
    (act ≠ 0#64 → u.kind = .group → u.regmax < n.toNat → u.regs < n.toNat →
      RaisesOnActive s h (.rgrow h (.s m) n) uid e 0x32 fun _ => 4#64) ∧
    (act ≠ 0#64 → u.kind = .group → u.regs < n.toNat → n.toNat ≤ u.regmax →
      ∃ t, exec (.rgrow h (.s m) n) s = .next t ∧
        (∀ l, hasLane act l = true → (t.unit uid).stands l e.pc e.prio (some (.rgrow d n.toNat))) ∧
        ∃ cyc, (uid, n.toNat, d, cyc) ∈ (t.core u.core).ctx.rgrow)) ∧
  (∀ s h uid e n, Issues s h (.rshrk h n) uid e →
    let u := s.dueUnit uid
    ∃ t, exec (.rshrk h n) s = .next t ∧ GoesOn u (t.unit uid) e 8 ∧
      (t.unit uid).regs =
        (if s.activeOf h uid e ≠ 0#64 ∧ u.kind = .group ∧ n.toNat < u.regs then n.toNat else u.regs) ∧
      (∀ k r l, (∀ m : Fin 192, r = .v m → m.val < n.toNat) → l < 64 → (t.unit uid).regAt k r l = u.regAt k r l) ∧
      (∀ k p l, (t.unit uid).predAt k p l = u.predAt k p l) ∧
      (∀ core a, t.viewByte core a = s.viewByte core a) ∧ ∀ k, k ≠ uid → t.unit k = s.unit k)

/-- The lanes that perform an access (R178, R217): each lane of Active where some operand is a vector register, else the lowest. -/
def Claim.accessLanes (act : LMask) (vec : Bool) : List Nat := if vec then lanesOf act else (lanesOf act).take 1

/-- The effective address of a global access (R218). -/
def Claim.ea (u : Machine.Unit) (a : Reg) (off : Option Reg) (disp : Disp) (l : Nat) : W64 :=
  u.src64 a l + (match off with
    | some b => (u.src32 b l).setWidth 64
    | none => 0#64) + BitVec.ofInt 64 (dispInt disp)

/-- A core but for its counts, its TLB, its outstanding requests, its fill counter and its samples. -/
def Claim.reading (c : Core) : Core :=
  { c.still with
    tlb := [], reqs := [], far := [], fillCtr := 0#64, samples := [], sampleCtr := 0 }

/-- A core but for these and its L1. -/
def Claim.storing (c : Core) : Core := { Claim.reading c with l1 := [] }

/-- What a memory instruction leaves alone beside the bytes that it stores: other units, tasks, scratchpads, home memory, and everything but
slices, fresh numbers and flits of other packages' requests. -/
structure Claim.MemoryFrame (s t : State) (uid : Nat) : Prop where
  home : ∀ a, t.homeByte a = s.homeByte a
  spads : ∀ k a, Memory.read (t.task k).spad a = Memory.read (s.task k).spad a
  units : ∀ k, k ≠ uid → t.unit k = s.unit k
  tasks : ∀ k, (t.task k).still = (s.task k).still
  rest : { t.shared with slices := [], nextId := 0 } = { s.shared with slices := [], nextId := 0 }

/-- LD completes for lanes whose bytes translate and lie in this package or the host, in no line that an engine owns and the L1 lacks: a
request is outstanding that will write the destination with the bytes that the core reads, extended as the size says (R216 to R218). That a
load's bytes are those of its issue is the model's choice (log entry 58). -/
def Claim.LoadRequests : Prop :=
  ∀ s h uid e size d a off disp (pas : Nat → List Nat), Issues s h (.ld h size d a off disp) uid e →
    let u : Machine.Unit := s.dueUnit uid
    let ls : List Nat := Claim.accessLanes (s.activeOf h uid e) (isVec d || optVec off)
    ls ≠ [] →
    (∀ l ∈ ls, (s.due uid).laneXlat uid (Claim.ea u a off disp l) (sizeBytes size) .r = .ok (pas l)) →
    (∀ l ∈ ls, ∀ b ∈ pas l,
      remotePkg s b = none ∧ s.byteWaits u.core b = false ∧ (s.core u.core).farByte uid l b = .absent) →
    ∃ t id r, exec (.ld h size d a off disp) s = .next t ∧ (t.core u.core).reqs.get id = some r ∧ r.unit = uid ∧
      r.writes = loadWrites d size (ls.map fun l => (l, bytesVal ((pas l).map fun b => s.viewByte u.core b))) ∧
      (∀ w ∈ r.writes, ∃ v ∈ (t.unit uid).vpend, v.dst = w.1 ∧ v.req = id) ∧
      (∀ n q l, (∀ w ∈ r.writes, w.1 ≠ .r q) → (t.unit uid).regAt n q l = u.regAt n q l) ∧
      (∀ n p l, (t.unit uid).predAt n p l = u.predAt n p l) ∧
      GoesOn u (t.unit uid) e (lenBytes (Instr.ld h size d a off disp).toRaw.len) ∧ Claim.MemoryFrame s t uid ∧
      (∀ core b, t.viewByte core b = s.viewByte core b) ∧
      (∀ c, Claim.reading (t.core c) = Claim.reading (s.core c)) ∧ (t.unit uid).lanes = u.lanes

/-- What a load of each size writes: one register with the value, sign- or zero-extended; two or four vector registers, or two scalar ones, low
word first (R216). -/
def Claim.LoadExtension : Prop :=
  ∀ (l v : Nat),
    (∀ d, v < 2 ^ 32 → loadWrites d .b32 [(l, v)] = [(.r d, [(l, BitVec.ofNat 64 v)])]) ∧
    (∀ d, v < 2 ^ 8 → loadWrites d .z8 [(l, v)] = [(.r d, [(l, BitVec.ofNat 64 v)])]) ∧
    (∀ d, v < 2 ^ 16 → loadWrites d .z16 [(l, v)] = [(.r d, [(l, BitVec.ofNat 64 v)])]) ∧
    (∀ n, v < 2 ^ 8 → loadWrites (.s n) .s8 [(l, v)] = [(.r (.s n), [(l, (BitVec.ofNat 8 v).signExtend 64)])]) ∧
    (∀ n, v < 2 ^ 8 → loadWrites (.v n) .s8 [(l, v)] = [(.r (.v n), [(l, ((BitVec.ofNat 8 v).signExtend 32).setWidth 64)])]) ∧
    (∀ n, v < 2 ^ 16 → loadWrites (.s n) .s16 [(l, v)] = [(.r (.s n), [(l, (BitVec.ofNat 16 v).signExtend 64)])]) ∧
    (∀ n, v < 2 ^ 16 → loadWrites (.v n) .s16 [(l, v)] = [(.r (.v n), [(l, ((BitVec.ofNat 16 v).signExtend 32).setWidth 64)])]) ∧
    (∀ n, v < 2 ^ 64 → loadWrites (.s n) .b64 [(l, v)] = [(.r (.s n), [(l, BitVec.ofNat 64 v)])]) ∧
    (∀ n m : Fin 192, m.val = n.val + 1 → v < 2 ^ 64 → loadWrites (.v n) .b64 [(l, v)] =
      [(.r (.v n), [(l, BitVec.ofNat 64 (v % 2 ^ 32))]), (.r (.v m), [(l, BitVec.ofNat 64 (v / 2 ^ 32))])]) ∧
    (∀ n m q r : Fin 192, m.val = n.val + 1 → q.val = n.val + 2 → r.val = n.val + 3 → v < 2 ^ 128 →
      loadWrites (.v n) .b128 [(l, v)] =
        [(.r (.v n), [(l, BitVec.ofNat 64 (v % 2 ^ 32))]), (.r (.v m), [(l, BitVec.ofNat 64 (v / 2 ^ 32 % 2 ^ 32))]),
          (.r (.v q), [(l, BitVec.ofNat 64 (v / 2 ^ 64 % 2 ^ 32))]), (.r (.v r), [(l, BitVec.ofNat 64 (v / 2 ^ 96))])]) ∧
    (∀ n m : Fin 64, m.val = n.val + 1 → v < 2 ^ 128 → loadWrites (.s n) .b128 [(l, v)] =
      [(.r (.s n), [(l, BitVec.ofNat 64 (v % 2 ^ 64))]), (.r (.s m), [(l, BitVec.ofNat 64 (v / 2 ^ 64))])])

/-- MEMORY_RESPONSE completes: a request that writes one register gives it its value in the lanes that asked, whatever is in flight to it, and
is no longer outstanding; nothing else of the unit changes (R76, R218). -/
def Claim.ResponseWrites : Prop :=
  ∀ s core id r d vals m, (s.core core).reqs.get id = some r → (s.units.get r.unit).isSome →
    r.writes = [(.r d, vals)] → (s.unit r.unit).vpend.filter (fun v => v.req == id) = [{ dst := .r d, mask := m, req := id }] →
    ∃ t, exec (.memoryResponse core id) s = .next t ∧ (t.core core).reqs.get id = none ∧
      (∀ v ∈ (t.unit r.unit).vpend, v.req ≠ id) ∧
      (∀ n l x, isVec d = true → l < 64 → hasLane m l = true → (l, x) ∈ vals → (∀ y, (l, y) ∈ vals → y = x) →
        (t.unit r.unit).regAt n d l = zx (lo32 x)) ∧
      (∀ n l k x, isVec d = false → vals.head? = some (l, x) → (t.unit r.unit).regAt n d k = x) ∧
      (∀ n q l, q ≠ d ∨ isVec d = true ∧ (∀ x, (l, x) ∉ vals) → l < 64 → (t.unit r.unit).regAt n q l = (s.unit r.unit).regAt n q l) ∧
      (∀ n p l, (t.unit r.unit).predAt n p l = (s.unit r.unit).predAt n p l) ∧
      (t.unit r.unit).frontier = (s.unit r.unit).frontier ∧ (t.unit r.unit).lanes = (s.unit r.unit).lanes ∧
      (∀ k, k ≠ r.unit → t.unit k = s.unit k) ∧ t.tasks = s.tasks ∧ (∀ a, t.homeByte a = s.homeByte a) ∧
      ∀ c, c ≠ core → t.core c = s.core c

/-- LD completes with a request, whose response writes what the size says (R216 to R218). -/
def Obligations.GlobalLoads : Prop := Claim.LoadRequests ∧ Claim.LoadExtension ∧ Claim.ResponseWrites

/-- ST completes for lanes whose bytes translate: each byte of the core's L1 holds what the highest lane that wrote it stored there, every other
byte reads as before, and no home memory and no other core's view changes (R216 to R219). -/
def Claim.StoreWrites : Prop :=
  ∀ s h uid e size d a off disp (pas : Nat → List Nat), Issues s h (.st h size d a off disp) uid e →
    let u : Machine.Unit := s.dueUnit uid
    let ls : List Nat := Claim.accessLanes (s.activeOf h uid e) (isVec d || optVec off)
    let data : Nat → List Byte := fun l => valBytes (sizeBytes size) (u.storeVal d size l)
    (∀ l ∈ ls, (s.due uid).laneXlat uid (Claim.ea u a off disp l) (sizeBytes size) .w = .ok (pas l)) →
    ∃ t, exec (.st h size d a off disp) s = .next t ∧
      (∀ (l k b : Nat), l ∈ ls → (pas l)[k]? = some b → (∀ j, k < j → (pas l)[j]? ≠ some b) →
        (∀ m : Nat, m ∈ ls → l < m → b ∉ pas m) → some (t.viewByte u.core b) = (data l)[k]?) ∧
      (∀ b, (∀ l ∈ ls, b ∉ pas l) → t.viewByte u.core b = s.viewByte u.core b) ∧
      (∀ c b, c ≠ u.core → t.viewByte c b = s.viewByte c b) ∧
      GoesOn u (t.unit uid) e (lenBytes (Instr.st h size d a off disp).toRaw.len) ∧ NoResult u (t.unit uid) ∧
      Claim.MemoryFrame s t uid ∧ (∀ c, Claim.storing (t.core c) = Claim.storing (s.core c)) ∧
      (∀ l, ((t.unit uid).lane l).st = (u.lane l).st ∧ ((t.unit uid).lane l).inIter = (u.lane l).inIter)

/-- PREF completes and writes no register, no memory and no scratchpad; what any core reads is unchanged (R226). -/
def Claim.PrefetchLeaves : Prop :=
  ∀ s h uid e l2 a off disp, Issues s h (.pref h l2 a off disp) uid e →
    ∃ t, exec (.pref h l2 a off disp) s = .next t ∧
      GoesOn (s.dueUnit uid) (t.unit uid) e (lenBytes (Instr.pref h l2 a off disp).toRaw.len) ∧
      NoResult (s.dueUnit uid) (t.unit uid) ∧ (∀ core b, t.viewByte core b = s.viewByte core b) ∧
      (∀ b, t.homeByte b = s.homeByte b) ∧ (∀ k b, Memory.read (t.task k).spad b = Memory.read (s.task k).spad b) ∧
      (∀ k, k ≠ uid → t.unit k = s.unit k) ∧ (t.unit uid).lanes = (s.dueUnit uid).lanes

/-- ST and PREF complete (R216 to R219, R226). -/
def Obligations.StoresAndPrefetches : Prop := Claim.StoreWrites ∧ Claim.PrefetchLeaves

/-- The exact scratchpad offset of an access (R221). -/
def Claim.spadOff (u : Machine.Unit) (a : Reg) (off : Option Reg) (disp : Disp) (l : Nat) : Int :=
  ((u.src32 a l).toNat : Int) + (match off with
    | some b => ((u.src32 b l).toNat : Int)
    | none => 0) + dispInt disp

/-- What happens to the lanes of an access to scratchpad: those of `ls` that are not `inside` raise a fault each, and the others go on. -/
structure Claim.SpadLanes (s t : State) (uid : Nat) (e : Entry) (len : Nat) (ls : List Nat) (inside : Nat → Prop)
    (cause : Nat) (info : Nat → W64) : Prop where
  traps : ∀ l ∈ ls, ¬ inside l → TookTrap (s.dueUnit uid) (t.unit uid) ((s.due uid).vector uid) l e.pc cause (info l)
  goes : ∀ l, hasLane e.mask l = true → (l ∉ ls ∨ inside l) → (t.unit uid).stands l (e.pc + BitVec.ofNat 64 len) e.prio none
  rest : (s.dueUnit uid).othersStand (t.unit uid) e.mask

/-- A load from a task's scratchpad: each lane inside reads its bytes, extended as the size says, and no other register, lane or predicate
changes. -/
structure Claim.SpadReads (s t : State) (uid : Nat) (d : Reg) (size : Size) (ls : List Nat) (inside : Nat → Prop) (at_ : Nat → Nat) :
    Prop where
  gives : ∀ l ∈ ls, inside l →
    ∀ w ∈ loadWrites d size [(l, bytesVal (Memory.readN (s.task (s.dueUnit uid).task).spad (at_ l) (sizeBytes size)))],
    ∀ r x, w = (.r r, [(l, x)]) → ∀ n, (t.unit uid).regAt n r l = if isVec r then zx (lo32 x) else x
  rest : ∀ n r l, l < 64 →
    ((∀ w ∈ loadWrites d size [(0, 0)], w.1 ≠ .r r) ∨ ∀ m ∈ ls, inside m → isVec r = true ∧ m ≠ l) →
    (t.unit uid).regAt n r l = (s.dueUnit uid).regAt n r l
  preds : ∀ n p l, (t.unit uid).predAt n p l = (s.dueUnit uid).predAt n p l

/-- A store to a task's scratchpad: each byte that some lane inside writes holds what the highest such lane wrote there (R219), and no other
byte of any scratchpad, no byte of memory, no register, and nothing else changes but the lanes that trap. -/
structure Claim.SpadWrites (m : LMask) (s t : State) (uid : Nat) (d : Reg) (size : Size) (ls : List Nat) (inside : Nat → Prop)
    (at_ : Nat → Nat) : Prop where
  stored : ∀ l j, l ∈ ls → inside l → j < sizeBytes size →
    (∀ k, k ∈ ls → l < k → inside k → ¬ (at_ k ≤ at_ l + j ∧ at_ l + j < at_ k + sizeBytes size)) →
    Memory.read (t.task (s.dueUnit uid).task).spad (at_ l + j) =
      (valBytes (sizeBytes size) ((s.dueUnit uid).storeVal d size l)).getD j 0#8
  rest : ∀ b, (∀ l ∈ ls, inside l → ¬ (at_ l ≤ b ∧ b < at_ l + sizeBytes size)) →
    Memory.read (t.task (s.dueUnit uid).task).spad b = Memory.read (s.task (s.dueUnit uid).task).spad b
  tasks : ∀ k, k ≠ (s.dueUnit uid).task → (t.task k).still = (s.task k).still
  task : { (t.task (s.dueUnit uid).task).still with spad := [] } = { (s.task (s.dueUnit uid).task).still with spad := [] }
  bytes : ∀ core a, t.viewByte core a = s.viewByte core a
  outer : t.outer = s.outer
  units : ∀ k, k ≠ uid → t.unit k = s.unit k
  unit : (t.unit uid).apart = (s.dueUnit uid).apart
  lanes : ∀ l, hasLane m l = false → (t.unit uid).lane l = (s.dueUnit uid).lane l
  cores : ∀ c, (t.core c).quiet = (s.core c).quiet
  regs : NoResult (s.dueUnit uid) (t.unit uid)

/-- LDS and STS complete: a lane within the task's scratchpad reads or writes its bytes there, the highest lane last, and a lane outside it raises
SPAD_BOUND with the offset (R216, R219, R221). -/
def Claim.ScratchpadAccess : Prop :=
  ∀ s h uid e size d a off disp, (s.dueUnit uid).kind ≠ .acc →
    let u : Machine.Unit := s.dueUnit uid
    let act := s.activeOf h uid e
    let ls : List Nat := Claim.accessLanes act (isVec d || isVec a || optVec off)
    let o : Nat → Int := fun l => Claim.spadOff u a off disp l
    let inside : Nat → Prop := fun l => 0 ≤ o l ∧ o l + sizeBytes size ≤ (s.task u.task).spadSize
    (Issues s h (.lds h size d a off disp) uid e → ∃ t, exec (.lds h size d a off disp) s = .next t ∧
      Claim.SpadReads s t uid d size ls inside (fun l => (o l).toNat) ∧
      Claim.SpadLanes s t uid e (lenBytes (Instr.lds h size d a off disp).toRaw.len) ls inside 0x07
        (fun l => BitVec.ofInt 64 (o l)) ∧ LeavesBut act (s.due uid) t uid) ∧
    (Issues s h (.sts h size d a off disp) uid e → ∃ t, exec (.sts h size d a off disp) s = .next t ∧
      Claim.SpadWrites act s t uid d size ls inside (fun l => (o l).toNat) ∧
      Claim.SpadLanes s t uid e (lenBytes (Instr.sts h size d a off disp).toRaw.len) ls inside 0x07
        (fun l => BitVec.ofInt 64 (o l)))

/-- LDT completes on a tile that is READY or DRAINING, STT on one that is READY: a lane within the payload reads or writes its bytes there, and a
lane beyond it raises TILE_STATE 0x03 (R223 to R225). -/
def Claim.TileAccess : Prop :=
  ∀ s h uid e size d a tn imm ent, (s.dueUnit uid).kind ≠ .acc →
    let u : Machine.Unit := s.dueUnit uid
    let act := s.activeOf h uid e
    let ls : List Nat := Claim.accessLanes act (isVec d || isVec a)
    let o : Nat → Nat := fun l => (u.src32 a l).toNat + imm.toNat
    let inside : Nat → Prop := fun l => o l + sizeBytes size ≤ (s.task u.task).payloadCount ent
    let at_ : Nat → Nat := fun l => ent.base.toNat + 256 + o l
    ent.fault = none →
    (∃ k, (s.task u.task).tileKey tn.toNat = some k ∧ (s.task u.task).tileEnt k = ent) →
    (ent.st = .ready ∨ ent.st = .draining → Issues s h (.ldt h size d a tn imm) uid e →
      ∃ t, exec (.ldt h size d a tn imm) s = .next t ∧ Claim.SpadReads s t uid d size ls inside at_ ∧
        Claim.SpadLanes s t uid e (lenBytes (Instr.ldt h size d a tn imm).toRaw.len) ls inside 0x20
          (fun _ => BitVec.ofNat 64 (0x300 + tn.toNat)) ∧
        LeavesBut act (s.due uid) t uid) ∧
    (ent.st = .ready → Issues s h (.stt h size d a tn imm) uid e →
      ∃ t, exec (.stt h size d a tn imm) s = .next t ∧ Claim.SpadWrites act s t uid d size ls inside at_ ∧
        Claim.SpadLanes s t uid e (lenBytes (Instr.stt h size d a tn imm).toRaw.len) ls inside 0x20
          (fun _ => BitVec.ofNat 64 (0x300 + tn.toNat)))

/-- LDS, STS, LDT and STT complete on the lanes that they reach, and trap on the others (R221 to R225). -/
def Obligations.ScratchpadAndTiles : Prop := Claim.ScratchpadAccess ∧ Claim.TileAccess

/-- An atomic performed on a memory of home bytes: the old value, and the memory with the new one where it writes one (R228, R229). -/
def Claim.atomicAt (f : Nat → Option Nat) (n pa : Nat) (m : Nat → Byte) : Nat × (Nat → Byte) :=
  let old := bytesVal ((List.range n).map fun k => m (pa + k))
  (old, match f old with
    | some v => fun b => if pa ≤ b ∧ b < pa + n then (valBytes n v).getD (b - pa) 0#8 else m b
    | none => m)

/-- Atomics performed one after another, each lane's old value kept (R229). -/
def Claim.atomics (f : Nat → Nat → Option Nat) (n : Nat) (pa : Nat → Nat) : List Nat → (Nat → Byte) → List (Nat × Nat) × (Nat → Byte)
  | [], m => ([], m)
  | l :: ls, m =>
    let r := Claim.atomicAt (f l) n (pa l) m
    let q := Claim.atomics f n pa ls r.2
    ((l, r.1) :: q.1, q.2)

/-- The value that an ATOM or an ATOMF writes over m, or a CAS where m equals its compare value (R228, R229). -/
def Claim.atomicNew (i : Instr) (u : Machine.Unit) (l m : Nat) : Option Nat :=
  match i with
  | .atom _ op z _ _ wide _ _ b _ =>
    let w := if wide then 64 else 32
    let x := u.atomVal wide b l
    some (match op with
      | .add => (m + x) % 2 ^ w
      | .min => if valW w z x < valW w z m then x else m
      | .max => if valW w z m < valW w z x then x else m
      | .and => m &&& x
      | .or => m ||| x
      | .xor => m ^^^ x
      | .xchg => x)
  | .atomf _ op _ _ _ _ b _ =>
    let x := BitVec.ofNat 32 (u.atomVal false b l)
    let y := BitVec.ofNat 32 m
    some (match op with
      | .fadd => (add32 .rn y x).toNat
      | .fmin => (fmin32 y x).toNat
      | .fmax => (fmax32 y x).toNat)
  | .cas _ _ _ wide d _ b _ => if m = u.atomVal wide d l then some (u.atomVal wide b l) else none
  | _ => none

/-- An ATOM, an ATOMF or a CAS with its marks. -/
def Claim.AtomicOf (h : Hdr) (i : Instr) (wide pub sub : Bool) (d a b : Reg) (disp : Disp) : Prop :=
  (∃ op z, i = Instr.atom h op z pub sub wide d a b disp) ∨ (∃ op, wide = false ∧ i = Instr.atomf h op pub sub d a b disp) ∨
    i = Instr.cas h pub sub wide d a b disp

/-- ATOM, ATOMF and CAS complete for aligned lanes whose bytes translate to own memory in no line that an engine owns, and under `.pub` where the lanes'
outgoing edge is free: the atomics are performed at home in increasing lane order over the core's own dirty bytes, under `.pub` after all of them have
been written home, and a request is outstanding that writes each lane's old value to the destination; under `.sub` the core then keeps no clean byte of an
earlier fill (R42, R43, R45, R46, R217, R227 to R229). -/
def Claim.AtomicsPerform : Prop :=
  ∀ s h uid e i wide pub sub d a b disp (pa : Nat → Nat), Claim.AtomicOf h i wide pub sub d a b disp → Issues s h i uid e →
    let u : Machine.Unit := s.dueUnit uid
    let n : Nat := if wide then 8 else 4
    let ls : List Nat := Claim.accessLanes (s.activeOf h uid e) (isVec d || isVec a || isVec b)
    ls ≠ [] → (pub = true → Claim.EdgesFree (s.due uid) uid ls ∧ ∀ x ∈ (s.core u.core).dirtyAddrs, x < 2 ^ 39) →
    (∀ l ∈ ls, (u.atomAddr a disp l).toNat % n = 0 ∧
      (s.due uid).laneXlat uid (u.atomAddr a disp l) n .rw = .ok ((List.range n).map fun k => pa l + k) ∧ pa l % n = 0 ∧
      pa l < 2 ^ 39 ∧ s.owned (pa l) = false) →
    let own : Nat → Byte := fun x => match (s.core u.core).l1.get x with
      | some y => if y.dirty && (pub || ls.any (fun l => decide (pa l ≤ x) && decide (x < pa l + n))) then y.val else s.homeByte x
      | none => s.homeByte x
    let r := Claim.atomics (Claim.atomicNew i u) n pa ls own
    ∃ t id q, exec i s = .next t ∧ (∀ x, t.homeByte x = r.2 x) ∧
      (t.core u.core).reqs.get id = some q ∧ q.unit = uid ∧ q.writes = loadWrites d (if wide then .b64 else .b32) r.1 ∧
      (∀ w ∈ q.writes, ∃ v ∈ (t.unit uid).vpend, v.dst = w.1 ∧ v.req = id) ∧
      (pub = true → sub = false → ∀ x y, (t.core u.core).l1.get x = some y → y.dirty = false) ∧
      (sub = true → ∀ x y, (t.core u.core).l1.get x = some y → y.dirty = true ∨ ∃ k, y.stamp = some k ∧ (t.core u.core).edgeStamp ≤ k) ∧
      GoesOn u (t.unit uid) e (lenBytes i.toRaw.len) ∧ (∀ k, k ≠ uid → t.unit k = s.unit k) ∧
      (∀ l, { (t.unit uid).lane l with lossSeen := 0 } = { u.lane l with lossSeen := 0 }) ∧ (pub = false → (t.unit uid).lanes = u.lanes) ∧
      (∀ k, (t.task k).still = (s.task k).still) ∧ ∀ c, c ≠ u.core → t.core c = s.core c

/-- An atomic whose address is no multiple of its width raises MISALIGN with the address on that lane, and memory, registers and scratchpads stay
as they are (R54, R242). -/
def Claim.AtomicMisalign : Prop :=
  ∀ s h uid e i wide pub sub d a b disp, Claim.AtomicOf h i wide pub sub d a b disp → Issues s h i uid e → (s.dueUnit uid).kind ≠ .acc →
    (pub = true → (s.dueUnit uid).copyFault = none) → (isVec d || isVec a || isVec b) = true →
    (∀ l, hasLane (s.activeOf h uid e) l = true → ((s.dueUnit uid).atomAddr a disp l).toNat % (if wide then 8 else 4) ≠ 0) →
    (∀ l, hasLane (s.activeOf h uid e) l = true → ∃ t, exec i s = .next t ∧
      TookTrap (s.dueUnit uid) (t.unit uid) ((s.due uid).vector uid) l e.pc 0x12 ((s.dueUnit uid).atomAddr a disp l)) ∧
    ∃ t, exec i s = .next t ∧ NoResult (s.dueUnit uid) (t.unit uid) ∧ (∀ core x, t.viewByte core x = s.viewByte core x) ∧
      (∀ k x, Memory.read (t.task k).spad x = Memory.read (s.task k).spad x) ∧ ∀ k, k ≠ uid → t.unit k = s.unit k

/-- ATOM, ATOMF and CAS complete, and trap where the address is no multiple of the width (R228, R229). -/
def Obligations.Atomics : Prop := Claim.AtomicsPerform ∧ Claim.AtomicMisalign

/-- The bytes from the start of an instruction to its end, by LEN in bits [1:0] of its first parcel; a PAD32 parcel is 4 long (R60). -/
def Claim.lenOf (parcel : List Byte) : Nat := match (parcel.getD 0 0#8).toNat % 4 with
  | 0 => 8
  | 1 => 12
  | 2 => 16
  | _ => 4

/-- TRET and TRET.SKIP complete for live lanes whose trap was no MATRIX_RESET: each Trapped lane of Active goes back to `%tpc`, or past the
instruction there, at its saved priority, and leaves Trapped; one whose address is no multiple of 4 traps there with IFETCH_SPLIT. Lanes that
are not Trapped raise ILLEGAL_OP with WHY 0x07 (R240). BIT of that ILLEGAL_OP is the model's reading (log entry 13). -/
def Obligations.TrapReturns : Prop :=
  ∀ s h uid e skip i (dest : Nat → W64), (i = Instr.tret h ∧ skip = false) ∨ (i = Instr.tretSkip h ∧ skip = true) → Issues s h i uid e →
    let u : Machine.Unit := s.dueUnit uid
    let act := s.activeOf h uid e
    (∀ l, hasLane e.mask l = true → (u.lane l).st = .live) →
    ((∀ l, hasLane act l = true → (u.lane l).trapped = true ∧ (u.lane l).mtrap = false ∧ (u.lane l).badGrant = false) →
      (∀ l, hasLane act l = true → if skip then
          ∃ bs, (s.due uid).codeN uid (u.lane l).tpc.toNat 4 = some bs ∧ dest l = (u.lane l).tpc + BitVec.ofNat 64 (Claim.lenOf bs) ∧
            ∃ pas, (s.due uid).laneXlat uid ((u.lane l).tpc &&& ~~~3#64) 4 .x = .ok pas
        else dest l = (u.lane l).tpc) →
      ∃ t, exec i s = .next t ∧
        (∀ l, hasLane act l = true → (dest l).toNat % 4 = 0 →
          (t.unit uid).lane l = { u.lane l with trapped := false, mtrap := false } ∧
            (t.unit uid).stands l (dest l) (u.lane l).savedPrio none) ∧
        (∀ l, hasLane act l = true → (dest l).toNat % 4 ≠ 0 → (s.due uid).vector uid ≠ 0#64 →
          (t.unit uid).lane l = { u.lane l with
              trapped := true, mtrap := false, tpc := dest l, tcause := 0x04#32, tinfo := dest l } ∧
            (t.unit uid).stands l ((s.due uid).vector uid) 3#2 none) ∧
        (∀ l, hasLane e.mask l = true → hasLane act l = false → (t.unit uid).stands l (e.pc + 8#64) e.prio none) ∧
        u.othersStand (t.unit uid) e.mask ∧ NoResult u (t.unit uid) ∧ LeavesBut act (s.due uid) t uid) ∧
    ((∀ l, hasLane act l = true → (u.lane l).trapped = false) →
      RaisesOnActive s h i uid e 0x01 fun _ => i.toRaw.toWord.setWidth 32 ++ 0x00000007#32)

/-- TMARK completes: while tracing is on and the die's open segment has room, each lane of Active writes one record with its PC, the id and the
value or 0; while it is off, nothing but the issue happens (R241, R391). -/
def Claim.TraceMarks : Prop :=
  ∀ s h uid e id val, Issues s h (.tmark h id val) uid e →
    let u : Machine.Unit := s.dueUnit uid
    let act := s.activeOf h uid e
    let d : Nat := u.core / 64 % 4
    ((s.core u.core).traceCtl.getLsbD 31 = false →
      ∃ t, exec (.tmark h id val) s = .next t ∧ GoesOn u (t.unit uid) e 8 ∧ NoResult u (t.unit uid) ∧ Leaves (s.due uid) t uid) ∧
    (∀ g, (s.core u.core).traceCtl.getLsbD 31 = true → g ∈ (s.die d).segments → g.closed = false →
      g.recs.length + (lanesOf act).length ≤ 32762 →
      ∃ t, exec (.tmark h id val) s = .next t ∧ GoesOn u (t.unit uid) e 8 ∧ NoResult u (t.unit uid) ∧
        LeavesBut 0#64 (s.due uid) t uid ∧ (t.die d).seq = (s.die d).seq + (lanesOf act).length ∧
        ∃ g' ∈ (t.die d).segments, ∃ rs, g'.segno = g.segno ∧ g'.recs = g.recs ++ rs ∧ rs.length = (lanesOf act).length ∧
          ∀ (k : Nat) l, (lanesOf act)[k]? = some l → ∃ r, rs[k]? = some r ∧ r.seq = (s.die d).seq + k ∧ r.ty = 0x01 ∧
            r.aux = id.toNat ∧ r.pc = e.pc ∧ r.core = u.core ∧ r.lane = u.laneSlot l ∧
            r.data = match val with
              | some a => u.src32 a l
              | none => 0#32)

/-- YIELD, RGROW, RSHRK and TMARK complete (R144 to R146, R241). -/
def Obligations.YieldGrowAndTrace : Prop := Claim.YieldCompletes ∧ Claim.RegisterCounts ∧ Claim.TraceMarks

/-! ### Hardware queues -/

/-- The scratchpad address of place j of a queue: an entry takes 4 bytes for each word, then 16 (R294). -/
def Claim.placeAt (q : QueueSt) (wq j : Nat) : Nat := q.base + j % q.cap * (4 * wq + 16)

/-- Word l of the entry at place j; the word after its last is its tag word (R230, R294). -/
def Claim.word (k : Task) (q : QueueSt) (j l : Nat) : Nat := bytesVal (Memory.readN k.spad (Claim.placeAt q k.wq j + 4 * l) 4)

/-- What a queue instruction leaves alone beside the queue, its scratchpad and the registers that it writes: memory, other units, other tasks
and other queues. -/
structure Claim.QueueFrame (s t : State) (uid : Nat) (q : QueueN) : Prop where
  bytes : ∀ core a, t.viewByte core a = s.viewByte core a
  shared : t.shared = s.shared
  units : ∀ k, k ≠ uid → t.unit k = s.unit k
  unit : { (t.unit uid).still with vpend := [] } = { (s.dueUnit uid).still with vpend := [] }
  cores : ∀ c, (t.core c).still = (s.core c).still
  tasks : ∀ k, k ≠ (s.dueUnit uid).task → (t.task k).still = (s.task k).still
  queues : ∀ n, n ≠ q.toNat → (t.task (s.dueUnit uid).task).queues.get n = (s.task (s.dueUnit uid).task).queues.get n
  task : { (t.task (s.dueUnit uid).task).still with queues := [], spad := [] } =
    { (s.task (s.dueUnit uid).task).still with queues := [], spad := [] }

/-- QPOP delivers an entry's words to the lanes of Active and its tag word to the tag register, and nothing else changes (R232). -/
structure Claim.Delivers (u v : Machine.Unit) (d : Reg) (tag : Option Reg) (act : LMask) (w : Nat → W64) (tw : W64) : Prop where
  words : ∀ n l x, u.nominal ≤ n → l < 64 → tag ≠ some d → resultAt d act w l = some x → v.regAt n d l = x
  tagged : ∀ n m l, tag = some (.s m) → v.regAt n (.s m) l = tw
  kept : ∀ n l, l < 64 → tag ≠ some d → resultAt d act w l = none → v.regAt n d l = u.regAt n d l
  others : ∀ n r l, l < 64 → r ≠ d → tag ≠ some r → v.regAt n r l = u.regAt n r l
  preds : ∀ n p l, v.predAt n p l = u.predAt n p l

/-- QPOP, QPUSH and QSTA on a declared queue of the group's width complete: QPOP takes the head entry of an open queue that holds one and no
POISON, or the entry of a closed one, and waits at an empty one; QPUSH appends an entry with room and waits without; QSTA reads the state word
(R230 to R234, R294, R295). -/
def Claim.QueueTransfers : Prop :=
  ∀ s h uid e (q : QueueN) qs,
    let u : Machine.Unit := s.dueUnit uid
    let act := s.activeOf h uid e
    let k : Task := s.task u.task
    k.queues.get q.toNat = some qs → k.wq = u.width → act ≠ 0#64 →
    (∀ d tag, Issues s h (.qpop h d q tag) uid e →
      let tw : W32 := BitVec.ofNat 32 (Claim.word k qs qs.head k.wq)
      (qs.closed = false → qs.count ≠ 0 → tw.getLsbD 17 = false →
        ∃ t, exec (.qpop h d q tag) s = .next t ∧
          Claim.Delivers u (t.unit uid) d tag act (fun l =>
            if l < k.wq ∧ tw.getLsbD 20 = false then BitVec.ofNat 64 (Claim.word k qs qs.head l) else 0#64) (tw.setWidth 64) ∧
          (t.task u.task).queues.get q.toNat =
            some { qs with head := (qs.head + 1) % qs.cap, count := qs.count - 1, closed := tw.getLsbD 16 } ∧
          (t.task u.task).spad = k.spad ∧ GoesOn u (t.unit uid) e 8 ∧ Claim.QueueFrame s t uid q) ∧
      (qs.closed = true →
        ∃ t, exec (.qpop h d q tag) s = .next t ∧ Claim.Delivers u (t.unit uid) d tag act (fun _ => 0#64) 0x00110000#64 ∧
          (t.task u.task).queues.get q.toNat = some qs ∧ (t.task u.task).spad = k.spad ∧ GoesOn u (t.unit uid) e 8 ∧
          Claim.QueueFrame s t uid q) ∧
      (qs.closed = false → qs.count = 0 →
        ∃ t, exec (.qpop h d q tag) s = .next t ∧ NoResult u (t.unit uid) ∧
          (∀ l, hasLane act l = true → (t.unit uid).stands l e.pc e.prio (some (.qpop d q tag))) ∧
          (t.task u.task).queues.get q.toNat = some qs ∧ (t.task u.task).spad = k.spad ∧ Claim.QueueFrame s t uid q)) ∧
    (∀ fin a tag, Issues s h (.qpush h fin a q tag) uid e →
      let tw : W32 := (match tag with
        | some r => lo32 (u.src64 r 0) &&& 0x001DFFFF#32
        | none => BitVec.ofNat 32 u.width) ||| (if fin then 0x00010000#32 else 0#32)
      let at_ : Nat := Claim.placeAt qs k.wq (qs.head + qs.count)
      (qs.count < qs.cap →
        ∃ t, exec (.qpush h fin a q tag) s = .next t ∧
          (t.task u.task).queues.get q.toNat = some { qs with count := qs.count + 1 } ∧
          (∀ l, l < k.wq → Claim.word (t.task u.task) qs (qs.head + qs.count) l =
            if hasLane act l then (u.src32 a l).toNat else 0) ∧
          Claim.word (t.task u.task) qs (qs.head + qs.count) k.wq = tw.toNat ∧
          (∀ l, k.wq < l → l < k.wq + 4 → Claim.word (t.task u.task) qs (qs.head + qs.count) l = 0) ∧
          (∀ b, ¬ (at_ ≤ b ∧ b < at_ + (4 * k.wq + 16)) → Memory.read (t.task u.task).spad b = Memory.read k.spad b) ∧
          NoResult u (t.unit uid) ∧ GoesOn u (t.unit uid) e 8 ∧ Claim.QueueFrame s t uid q) ∧
      (qs.cap ≤ qs.count →
        ∃ t ws, exec (.qpush h fin a q tag) s = .next t ∧ NoResult u (t.unit uid) ∧
          ws = (List.range u.width).map (fun l => if hasLane act l then u.src32 a l else 0#32) ∧
          (∀ l, hasLane act l = true → (t.unit uid).stands l e.pc e.prio (some (.qpush ws tw q))) ∧
          (t.task u.task).queues.get q.toNat = some qs ∧ (t.task u.task).spad = k.spad ∧ Claim.QueueFrame s t uid q)) ∧
    (∀ n, Issues s h (.qsta h (.s n) q) uid e →
      ∃ t, exec (.qsta h (.s n) q) s = .next t ∧
        RegResult u (t.unit uid) 0 (.s n) act (fun _ => BitVec.ofNat 64 (qs.count + 2 ^ 16 * qs.cap +
          (if qs.count ≠ 0 ∧ (BitVec.ofNat 32 (Claim.word k qs qs.head k.wq)).getLsbD 17 = true then 2 ^ 32 else 0) +
          (if qs.closed then 2 ^ 33 else 0))) ∧
        GoesOn u (t.unit uid) e 8 ∧ Leaves (s.due uid) t uid)

/-- QPOP, QPUSH and QSTA complete, wait or trap (R230 to R234). -/
def Obligations.QueueInstructions : Prop := Claim.QueueTransfers ∧ Claim.QueueMisuse

/-! ### Spawning -/

/-- What the children of one SPAWN are (R140): one entry for each spawning lane, in order, with its depth one greater, its number in creation
order as its index, its lane's argument, and its lane's frame as parent. -/
structure Claim.Children (s t : State) (uid : Nat) (ls : List Nat) (addr : W64) (record : List Byte) (arg : Nat → W64) : Prop where
  queued : ∃ es, (t.core (s.dueUnit uid).core).glade = (s.core (s.dueUnit uid).core).glade ++ es ∧ es.length = ls.length ∧
    ∀ (k : Nat) l, ls[k]? = some l → ∃ x, es[k]? = some x ∧ x.part = (s.task (s.dueUnit uid).task).part ∧
      x.asn = (s.task (s.dueUnit uid).task).asn ∧ x.record = record ∧ x.addr = addr ∧ x.arg = arg l ∧
      x.depth = ((s.dueUnit uid).lane l).depth + 1 ∧ x.index = BitVec.ofNat 32 k ∧ x.parent = ((t.unit uid).lane l).frame ∧
      x.parent.isSome ∧ x.cont = none
  clean : ∀ a b, (t.core (s.dueUnit uid).core).l1.get a = some b → b.dirty = false

/-- SPAWN and SPAWN.U complete where the record reads from this package or the host, may be spawned, the edges of the lanes of Active are free
and the glade queue has room: each spawning lane, or under `.U` the lowest of Active, creates a child. A lane that holds a frame has it count one
more; a single lane without one opens the pool's lowest free frame, which counts one (R137 to R140). -/
def Obligations.SpawnCreates : Prop :=
  ∀ s h uid e a b i group (pas : List Nat),
    (i = Instr.spawn h a b ∧ group = false) ∨ (i = Instr.spawnU h a b ∧ group = true) → Issues s h i uid e →
    let u : Machine.Unit := s.dueUnit uid
    let ls : List Nat := if group then (lanesOf (s.activeOf h uid e)).take 1 else lanesOf (s.activeOf h uid e)
    let addr : W64 := u.src64 a 0
    let record : List Byte := pas.map fun p => s.viewByte u.core p
    ls ≠ [] → Claim.EdgesFree (s.due uid) uid (lanesOf (s.activeOf h uid e)) →
    addr.toNat % 256 = 0 → (s.due uid).laneXlat uid addr 256 .r = .ok pas →
    (∀ p ∈ pas, remotePkg s p = none ∧ s.byteWaits u.core p = false ∧
      ∀ l, hasLane (s.activeOf h uid e) l = true → (s.core u.core).farByte uid l p = .absent) →
    (∀ l ∈ ls, (u.lane l).depth < 8) → recMalformed record false = none → s.fitsNone (s.task u.task).part record = false →
    (s.core u.core).glade.length + ls.length ≤ 64 →
    (∀ (f : Nat → Nat) (g : Nat → Frame), (∀ l ∈ ls, (u.lane l).frame = some (f l) ∧ s.frames.get (f l) = some (g l)) →
      (∀ l ∈ ls, ∀ m ∈ ls, f l = f m → l = m) →
      ∃ t, exec i s = .next t ∧ Claim.Children s t uid ls addr record (fun l => u.src64 b l) ∧
        (∀ l ∈ ls, ((t.unit uid).lane l).frame = some (f l) ∧ t.frames.get (f l) = some { g l with pend := (g l).pend + 1 }) ∧
        (∀ x, (∀ l ∈ ls, x ≠ f l) → t.frames.get x = s.frames.get x) ∧
        GoesOn u (t.unit uid) e 8 ∧ NoResult u (t.unit uid) ∧ (∀ k, k ≠ uid → t.unit k = s.unit k) ∧
        ∀ x, t.viewByte u.core x = s.viewByte u.core x) ∧
    (∀ l x, ls = [l] → (u.lane l).frame = none → s.freeFrame (s.task u.task).part = some x →
      ∃ t f, exec i s = .next t ∧ Claim.Children s t uid ls addr record (fun l => u.src64 b l) ∧
        ((t.unit uid).lane l).frame = some x ∧ t.frames.get x = some f ∧ f.pend = 1 ∧ f.status = 1 ∧ f.depth = (u.lane l).depth ∧
        f.home = u.core ∧ f.task = u.task ∧ (∀ y, y ≠ x → t.frames.get y = s.frames.get y) ∧
        GoesOn u (t.unit uid) e 8 ∧ NoResult u (t.unit uid) ∧ (∀ k, k ≠ uid → t.unit k = s.unit k) ∧
        ∀ y, t.viewByte u.core y = s.viewByte u.core y)

/-- A handle register serves an access of n bytes at an offset (R291, R293): the entry is bound and valid, the bytes lie below its limit, and CTL
has the permission bit. -/
def Claim.handleServes (r : HReg) (o : Int) (n bit : Nat) : Prop :=
  r.declared = true ∧ r.valid = true ∧ 0 ≤ o ∧ o + n ≤ r.limit.toNat ∧ r.ctl.getLsbD bit = true

/-- The offset of an access through a handle (R300). -/
def Claim.handleOff (u : Machine.Unit) (off : Option Reg) (disp : Disp) : Int :=
  (match off with
    | some r => ((u.src64 r 0).toNat : Int)
    | none => 0) + dispInt disp

/-- ALD and AST complete at an offset that the handle serves: ALD leaves a request that writes the bytes as the core reads them, and AST stores its
bytes in the core's L1. An access beyond the limit raises ACC_BOUND with REASON 0x2, the handle and the offset, and nothing is read or written
(R293, R300, R301). The order of the checks of a handle is the model's reading (log entry 35). -/
def Claim.HandleAccess : Prop :=
  ∀ s h uid e size (hn : HandleN) off disp d i store (pas : List Nat),
    (i = Instr.ald h size d hn off disp ∧ store = false) ∨ (i = Instr.ast h size d hn off disp ∧ store = true) → Issues s h i uid e →
    let u : Machine.Unit := s.dueUnit uid
    let r : HReg := u.handle hn
    let o : Int := Claim.handleOff u off disp
    let n : Nat := sizeBytes size
    s.activeOf h uid e = 1#64 →
    (Claim.handleServes r o n (if store then 17 else 16) →
      (s.due uid).laneXlat uid (BitVec.ofInt 64 ((r.base.toNat : Int) + o)) n (if store then .w else .r) = .ok pas →
      (store = false →
        (∀ b ∈ pas, remotePkg s b = none ∧ s.byteWaits u.core b = false ∧ (s.core u.core).farByte uid 0 b = .absent) →
        ∃ t id q, exec i s = .next t ∧ (t.core u.core).reqs.get id = some q ∧ q.unit = uid ∧
          q.writes = loadWrites d size [(0, bytesVal (pas.map fun b => s.viewByte u.core b))] ∧
          (∀ w ∈ q.writes, ∃ v ∈ (t.unit uid).vpend, v.dst = w.1 ∧ v.req = id) ∧
          GoesOn u (t.unit uid) e (lenBytes i.toRaw.len) ∧ Claim.MemoryFrame s t uid ∧
          (∀ core b, t.viewByte core b = s.viewByte core b) ∧ ∀ c, Claim.reading (t.core c) = Claim.reading (s.core c)) ∧
      (store = true →
        ∃ t, exec i s = .next t ∧
          (∀ (k b : Nat), pas[k]? = some b → (∀ j, k < j → pas[j]? ≠ some b) →
            some (t.viewByte u.core b) = (valBytes n (u.storeVal d size 0))[k]?) ∧
          (∀ b, b ∉ pas → t.viewByte u.core b = s.viewByte u.core b) ∧
          (∀ c b, c ≠ u.core → t.viewByte c b = s.viewByte c b) ∧
          GoesOn u (t.unit uid) e (lenBytes i.toRaw.len) ∧ NoResult u (t.unit uid) ∧ Claim.MemoryFrame s t uid ∧
          ∀ c, Claim.storing (t.core c) = Claim.storing (s.core c))) ∧
    (r.declared = true → r.valid = true → ¬ (0 ≤ o ∧ o + n ≤ r.limit.toNat) → u.kind = .acc → u.accFault = none →
      ∃ t, exec i s = .next t ∧ (t.unit uid).frontier = [] ∧
        (t.unit uid).accFault = some (0x14, BitVec.ofNat 64 (2 ^ 61 + 2 ^ 56 * hn.toNat + (o % 2 ^ 56).toNat), e.pc, i.toRaw.opc.toNat) ∧
        NoResult u (t.unit uid) ∧ (∀ core b, t.viewByte core b = s.viewByte core b) ∧ ∀ k, k ≠ uid → t.unit k = s.unit k)

/-- APRF completes and changes no register, no byte that a core reads, no home byte and no scratchpad; one that the handle refuses is counted and does
nothing else. AHQ completes with the handle's limit, base or control word, 0 where the handle is refused (R302, R303). -/
def Claim.HandleQueries : Prop :=
  (∀ s h uid e l2 hn off disp, Issues s h (.aprf h l2 hn off disp) uid e →
    let u : Machine.Unit := s.dueUnit uid
    ∃ t, exec (.aprf h l2 hn off disp) s = .next t ∧ GoesOn u (t.unit uid) e (lenBytes (Instr.aprf h l2 hn off disp).toRaw.len) ∧
      NoResult u (t.unit uid) ∧ (∀ core b, t.viewByte core b = s.viewByte core b) ∧ (∀ b, t.homeByte b = s.homeByte b) ∧
      (∀ k b, Memory.read (t.task k).spad b = Memory.read (s.task k).spad b) ∧ (∀ k, k ≠ uid → t.unit k = s.unit k) ∧
      (t.unit uid).lanes = u.lanes ∧
      (s.activeOf h uid e ≠ 0#64 → ¬ Claim.handleServes (u.handle hn) (Claim.handleOff u off disp) 1 16 →
        (t.core u.core).prefDrops = (s.core u.core).prefDrops + 1 ∧
          { (t.core u.core).still with prefDrops := 0 } = { (s.core u.core).still with prefDrops := 0 })) ∧
  (∀ s h uid e sel n hn, Issues s h (.ahq h sel (.s n) hn) uid e →
    let u : Machine.Unit := s.dueUnit uid
    let r : HReg := u.handle hn
    ∃ t, exec (.ahq h sel (.s n) hn) s = .next t ∧
      RegResult u (t.unit uid) 0 (.s n) (s.activeOf h uid e) (fun _ =>
        let region : W64 := BitVec.ofNat 64 (2 ^ 32 * r.region.toNat)
        if r.declared = true ∧ r.valid = true then (match sel with
          | .lim => r.limit
          | .base => r.base
          | .ctl => r.ctl.setWidth 64 + region)
        else if r.declared = true ∧ r.ctl.getLsbD 31 = true ∧ sel = .ctl then (r.ctl &&& 0x7FFFFFFF#32).setWidth 64 + region
        else 0#64) ∧
      GoesOn u (t.unit uid) e 8 ∧ Leaves (s.due uid) t uid)

/-- ALD, AST, APRF and AHQ complete (R300 to R303). -/
def Obligations.AccessHandles : Prop := Claim.HandleAccess ∧ Claim.HandleQueries

/-! ### Streaming operations -/

/-- The streaming instructions that read or write through a handle: the permission bit that each needs, the registers that it reads at issue, the one
that it writes at its end, and its queues (R291, R309 to R315). -/
inductive Claim.Streaming (h : Hdr) (hn : HandleN) :
    Instr → Nat → Option Reg → Option Reg → Option Reg → Option Reg → List QueueN → Prop
  | strm size q a b c : Claim.Streaming h hn (.strm h size q hn a b c) 16 (some a) (some b) (some c) none [q]
  | gth sx q a b c n : Claim.Streaming h hn (.gth h sx q hn a b c n) 16 (some a) (some b) (some c) none [q]
  | gthQ sx q a qs n : Claim.Streaming h hn (.gthQ h sx q hn a qs n) 16 (some a) none none none [q, qs]
  | store a qv qi : Claim.Streaming h hn (.sct h .st hn a qv qi) 17 (some a) none none none [qv, qi]
  | combine comb a qv qi : comb ≠ .st → Claim.Streaming h hn (.sct h comb hn a qv qi) 18 (some a) none none none [qv, qi]
  | hprb d q a b qk n : Claim.Streaming h hn (.hprb h d q hn a b qk n) 16 (some a) (some b) none (some d) [q, qk]
  | isct d q a b c : Claim.Streaming h hn (.isct h d q hn a b c) 16 (some a) (some b) (some c) (some d) [q, q + 1#3, q + 2#3]
  | walk q a b rows depth : Claim.Streaming h hn (.walk h q hn a b rows depth) 16 (some a) (some b) none none [q]

/-- The further checks of a streaming instruction at issue (R311 to R314): an element no wider than an entry, two queues that differ, three queues in
a row. -/
def Claim.fits (i : Instr) (wq : Nat) : Prop :=
  match i with
  | .gth _ _ _ _ _ _ _ n => n.toNat ≤ 4 * wq
  | .gthQ _ _ q _ _ qs n => n.toNat ≤ 4 * wq ∧ q ≠ qs
  | .sct _ _ _ _ qv qi => qv ≠ qi
  | .hprb _ _ q _ _ _ qk _ => q ≠ qk
  | .isct _ _ q _ _ _ _ => q.toNat ≤ 5
  | _ => True

/-- An operation has entered the lowest free stream slot of its context, which goes on; no register, no memory and no scratchpad has changed
(R288, R289). -/
structure Claim.Started (s t : State) (uid k : Nat) (e : Entry) (i : Instr) (x : Stream) (d : Option Reg) : Prop where
  slot : k < 4 ∧ (s.dueUnit uid).streams.get k = none ∧ ∀ j, j < k → ((s.dueUnit uid).streams.get j).isSome
  entered : (t.unit uid).streams.get k = some x
  kept : ∀ j, j ≠ k → (t.unit uid).streams.get j = (s.dueUnit uid).streams.get j
  what : x.instr = i ∧ x.pc = e.pc ∧ x.item = 0 ∧ x.count = 0
  pending : ∀ r, d = some r → ∃ v ∈ (t.unit uid).vpend, v.dst = .r r
  regs : NoResult (s.dueUnit uid) (t.unit uid)
  bytes : ∀ core a, t.viewByte core a = s.viewByte core a
  spads : ∀ n a, Memory.read (t.task n).spad a = Memory.read (s.task n).spad a
  rest : { t.shared with nextId := 0 } = { s.shared with nextId := 0 }
  units : ∀ n, n ≠ uid → t.unit n = s.unit n
  cores : ∀ c, (t.core c).still = (s.core c).still
  tasks : ∀ n, (t.task n).still = (s.task n).still

/-- STRM, GTH from memory and from a queue, SCT, HPRB, ISCT and WALK complete at issue where the handle is bound and carries the permission, the queues
are declared, and a stream slot is free: the operation begins in the lowest free slot with its operands as read, and the strand goes on. With no slot
free the instruction waits in place (R288, R299, R309 to R315). -/
def Claim.StreamsStart : Prop :=
  ∀ s h uid e i hn bit a b c d qs, Claim.Streaming h hn i bit a b c d qs → Issues s h i uid e →
    let u : Machine.Unit := s.dueUnit uid
    let k : Task := s.task u.task
    s.activeOf h uid e = 1#64 → (u.handle hn).declared = true → (u.handle hn).valid = true → (u.handle hn).ctl.getLsbD bit = true →
    (∀ q ∈ qs, (k.queues.get q.toNat).isSome) → Claim.fits i k.wq →
    let val (r : Option Reg) : W64 := match r with
      | some y => u.src64 y 0
      | none => 0#64
    ((∃ j, j < 4 ∧ u.streams.get j = none) →
      ∃ t n x, exec i s = .next t ∧ Claim.Started s t uid n e i x d ∧ x.a = val a ∧ x.b = val b ∧ x.c = val c ∧ x.out = [] ∧
        x.finished = false ∧ GoesOn u (t.unit uid) e (lenBytes i.toRaw.len)) ∧
    ((∀ j, j < 4 → (u.streams.get j).isSome) →
      ∃ t, exec i s = .next t ∧ t.unit uid = u ∧ (t.core u.core).cyc = (s.core u.core).cyc + 1#64)

/-- The entry that a QPUT appends: word l is the low half of its first register plus l times the high half, zero in an EMPTY entry, and the tag word is
the second register's under the mask, with END under `.end` (R305). -/
def Claim.putTag (u : Machine.Unit) (fin : Bool) (b : Reg) : W32 :=
  (lo32 (u.src64 b 0) &&& 0x001DFFFF#32) ||| if fin then 0x00010000#32 else 0#32

/-- QPUT, QEND and QEND.X complete at issue on a declared queue with a free stream slot: the operation that is to append their one entry begins, and
after QEND.X the strand issues nothing more (R305, R307). -/
def Claim.AppendsStart : Prop :=
  ∀ s h uid e,
    let u : Machine.Unit := s.dueUnit uid
    let k : Task := s.task u.task
    s.activeOf h uid e = 1#64 → (∃ j, j < 4 ∧ u.streams.get j = none) →
    (∀ fin q a b, Issues s h (.qput h fin q a b) uid e → (k.queues.get q.toNat).isSome →
      ∃ t n x, exec (.qput h fin q a b) s = .next t ∧ Claim.Started s t uid n e (.qput h fin q a b) x none ∧ x.finished = true ∧
        x.out = [([if (Claim.putTag u fin b).getLsbD 20 then List.replicate k.wq 0#32
          else (List.range k.wq).map fun l => lo32 (u.src64 a 0) + BitVec.ofNat 32 l * hi32 (u.src64 a 0)], Claim.putTag u fin b)] ∧
        GoesOn u (t.unit uid) e 8) ∧
    (∀ q, Issues s h (.qend h q) uid e → (k.queues.get q.toNat).isSome →
      ∃ t n x, exec (.qend h q) s = .next t ∧ Claim.Started s t uid n e (.qend h q) x none ∧ x.finished = true ∧
        x.out = [([[]], 0x00110000#32)] ∧ GoesOn u (t.unit uid) e 8) ∧
    (∀ q, Issues s h (.qendX h q) uid e → (∀ n, q = some n → (k.queues.get n.toNat).isSome) →
      ∃ t n x, exec (.qendX h q) s = .next t ∧ Claim.Started s t uid n e (.qendX h q) x none ∧ x.finished = true ∧
        x.out = (match q with
          | some _ => [([[]], 0x00110000#32)]
          | none => []) ∧ (t.unit uid).entryOf 0 = none)

/-- The streaming instructions and QPUT, QEND and QEND.X complete at issue (R299, R305, R307, R309 to R315). -/
def Obligations.StreamingBegins : Prop := Claim.StreamsStart ∧ Claim.AppendsStart

/-- QTAKE completes on a queue of its task that holds an entry without POISON and that no operation of its context consumes from: the register receives a
word of the head entry below its tag word, and under `.pop` the entry is taken. QCLR completes where no operation of its context uses the queue, and
leaves it empty and open (R306, R308). -/
def Obligations.QueueTakesAndClears : Prop :=
  ∀ s h uid e (q : QueueN) qs,
    let u : Machine.Unit := s.dueUnit uid
    let k : Task := s.task u.task
    s.activeOf h uid e = 1#64 → k.queues.get q.toNat = some qs → (∀ x ∈ u.streams.vals, q ∉ consOf x.instr) →
    (∀ pop n a, Issues s h (.qtake h pop (.s n) q a) uid e → (u.src64 a 0).toNat % 64 < k.wq → qs.closed = false → qs.count ≠ 0 →
      let tw : W32 := BitVec.ofNat 32 (Claim.word k qs qs.head k.wq)
      tw.getLsbD 17 = false →
      ∃ t, exec (.qtake h pop (.s n) q a) s = .next t ∧
        RegResult u (t.unit uid) 0 (.s n) (s.activeOf h uid e) (fun _ => tw ++
          (if tw.getLsbD 20 then 0#32 else BitVec.ofNat 32 (Claim.word k qs qs.head ((u.src64 a 0).toNat % 64)))) ∧
        (t.task u.task).queues.get q.toNat = some (if pop then
          { qs with head := (qs.head + 1) % qs.cap, count := qs.count - 1, closed := tw.getLsbD 16 } else qs) ∧
        (t.task u.task).spad = k.spad ∧ GoesOn u (t.unit uid) e 8 ∧ Claim.QueueFrame s t uid q) ∧
    ((∀ x ∈ u.streams.vals, q ∉ prodOf x.instr) → Issues s h (.qclr h q) uid e →
      ∃ t, exec (.qclr h q) s = .next t ∧
        (t.task u.task).queues.get q.toNat = some { qs with head := 0, count := 0, closed := false } ∧
        (t.task u.task).spad = k.spad ∧ NoResult u (t.unit uid) ∧ GoesOn u (t.unit uid) e 8 ∧ Claim.QueueFrame s t uid q)

/-! ### The matrix engine -/

/-- What an engine instruction leaves alone at issue beside its core's engine context, the bank and tile entries of its task and the numbers it
draws: memory, scratchpads, other units, the unit's lanes, other cores and their engines. -/
structure Claim.EngineFrame (s t : State) (uid : Nat) : Prop where
  bytes : ∀ core a, t.viewByte core a = s.viewByte core a
  spads : ∀ k a, Memory.read (t.task k).spad a = Memory.read (s.task k).spad a
  rest : { t.shared with nextId := 0 } = { s.shared with nextId := 0 }
  units : ∀ k, k ≠ uid → t.unit k = s.unit k
  unit : { (t.unit uid).still with vpend := [] } = { (s.dueUnit uid).still with vpend := [] }
  cores : ∀ c, { (t.core c).still with ctx := .none } = { (s.core c).still with ctx := .none }
  engines : ∀ c, c ≠ (s.dueUnit uid).core → (t.core c).ctx = (s.core c).ctx
  tasks : ∀ k, { (t.task k).still with banks := [], tiles := [] } = { (s.task k).still with banks := [], tiles := [] }
  others : ∀ k, k ≠ (s.dueUnit uid).task → (t.task k).banks = (s.task k).banks ∧ (t.task k).tiles = (s.task k).tiles

/-- The engine takes a matrix instruction at once: it is not being reset, and no operation waits for acceptance (R342, R353, R381). -/
def Claim.engineFree (s : State) (uid : Nat) : Prop :=
  let c := s.core (s.dueUnit uid).core
  c.mresetBusy = false ∧ ∀ o ∈ c.ctx.mops, o.accepted = true

/-- The banks of a core that no task holds, lowest first. -/
def Claim.free (c : CoreCtx) : List Nat := (List.range 64).filter fun k => (c.banks.get k).isNone

/-- ACAL completes where none of its names is allocated and enough banks are free: its names map to the lowest free banks, each zeroed, unmarked and
typed as it says; else it raises ACC_UNALLOC with 0x03 (R347, R348, R365). -/
def Claim.BanksAllocate : Prop :=
  ∀ s h uid e i32 a n, Issues s h (.acal h i32 a n) uid e → s.activeOf h uid e ≠ 0#64 → Claim.engineFree s uid →
    let u : Machine.Unit := s.dueUnit uid
    let c : CoreCtx := (s.core u.core).ctx
    let can : Prop := (∀ j : Nat, j ≤ n.toNat → s.bankOf u.task (a.toNat + j) = none) ∧ n.toNat < (Claim.free c).length
    (can → ∃ t, exec (.acal h i32 a n) s = .next t ∧
      (∀ (j k : Nat), j ≤ n.toNat → (Claim.free c)[j]? = some k →
        (t.task u.task).banks.get (a.toNat + j) = some k ∧
        (t.core u.core).ctx.banks.get k =
          some { task := u.task, i32 := i32, ovf := false, cells := [], marks := 0#32, freeing := false }) ∧
      (∀ m, (m < a.toNat ∨ a.toNat + n.toNat < m) → (t.task u.task).banks.get m = (s.task u.task).banks.get m) ∧
      (∀ k, k ∉ (Claim.free c).take (n.toNat + 1) → (t.core u.core).ctx.banks.get k = c.banks.get k) ∧
      { (t.core u.core).ctx with banks := [] } = { c with banks := [] } ∧ (t.task u.task).tiles = (s.task u.task).tiles ∧
      GoesOn u (t.unit uid) e 8 ∧ NoResult u (t.unit uid) ∧ Claim.EngineFrame s t uid) ∧
    (¬ can → RaisesOnActive s h (.acal h i32 a n) uid e 0x23 fun _ => BitVec.ofNat 64 (0x300 + a.toNat))

/-- ACFR completes where its names are allocated in banks of the task that no claim and no operation in flight names: the names and the banks are
free. ACCLM of rows of such a bank, or pair of banks, records a pending claim of its strand on each (R348, R349, R366, R367). The order of
ACCLM's reasons is the model's reading (log entry 12). -/
def Claim.BanksFreeAndClaim : Prop :=
  ∀ s h uid e (a : BankN), s.activeOf h uid e ≠ 0#64 → Claim.engineFree s uid →
    let u : Machine.Unit := s.dueUnit uid
    let c : CoreCtx := (s.core u.core).ctx
    let own (m k : Nat) : Prop := s.bankOf u.task m = some k ∧ (c.bank k).task = u.task ∧ ∀ q ∈ c.claims, q.bank ≠ k
    (∀ n (f : Nat → Nat), Issues s h (.acfr h a n) uid e →
      (∀ j : Nat, j ≤ n.toNat → own (a.toNat + j) (f j) ∧ ∀ o ∈ c.mops, f j ∉ o.banks) →
      ∃ t, exec (.acfr h a n) s = .next t ∧
        (∀ j : Nat, j ≤ n.toNat → (t.task u.task).banks.get (a.toNat + j) = none ∧ (t.core u.core).ctx.banks.get (f j) = none) ∧
        (∀ m, (m < a.toNat ∨ a.toNat + n.toNat < m) → (t.task u.task).banks.get m = (s.task u.task).banks.get m) ∧
        (∀ k, (∀ j, j ≤ n.toNat → k ≠ f j) → (t.core u.core).ctx.banks.get k = c.banks.get k) ∧
        { (t.core u.core).ctx with banks := [] } = { c with banks := [] } ∧ (t.task u.task).tiles = (s.task u.task).tiles ∧
        GoesOn u (t.unit uid) e 8 ∧ NoResult u (t.unit uid) ∧ Claim.EngineFrame s t uid) ∧
    (∀ pair first count k0 k1, Issues s h (.acclm h pair a first count) uid e →
      own a.toNat k0 → (pair = true → a.toNat < 63 ∧ own (a.toNat + 1) k1) → first.toNat + count.toNat ≤ 32 →
      c.claims.length + (if pair then 2 else 1) ≤ 64 →
      let new (m k : Nat) : Machine.Claim :=
        { bank := k, name := m, first := first.toNat, count := count.toNat, owner := none, unit := uid,
          lane := lowest (s.activeOf h uid e) }
      ∃ t, exec (.acclm h pair a first count) s = .next t ∧
        (t.core u.core).ctx = { c with claims := c.claims ++ (new a.toNat k0 :: if pair then [new (a.toNat + 1) k1] else []) } ∧
        (t.task u.task).banks = (s.task u.task).banks ∧ (t.task u.task).tiles = (s.task u.task).tiles ∧
        GoesOn u (t.unit uid) e 16 ∧ NoResult u (t.unit uid) ∧ Claim.EngineFrame s t uid)

/-- ACAL, ACFR and ACCLM complete (R347 to R350, R365 to R367). -/
def Obligations.AccumulatorBanks : Prop := Claim.BanksAllocate ∧ Claim.BanksFreeAndClaim

/-- An operation has been accepted: it stands last among the core's operations, with its banks, the rows it reaches, the entry it fills and the
tiles it has read, `lat` cycles before it may complete, and its lanes go on (R341, R342, R354). -/
structure Claim.Accepted (s t : State) (h : Hdr) (uid : Nat) (e : Entry) (i : Instr) (lat : Nat) (banks : List Nat)
    (rows : List (Nat × Nat × Nat)) (srcs : List (List Byte × List Byte)) (o : MatOp) : Prop where
  last : (t.core (s.dueUnit uid).core).ctx.mops = (s.core (s.dueUnit uid).core).ctx.mops ++ [o]
  what : o.instr = i ∧ o.pc = e.pc ∧ o.unit = uid ∧ o.lane = lowest (s.activeOf h uid e) ∧ o.task = (s.dueUnit uid).task ∧
    o.accepted = true
  reach : o.banks = banks ∧ o.rows = rows ∧ o.srcs = srcs
  time : o.doneAt = (s.core (s.dueUnit uid).core).cyc + BitVec.ofNat 64 lat
  rest : { (t.core (s.dueUnit uid).core).ctx with mops := [], passEnd := 0#64, hold := none, active := .none, shadow := .none } =
    { (s.core (s.dueUnit uid).core).ctx with mops := [], passEnd := 0#64, hold := none, active := .none, shadow := .none }
  goes : GoesOn (s.dueUnit uid) (t.unit uid) e (lenBytes i.toRaw.len)
  regs : NoResult (s.dueUnit uid) (t.unit uid)
  frame : Claim.EngineFrame s t uid

/-- The planes and the tiles are as before. -/
def Claim.planesStay (s t : State) (uid : Nat) : Prop :=
  let c := (s.core (s.dueUnit uid).core).ctx
  let d := (t.core (s.dueUnit uid).core).ctx
  d.hold = c.hold ∧ d.active = c.active ∧ d.shadow = c.shadow

/-- A source tile of a task: its name is declared, its entry holds data, and its header is well formed (R264, R353, R372). -/
def Claim.source (k : Task) (n : Tile) (j : Nat) (ent : TileEnt) : Prop :=
  k.tileKey n.toNat = some j ∧ k.tileEnt j = ent ∧ (ent.st = .ready ∨ ent.st = .draining) ∧ k.tileFault ent n.toNat = none

/-- The header and the payload bytes of a tile as an operation reads them at acceptance (R260, R354). -/
def Claim.tileBytes (k : Task) (ent : TileEnt) : List Byte × List Byte :=
  (Memory.readN k.spad ent.base.toNat 192,
    Memory.readN k.spad (ent.base.toNat + 256) (hdrOf (Memory.readN k.spad ent.base.toNat 192)).count)

/-- MLDS and MLDS.k1 complete where no other task holds the planes: the hold is taken and the operation is in flight. MLDS leaves the shadow plane with
the extents, the kind word and the elements of the tile. MSWP, with no load and no pass in flight, exchanges the planes (R335 to R337, R358, R359). -/
def Obligations.PlanesLoad : Prop :=
  ∀ s h uid e, s.activeOf h uid e ≠ 0#64 → Claim.engineFree s uid →
    let u : Machine.Unit := s.dueUnit uid
    let k : Task := s.task u.task
    let c : CoreCtx := (s.core u.core).ctx
    (c.hold = none ∨ c.hold = some u.task) →
    (∀ n j ent, Claim.source k n j ent →
      let b := Claim.tileBytes k ent
      let hd : TileHdr := hdrOf b.1
      hd.kind ≠ 3 → hd.kind ≠ 7 → hd.sparse ≠ 2 → hd.cols ≤ 64 →
      (Issues s h (.mlds h n) uid e → ∃ t o, exec (.mlds h n) s = .next t ∧
        Claim.Accepted s t h uid e (.mlds h n) 0 [] [] [b] o ∧ (t.task u.task).tiles = k.tiles ∧
        (t.core u.core).ctx.hold = some u.task ∧ (c.hold = some u.task → (t.core u.core).ctx.active = c.active) ∧
        let p := (t.core u.core).ctx.shadow
        p.valid = false ∧ p.kext = hd.erows ∧ p.next = hd.ecols ∧ p.kindw.toNat = hd.kindw % 2 ^ 32 ∧
          (hd.kind ≠ 6 → ∀ r m, m < hd.cols →
            p.vals.get (64 * r + m) = (SMap.get (elemsOf hd b.2) (r * hd.cols + m)).map (BitVec.ofNat 32))) ∧
      (Issues s h (.mldsK1 h n) uid e → c.hold = some u.task → (hd.kind = 4 ∨ hd.kind = 5) → c.shadow.kindw.toNat % 2 ^ 20 = hd.kindw % 2 ^ 20 →
        ∃ t o, exec (.mldsK1 h n) s = .next t ∧ Claim.Accepted s t h uid e (.mldsK1 h n) 0 [] [] [b] o ∧
          (t.task u.task).tiles = k.tiles ∧ (t.core u.core).ctx.hold = some u.task ∧ (t.core u.core).ctx.active = c.active ∧
          let p := (t.core u.core).ctx.shadow
          p.valid = false ∧ p.kindw = c.shadow.kindw ∧ (hd.erows ≠ 0 → p.kext = 64 + hd.erows))) ∧
    (Issues s h (.mswp h) uid e →
      (∀ o ∈ c.mops, match o.instr with
        | .mlds .. => False
        | .mldsK1 .. => False
        | .mma .. => False
        | .mmas .. => False
        | _ => True) →
      ∃ t, exec (.mswp h) s = .next t ∧
        (c.hold = some u.task → (t.core u.core).ctx = { c with active := c.shadow, shadow := c.active }) ∧
        (c.hold = none → (t.core u.core).ctx = { c with hold := some u.task, active := .none, shadow := .none }) ∧
        (t.task u.task).tiles = k.tiles ∧ GoesOn u (t.unit uid) e 8 ∧ NoResult u (t.unit uid) ∧ Claim.EngineFrame s t uid)

/-- The rows that a pass covers: the lanes of Active of a group, the bits of the mask register of a sequencer (R339, R356). -/
def Claim.passRows (s : State) (h : Hdr) (uid : Nat) (e : Entry) (m : BitVec 8) : List Nat :=
  if (s.dueUnit uid).kind = .group then lanesOf (s.activeOf h uid e) else lanesOf ((s.dueUnit uid).src64 (Reg.ofCode m) 0)

/-- The banks of a pass over rows: aN, and aN + 1 where a row number above 31 takes part (R339); each allocated to the task, with no claim on it, and
of the type of the KIND (R338, R350). A unit stands on its task's core. -/
structure Claim.PassBanks (s : State) (uid : Nat) (a : BankN) (rows : List Nat) (i32 : Bool) (k0 k1 : Nat) : Prop where
  low : s.bankOf (s.dueUnit uid).task a.toNat = some k0
  high : (∃ r ∈ rows, 32 ≤ r) → s.bankOf (s.dueUnit uid).task (a.toNat + 1) = some k1
  same : (s.task (s.dueUnit uid).task).core = (s.dueUnit uid).core
  mine : ∀ k, k = k0 ∨ (∃ r ∈ rows, 32 ≤ r) ∧ k = k1 →
    ((s.core (s.dueUnit uid).core).ctx.bank k).task = (s.dueUnit uid).task ∧
    ((s.core (s.dueUnit uid).core).ctx.bank k).i32 = i32 ∧ ∀ q ∈ (s.core (s.dueUnit uid).core).ctx.claims, q.bank ≠ k

/-- The banks and the accumulator rows of row numbers (R339). -/
def Claim.bankList (rows : List Nat) (k0 k1 : Nat) : List Nat := if rows.any (fun r => decide (32 ≤ r)) then [k0, k1] else [k0]

/-- Each row number with its bank and its accumulator row (R339). -/
def Claim.rowList (rows : List Nat) (k0 k1 : Nat) : List (Nat × Nat × Nat) :=
  rows.map fun r => (r, (if r < 32 then k0 else k1), r % 32)

/-- The pairs of stationary and streamed KINDs of MMA and MMAS (R338). -/
def Claim.kinds (p q : Nat) : Prop := (p = 1 ∨ p = 2 ∨ p = 6) ∧ (q = 1 ∨ q = 2) ∨ p = q ∧ (p = 4 ∨ p = 5)

/-- MMA and MMAS complete at issue over banks of their task that no claim covers: with the reservation of an earlier pass past, the pass is accepted over
the rows of the streamed tile, its engine reserved for a step of four rows, or under MMAS of the rate of the plane's N:M, and twelve cycles more. While
an earlier reservation runs it waits (R339, R341, R342, R360). That the second bank is needed only for lanes from 32 on is the model's reading
(log entry 32). -/
def Claim.PassesAccepted : Prop :=
  ∀ s h uid e i sparse set a n m j ent k0 k1,
    (i = Instr.mma h set a n m ∧ sparse = false) ∨ (i = Instr.mmas h set a n m ∧ sparse = true) → Issues s h i uid e →
    s.activeOf h uid e ≠ 0#64 → Claim.engineFree s uid →
    let u : Machine.Unit := s.dueUnit uid
    let k : Task := s.task u.task
    let c : CoreCtx := (s.core u.core).ctx
    let rows := Claim.passRows s h uid e m
    let b := Claim.tileBytes k ent
    let hd : TileHdr := hdrOf b.1
    let pk : Nat := c.active.kindw.toNat
    Claim.PassBanks s uid a rows (decide (pk % 256 = 5)) k0 k1 → Claim.source k n j ent → c.hold = some u.task → c.active.valid = true →
    Claim.kinds (pk % 256) hd.kind → hd.sparse = 0 →
    let some' : List Nat := rows.filter fun r => decide (r < hd.rows)
    let mm : Nat := if pk / 2 ^ 16 % 16 = 0 then 16 else pk / 2 ^ 16 % 16
    let rate : Nat := if sparse = true ∧ pk / 2 ^ 8 % 16 = 1 then min (4 * mm / (pk / 2 ^ 12 % 16)) 16 else 4
    let lat : Nat := (some'.length + rate - 1) / rate + 12
    ((s.core u.core).cyc.ult c.passEnd = false →
      ∃ t o, exec i s = .next t ∧
        Claim.Accepted s t h uid e i lat (Claim.bankList rows k0 k1) (Claim.rowList some' k0 k1) [b] o ∧
        (t.core u.core).ctx.passEnd = (s.core u.core).cyc + BitVec.ofNat 64 lat ∧ (t.task u.task).tiles = k.tiles ∧
        Claim.planesStay s t uid) ∧
    ((s.core u.core).cyc.ult c.passEnd = true →
      ∃ t o, exec i s = .next t ∧ t.unit uid = u ∧ (t.core u.core).cyc = (s.core u.core).cyc + 1#64 ∧
        (t.core u.core).ctx = { c with mops := c.mops ++ [o] } ∧ o.accepted = false ∧ o.turn = true ∧ o.unit = uid ∧ o.instr = i)

/-- The latency of MBMP over a step list: the chunks of sixteen k, each in steps of eight set bits, and twelve cycles more (R341, R343). -/
def Claim.bitmapLat (chunks : Nat) (steps : List Nat) : Nat :=
  ((List.range chunks).map fun c => ((steps.filter fun k => k / 16 == c).length + 7) / 8).sum + 12

/-- MBMP, MHAD and MPRN complete at issue on well-formed sources of the kinds they take, with the reservation past: each is accepted and reserves the
engine; MHAD's tile, and MPRN's EMPTY destination with room for its result, become FILLING (R343, R353, R361 to R363). The second bank and MBMP's
order of checks are the model's reading (log entry 32). -/
def Claim.OtherPassesAccepted : Prop :=
  ∀ s h uid e, s.activeOf h uid e ≠ 0#64 → Claim.engineFree s uid →
    let u : Machine.Unit := s.dueUnit uid
    let k : Task := s.task u.task
    let c : CoreCtx := (s.core u.core).ctx
    (s.core u.core).cyc.ult c.passEnd = false →
    (∀ set a na nb m ja ea jb eb k0 k1, Issues s h (.mbmp h set a na nb m) uid e → Claim.source k na ja ea → Claim.source k nb jb eb →
      let rows := Claim.passRows s h uid e m
      let ba := Claim.tileBytes k ea
      let bb := Claim.tileBytes k eb
      let ha : TileHdr := hdrOf ba.1
      let hb : TileHdr := hdrOf bb.1
      Claim.PassBanks s uid a rows (decide (ha.kind = 5)) k0 k1 → Claim.kinds hb.kind ha.kind → hb.kind ≠ 6 → ha.sparse = 2 → hb.sparse = 2 →
      let steps : List Nat := (List.range hb.erows).filter fun x =>
        ((elemsOf ha ba.2).keys.any fun y => y % ha.cols == x) && (elemsOf hb bb.2).keys.any fun y => y / hb.cols == x
      let lat : Nat := Claim.bitmapLat (if hb.kind = 4 ∨ hb.kind = 5 then 8 else 4) steps
      ∃ t o, exec (.mbmp h set a na nb m) s = .next t ∧
        Claim.Accepted s t h uid e (.mbmp h set a na nb m) lat (Claim.bankList rows k0 k1)
          (Claim.rowList (rows.filter fun r => decide (r < ha.rows)) k0 k1) [ba, bb] o ∧
        (t.core u.core).ctx.passEnd = (s.core u.core).cyc + BitVec.ofNat 64 lat ∧ (t.task u.task).tiles = k.tiles ∧
        Claim.planesStay s t uid) ∧
    (∀ p n j ent, Issues s h (.mhad h p n) uid e → Claim.source k n j ent → ent.st = .ready →
      let b := Claim.tileBytes k ent
      let hd : TileHdr := hdrOf b.1
      let lg : Nat := match p with
        | .p16 => 4
        | .p32 => 5
        | .p64 => 6
      (hd.kind = 1 ∨ hd.kind = 2 ∨ hd.kind = 3) → hd.sparse = 0 → hd.cols % 2 ^ lg = 0 →
      let lat : Nat := (hd.rows + 3) / 4 * lg + 12
      ∃ t o, exec (.mhad h p n) s = .next t ∧ Claim.Accepted s t h uid e (.mhad h p n) lat [] [] [b] o ∧ o.tile = j ∧
        (t.core u.core).ctx.passEnd = (s.core u.core).cyc + BitVec.ofNat 64 lat ∧
        (t.task u.task).tileEnt j = { ent with st := .filling, fault := none } ∧
        (∀ x, x ≠ j → (t.task u.task).tiles.get x = k.tiles.get x) ∧ Claim.planesStay s t uid) ∧
    (∀ n mc tr nd ns jd ed j ent, Issues s h (.mprn h n mc tr nd ns) uid e → Claim.source k ns j ent → k.tileKey nd.toNat = some jd →
      k.tileEnt jd = ed → ed.st = .empty →
      let b := Claim.tileBytes k ent
      let hd : TileHdr := hdrOf b.1
      let mm : Nat := 4 * 2 ^ mc.toNat
      hd.kind ≠ 3 → hd.kind ≠ 7 → hd.sparse = 0 → (tr = true → hd.kind = 6 → (zeroCode hd.codebook).isSome) → hd.rows % mm = 0 →
      (tr = true → hd.cols % mm = 0) → (payloadSize hd.kind 1 hd.rows hd.cols n.toNat mm 0).2 ≤ 256 * ed.cap →
      let lat : Nat := (hd.rows * hd.cols + 255) / 256 + 12 + if tr then 16 else 0
      ∃ t o, exec (.mprn h n mc tr nd ns) s = .next t ∧ Claim.Accepted s t h uid e (.mprn h n mc tr nd ns) lat [] [] [b] o ∧
        o.tile = jd ∧ (t.core u.core).ctx.passEnd = (s.core u.core).cyc + BitVec.ofNat 64 lat ∧
        (t.task u.task).tileEnt jd = { ed with st := .filling, fault := none } ∧
        (∀ x, x ≠ jd → (t.task u.task).tiles.get x = k.tiles.get x) ∧ Claim.planesStay s t uid)

/-- ACZ, ACRD to vector registers and to a scalar register, and ACST into an EMPTY tile with room complete at issue over banks of the task that no claim
covers: the operation is in flight over its rows, the registers that it will write are outstanding, and ACST's tile is FILLING (R354, R368 to R370). -/
def Claim.DrainsAccepted : Prop :=
  ∀ s h uid e (a : BankN), s.activeOf h uid e ≠ 0#64 → Claim.engineFree s uid →
    let u : Machine.Unit := s.dueUnit uid
    let act := s.activeOf h uid e
    let k : Task := s.task u.task
    let c : CoreCtx := (s.core u.core).ctx
    (∀ k0 k1, Claim.PassBanks s uid a [] (c.bank k0).i32 k0 k1 → Issues s h (.acz h a) uid e →
      ∃ t o, exec (.acz h a) s = .next t ∧
        Claim.Accepted s t h uid e (.acz h a) 0 [k0] ((List.range 32).map fun r => (r, k0, r)) [] o ∧ (t.task u.task).tiles = k.tiles ∧
        Claim.planesStay s t uid ∧ (t.unit uid).vpend = u.vpend) ∧
    (∀ g d k0 k1, Claim.PassBanks s uid a (lanesOf act) (c.bank k0).i32 k0 k1 → Issues s h (.acrdVector h g d a) uid e →
      ∃ t o, exec (.acrdVector h g d a) s = .next t ∧
        Claim.Accepted s t h uid e (.acrdVector h g d a) 0 (dedupN ((lanesOf act).map fun r => if r < 32 then k0 else k1))
          (Claim.rowList (lanesOf act) k0 k1) [] o ∧ (t.task u.task).tiles = k.tiles ∧ Claim.planesStay s t uid ∧
        ∀ n : Fin 192, d.val ≤ n.val → n.val < d.val + 16 → ∃ v ∈ (t.unit uid).vpend, v.dst = .r (.v n) ∧ v.mask = act ∧ v.req = o.id) ∧
    (∀ d row col k0 k1, Claim.PassBanks s uid a [row.toNat] (c.bank k0).i32 k0 k1 → Issues s h (.acrdScalar h d a row col) uid e →
      ∃ t o, exec (.acrdScalar h d a row col) s = .next t ∧
        Claim.Accepted s t h uid e (.acrdScalar h d a row col) 0 [k0] [(row.toNat, k0, row.toNat)] [] o ∧
        (t.task u.task).tiles = k.tiles ∧ Claim.planesStay s t uid ∧ ∃ v ∈ (t.unit uid).vpend, v.dst = .r (.s d) ∧ v.req = o.id) ∧
    (∀ kind clamp tr cnt rm n (first : BitVec 5) (rows : BitVec 6) (cols : BitVec 7) j ent k0 k1,
      Claim.PassBanks s uid a [] (c.bank k0).i32 k0 k1 → Issues s h (.acst h kind clamp tr cnt rm n a first rows cols) uid e →
      k.tileKey n.toNat = some j → k.tileEnt j = ent → ent.st = .empty → first.toNat + rows.toNat ≤ 32 → 0 < rows.toNat →
      rows.toNat * cols.toNat * (match kind with
        | .e4m3 => 1
        | .int8 => 1
        | .bf16 => 2
        | .fp16 => 2
        | _ => 4) ≤ 256 * ent.cap →
      ∃ t o, exec (.acst h kind clamp tr cnt rm n a first rows cols) s = .next t ∧
        Claim.Accepted s t h uid e (.acst h kind clamp tr cnt rm n a first rows cols) 0 [k0]
          ((List.range rows.toNat).map fun r => (first.toNat + r, k0, first.toNat + r)) [] o ∧ o.tile = j ∧
        (t.task u.task).tileEnt j = { ent with st := .filling, fault := none } ∧
        (∀ x, x ≠ j → (t.task u.task).tiles.get x = k.tiles.get x) ∧ Claim.planesStay s t uid ∧
        ∀ r, cnt = some r → ∃ v ∈ (t.unit uid).vpend, v.dst = .r r ∧ v.req = o.id)

/-- MSTAT completes with the state of the planes, of a bank, of its marks or of the engine; MWAIT completes once no matrix operation of its unit is in
flight, and until then waits in place (R336, R347, R371). -/
def Claim.MatrixStatus : Prop :=
  ∀ s h uid e,
    let u : Machine.Unit := s.dueUnit uid
    let act := s.activeOf h uid e
    let core : Core := s.core u.core
    let c : CoreCtx := core.ctx
    let bit (b : Prop) [Decidable b] (n : Nat) : Nat := if b then 2 ^ n else 0
    (∀ d, Issues s h (.mstat h .plane (.s d)) uid e → ∃ t, exec (.mstat h .plane (.s d)) s = .next t ∧
      RegResult u (t.unit uid) 0 (.s d) act (fun _ => BitVec.ofNat 64 (bit (c.active.valid = true) 63 + bit (c.shadow.valid = true) 62
        + bit (c.mops.any (fun o => o.accepted && match o.instr with
            | .mlds .. => true
            | .mldsK1 .. => true
            | _ => false) = true) 61
        + 2 ^ 40 * c.active.kext + 2 ^ 32 * c.active.next + c.active.kindw.toNat)) ∧
      GoesOn u (t.unit uid) e 8 ∧ Leaves (s.due uid) t uid) ∧
    (∀ d a, Issues s h (.mstat h (.bank a) (.s d)) uid e → ∃ t v, exec (.mstat h (.bank a) (.s d)) s = .next t ∧
      RegResult u (t.unit uid) 0 (.s d) act (fun _ => v) ∧
      (s.bankOf u.task a.toNat = none → v = 0#64) ∧
      (∀ k, s.bankOf u.task a.toNat = some k →
        v.extractLsb' 30 2 = (if (c.bank k).i32 then 2#2 else 1#2) ∧ v.getLsbD 29 = (c.bank k).ovf ∧ v.extractLsb' 0 29 = 0#29 ∧
        ∀ r, r < 32 → v.getLsbD (32 + r) = c.claims.any fun q => q.owner.isSome && (q.bank == k && decide (q.first ≤ r ∧ r < q.first + q.count))) ∧
      GoesOn u (t.unit uid) e 8 ∧ Leaves (s.due uid) t uid) ∧
    (∀ d a k, Issues s h (.mstat h (.mark a) (.s d)) uid e → s.bankOf u.task a.toNat = some k → (c.bank k).task = u.task →
      (∀ q ∈ c.claims, q.bank ≠ k) → ∃ t, exec (.mstat h (.mark a) (.s d)) s = .next t ∧
      RegResult u (t.unit uid) 0 (.s d) act (fun _ => BitVec.ofNat 64 ((List.range 32).countP fun r => (c.bank k).marks.getLsbD r)) ∧
      GoesOn u (t.unit uid) e 8 ∧ Leaves (s.due uid) t uid) ∧
    (∀ d, Issues s h (.mstat h .busy (.s d)) uid e → ∃ t, exec (.mstat h .busy (.s d)) s = .next t ∧
      RegResult u (t.unit uid) 0 (.s d) act (fun _ => BitVec.ofNat 64 (bit (∃ o ∈ c.mops, o.unit = uid ∧ o.lane = lowest act) 0
        + bit (core.cyc.ult c.passEnd = true) 1)) ∧
      GoesOn u (t.unit uid) e 8 ∧ Leaves (s.due uid) t uid) ∧
    (Issues s h (.mwait h) uid e →
      (act = 0#64 ∨ (∀ o ∈ c.mops, o.unit ≠ uid) →
        ∃ t, exec (.mwait h) s = .next t ∧ GoesOn u (t.unit uid) e 8 ∧ NoResult u (t.unit uid) ∧ Leaves (s.due uid) t uid) ∧
      (act ≠ 0#64 → (∃ o ∈ c.mops, o.unit = uid) →
        ∃ t, exec (.mwait h) s = .next t ∧ t.unit uid = u ∧ (t.core u.core).cyc = (s.core u.core).cyc + 1#64))

/-- ACZ, ACRD, ACST, MSTAT and MWAIT complete (R354, R368 to R371). -/
def Obligations.DrainsAndStatus : Prop := Claim.DrainsAccepted ∧ Claim.MatrixStatus

/-! ### The copy engine -/

/-- The descriptor that CPL and CPS read (R270, R271, R276): 128 bytes at an aligned address of global memory as the core reads it, or under `.dsp` of
the task's scratchpad. -/
def Claim.DescAt (s : State) (h : Hdr) (uid : Nat) (e : Entry) (dsp : Bool) (a : W64) (bs : List Byte) : Prop :=
  if dsp then a.toNat % 2 ^ 20 % 128 = 0 ∧ a.toNat % 2 ^ 20 + 128 ≤ (s.task (s.dueUnit uid).task).spadSize ∧
    bs = Memory.readN (s.task (s.dueUnit uid).task).spad (a.toNat % 2 ^ 20) 128
  else a.toNat % 128 = 0 ∧ ∃ pas, (s.due uid).laneXlat uid a 128 .r = .ok pas ∧
    (∀ p ∈ pas, remotePkg s p = none ∧ s.byteWaits (s.dueUnit uid).core p = false ∧
      (s.core (s.dueUnit uid).core).farByte uid (lowest (s.activeOf h uid e)) p = .absent) ∧
    bs = pas.map fun p => s.viewByte (s.dueUnit uid).core p

/-- The five coordinates of a box, signed halves of three scalar registers in a row (R268, R270). -/
def Claim.coords (u : Machine.Unit) (n : Nat) : List Int :=
  [(lo32 (u.s n)).toInt, (hi32 (u.s n)).toInt, (lo32 (u.s (n + 1))).toInt, (hi32 (u.s (n + 1))).toInt, (lo32 (u.s (n + 2))).toInt]

/-- The entry that a fill's destination names: a tile's, or the slot at the write pointer of a ring that has been laid out (R271, R278). -/
def Claim.dest (k : Task) (r : TileRef) (j : Nat) : Prop :=
  match r with
  | .tile n => k.tileKey n.toNat = some j
  | .ring r => ∃ g, k.rings.get r.toNat = some g ∧ g.init = true ∧ j = g.first + g.wptr

/-- A pointer of a ring moved on by one slot, its phase turned where it comes back to slot 0 (R278). -/
def Claim.moved (p : Nat) (ph : Bool) (count : Nat) : Nat × Bool :=
  ((p + 1) % count, if (p + 1) % count = 0 then !ph else ph)

/-- A fill has begun (R271): its entry is FILLING, in phase 0 for a tile and in the write phase for a ring's slot, a ring's write pointer has moved on,
and no other entry and no other ring has changed. -/
structure Claim.FillBegun (k k' : Task) (r : TileRef) (j : Nat) : Prop where
  tiles : ∀ x, x ≠ j → k'.tiles.get x = k.tiles.get x
  tile : ∀ n, r = .tile n → k'.tileEnt j = { k.tileEnt j with st := .filling, phase := false, fault := none } ∧ k'.rings = k.rings
  ring : ∀ n g, r = .ring n → k.rings.get n.toNat = some g →
    k'.tileEnt j = { k.tileEnt j with st := .filling, phase := g.wph, fault := none } ∧
    k'.rings.get n.toNat = some { g with wptr := (Claim.moved g.wptr g.wph g.count).1, wph := (Claim.moved g.wptr g.wph g.count).2 } ∧
    ∀ x, x ≠ n.toNat → k'.rings.get x = k.rings.get x

/-- A copy of an instruction is in flight on its core. -/
structure Claim.InFlight (s t : State) (h : Hdr) (uid : Nat) (e : Entry) (j id : Nat) (o : CopyOp) : Prop where
  there : (t.core (s.dueUnit uid).core).ctx.copies.get id = some o
  whose : o.unit = uid ∧ o.lane = lowest (s.activeOf h uid e) ∧ o.task = (s.dueUnit uid).task ∧ o.pc = e.pc ∧ o.tile = j
  goes : GoesOn (s.dueUnit uid) (t.unit uid) e 16
  regs : NoResult (s.dueUnit uid) (t.unit uid)
  spads : ∀ n a, Memory.read (t.task n).spad a = Memory.read (s.task n).spad a
  units : ∀ n, n ≠ uid → t.unit n = s.unit n
  lanes : (t.unit uid).lanes = (s.dueUnit uid).lanes
  tasks : ∀ n, n ≠ (s.dueUnit uid).task → (t.task n).still = (s.task n).still

/-- CPL, CPS, CPF and CPX complete at issue with their checks passed: CPL, CPF and CPX begin a fill of an EMPTY entry with room, and CPS begins a store of
a READY tile or read slot, which is DRAINING and, of a ring, moves the read pointer on; each goes on in the background (R270 to R274). Zero
extents, the scales of a fill and the fields that CPX copies are the model's reading (log entries 17 to 19). -/
def Claim.CopiesStart : Prop :=
  ∀ s h uid e, s.activeOf h uid e ≠ 0#64 →
    let u : Machine.Unit := s.dueUnit uid
    let k : Task := s.task u.task
    (∀ aon dsp ext dest a (b : Fin 64) j bs, Issues s h (.cpl h aon dsp ext dest a (.s b)) uid e →
      Claim.dest k dest j → Claim.DescAt s h uid e dsp (u.src64 a 0) bs → b.val + 2 < 64 →
      let ex : Option Nat := ext.map fun r => (u.src32 r 0).toNat
      let d : Desc := descOf bs (Claim.coords u b.val) ex
      descBad bs d true aon = none → (d.image = true ∨ d.loadHdr.count ≤ 256 * (k.tileEnt j).cap) → d.zeroBox = false →
      (k.tileEnt j).st = .empty →
      ∃ t id o, exec (.cpl h aon dsp ext dest a (.s b)) s = .next t ∧ Claim.InFlight s t h uid e j id o ∧ o.kind = .load aon ∧ o.desc = bs ∧
        o.coords = Claim.coords u b.val ∧ o.ext = ex ∧ Claim.FillBegun k (t.task u.task) dest j ∧
        (aon = false → (∀ c p, t.viewByte c p = s.viewByte c p) ∧ ∀ p, t.homeByte p = s.homeByte p)) ∧
    (∀ keep aon dsp src a (b : Fin 64) j bs, Issues s h (.cps h keep aon dsp src a (.s b)) uid e →
      (match src with
        | .tile n => k.tileKey n.toNat = some j ∧ (k.tileEnt j).st = .ready
        | .ring r => ∃ g, k.rings.get r.toNat = some g ∧ g.init = true ∧ j = g.first + g.rptr) →
      Claim.DescAt s h uid e dsp (u.src64 a 0) bs → b.val + 2 < 64 →
      let d : Desc := descOf bs (Claim.coords u b.val) none
      descBad bs d false aon = none →
      ((∀ r, src = .ring r → (k.tileEnt j).st = .ready ∧ ∃ g, k.rings.get r.toNat = some g ∧ (k.tileEnt j).phase = g.rph) →
        (∀ x, k.tileFault (k.tileEnt j) x = none) →
        let hb : List Byte := Memory.readN k.spad (k.tileEnt j).base.toNat 256
        sourceMismatch d (hdrOf hb) = none → (d.image = true ∨ (d.storeBox (hdrOf hb)).isSome) →
        ∃ t id o, exec (.cps h keep aon dsp src a (.s b)) s = .next t ∧ Claim.InFlight s t h uid e j id o ∧ o.kind = .store keep aon ∧
          o.desc = bs ∧ o.coords = Claim.coords u b.val ∧ o.hdr = hb ∧ o.count = (hdrOf hb).count ∧
          (t.task u.task).tileEnt j = { k.tileEnt j with st := .draining } ∧
          (∀ x, x ≠ j → (t.task u.task).tiles.get x = k.tiles.get x) ∧
          (∀ n, src = .tile n → (t.task u.task).rings = k.rings) ∧
          ∀ r g, src = .ring r → k.rings.get r.toNat = some g → (t.task u.task).rings.get r.toNat =
            some { g with rptr := (Claim.moved g.rptr g.rph g.count).1, rph := (Claim.moved g.rptr g.rph g.count).2 }) ∧
      (∀ r g, src = .ring r → k.rings.get r.toNat = some g → ((k.tileEnt j).st ≠ .ready ∨ (k.tileEnt j).phase ≠ g.rph) →
        ∃ t, exec (.cps h keep aon dsp src a (.s b)) s = .next t ∧ NoResult u (t.unit uid) ∧
          ∀ l, hasLane (s.activeOf h uid e) l = true → (t.unit uid).stands l e.pc e.prio (some (.cps keep aon dsp r a (.s b))))) ∧
    (∀ dest a b kindw j, Issues s h (.cpf h dest a b kindw) uid e → Claim.dest k dest j →
      let rows : Nat := (u.src64 b 0).toNat % 2 ^ 16
      let cols : Nat := (u.src64 b 0).toNat / 2 ^ 16 % 2 ^ 16
      fillBad kindw rows cols = none → 0 < rows → 0 < cols →
      (rows * cols * kindBits (kindw.toNat % 256) + 7) / 8 ≤ 256 * (k.tileEnt j).cap → (k.tileEnt j).st = .empty →
      ∃ t id o, exec (.cpf h dest a b kindw) s = .next t ∧ Claim.InFlight s t h uid e j id o ∧ o.kind = .fill kindw ∧ o.a = u.src64 a 0 ∧
        o.b = u.src64 b 0 ∧ Claim.FillBegun k (t.task u.task) dest j ∧ (∀ c p, t.viewByte c p = s.viewByte c p) ∧
        ∀ p, t.homeByte p = s.homeByte p) ∧
    (∀ tr dest (src : Tile) j m, Issues s h (.cpx h tr dest src) uid e → Claim.dest k dest j → k.tileKey src.toNat = some m →
      ((k.tileEnt m).st = .ready ∨ (k.tileEnt m).st = .draining) → k.tileFault (k.tileEnt m) src.toNat = none →
      let hb : List Byte := Memory.readN k.spad (k.tileEnt m).base.toNat 256
      (tr = true → (hdrOf hb).sparse = 0) → (hdrOf hb).count ≤ 256 * (k.tileEnt j).cap → (k.tileEnt j).st = .empty →
      ∃ t id o, exec (.cpx h tr dest src) s = .next t ∧ Claim.InFlight s t h uid e j id o ∧ o.kind = .move tr m ∧ o.hdr = hb ∧
        o.count = (hdrOf hb).count ∧ Claim.FillBegun k (t.task u.task) dest j ∧ (∀ c p, t.viewByte c p = s.viewByte c p) ∧
        ∀ p, t.homeByte p = s.homeByte p)

/-- CPW waits in place while a copy of its unit is in flight. Then it completes: with a fault held from a store it raises that on each lane of Active;
where a copy has written global memory it drops from the core's L1 every clean byte that no later fill brought; else it does nothing more
(R46, R47, R275, R277). -/
def Claim.CopyWait : Prop :=
  ∀ s h uid e, Issues s h (.cpw h) uid e → s.activeOf h uid e ≠ 0#64 →
    let u : Machine.Unit := s.dueUnit uid
    let c : Core := s.core u.core
    ((∃ o ∈ c.ctx.copies.vals, o.unit = uid) →
      ∃ t, exec (.cpw h) s = .next t ∧ t.unit uid = u ∧ (t.core u.core).cyc = c.cyc + 1#64) ∧
    ((∀ o ∈ c.ctx.copies.vals, o.unit ≠ uid) →
      (∀ cause info, u.copyFault = some (cause, info) → ∃ t, exec (.cpw h) s = .next t ∧ (t.unit uid).copyFault = none ∧
        (∀ l, hasLane (s.activeOf h uid e) l = true →
          TookTrap u (t.unit uid) ((s.due uid).vector uid) l e.pc cause info) ∧ NoResult u (t.unit uid) ∧
        ∀ p q, t.viewByte p q = s.viewByte p q) ∧
      (u.copyFault = none → u.copyWrote = true → ∃ t, exec (.cpw h) s = .next t ∧ (t.unit uid).copyWrote = false ∧
        (t.core u.core).edgeStamp = c.fillCtr.toNat ∧
        (∀ a b, (a, b) ∈ (t.core u.core).l1 ↔ (a, b) ∈ c.l1 ∧ (b.dirty = true ∨ ∃ n, b.stamp = some n ∧ c.fillCtr.toNat ≤ n)) ∧
        GoesOn u (t.unit uid) e 8 ∧ NoResult u (t.unit uid) ∧ (∀ p, t.homeByte p = s.homeByte p) ∧ ∀ n, n ≠ uid → t.unit n = s.unit n) ∧
      (u.copyFault = none → u.copyWrote = false → ∃ t, exec (.cpw h) s = .next t ∧ GoesOn u (t.unit uid) e 8 ∧ NoResult u (t.unit uid) ∧
        Leaves (s.due uid) t uid))

/-- CPL, CPS, CPF, CPX and CPW complete (R270 to R277). -/
def Obligations.CopyInstructions : Prop := Claim.CopiesStart ∧ Claim.CopyWait

/-! ### Rings and tiles -/

/-- What a ring or tile instruction leaves alone beside the entries, the rings and the registers that it writes: memory, scratchpads, other units, other
tasks, cores and everything else. -/
structure Claim.TileFrame (s t : State) (uid : Nat) : Prop where
  bytes : ∀ core a, t.viewByte core a = s.viewByte core a
  shared : t.shared = s.shared
  units : ∀ k, k ≠ uid → t.unit k = s.unit k
  unit : { (t.unit uid).still with vpend := [] } = { (s.dueUnit uid).still with vpend := [] }
  cores : ∀ c, (t.core c).still = (s.core c).still
  tasks : ∀ k, k ≠ (s.dueUnit uid).task → (t.task k).still = (s.task k).still
  task : { (t.task (s.dueUnit uid).task).still with tiles := [], rings := [] } =
    { (s.task (s.dueUnit uid).task).still with tiles := [], rings := [] }

/-- AWF completes on a ring whose read slot is READY in its phase, with the slot's word in its register, and waits otherwise; RLS empties such a slot and
moves the read pointer on, and else raises RING_MISUSE 0x02; RSTA reads the ring's word; RINI lays a ring out over new slots, or over its own, and makes
each EMPTY in phase 0 (R278 to R282). What RINI keeps and waits for is the model's reading (log entry 28). -/
def Claim.RingInstructions : Prop :=
  ∀ s h uid e (r : Ring) g, s.activeOf h uid e ≠ 0#64 →
    let u : Machine.Unit := s.dueUnit uid
    let act := s.activeOf h uid e
    let k : Task := s.task u.task
    k.rings.get r.toNat = some g →
    let j : Nat := g.first + g.rptr
    let ent : TileEnt := k.tileEnt j
    let ready : Prop := ent.st = .ready ∧ ent.phase = g.rph
    let hd : TileHdr := hdrOf (Memory.readN k.spad ent.base.toNat 192)
    (∀ d, Issues s h (.awf h d r) uid e → g.init = true →
      (ready → ent.fault = none →
        ∃ t, exec (.awf h d r) s = .next t ∧
          (∀ n, d = some (.s n) → RegResult u (t.unit uid) 0 (.s n) act fun _ => BitVec.ofNat 64 (hd.count % 2 ^ 16 + 2 ^ 16 * j +
            2 ^ 24 * (hd.status % 2) + 2 ^ 25 * (hd.status / 4 % 2) + 2 ^ 26 * (hd.status / 2 % 2))) ∧
          (d = none → NoResult u (t.unit uid)) ∧ GoesOn u (t.unit uid) e 8 ∧ (t.task u.task).still = k.still ∧ Claim.TileFrame s t uid) ∧
      (¬ ready → ∃ t, exec (.awf h d r) s = .next t ∧ NoResult u (t.unit uid) ∧
        (∀ l, hasLane act l = true → (t.unit uid).stands l e.pc e.prio (some (.awf d r))) ∧ (t.task u.task).still = k.still ∧
        Claim.TileFrame s t uid)) ∧
    (Issues s h (.rlsRing h r) uid e → g.init = true →
      (ready → ∃ t, exec (.rlsRing h r) s = .next t ∧ (t.task u.task).tileEnt j = { ent with st := .empty, fault := none } ∧
        (∀ x, x ≠ j → (t.task u.task).tiles.get x = k.tiles.get x) ∧
        (t.task u.task).rings.get r.toNat =
          some { g with rptr := (Claim.moved g.rptr g.rph g.count).1, rph := (Claim.moved g.rptr g.rph g.count).2 } ∧
        (∀ x, x ≠ r.toNat → (t.task u.task).rings.get x = k.rings.get x) ∧ GoesOn u (t.unit uid) e 8 ∧ NoResult u (t.unit uid) ∧
        Claim.TileFrame s t uid) ∧
      (¬ ready → RaisesOnActive s h (.rlsRing h r) uid e 0x21 fun _ => BitVec.ofNat 64 (0x200 + r.toNat))) ∧
    (∀ n, Issues s h (.rsta h (.s n) r) uid e → g.init = true → ∃ t v, exec (.rsta h (.s n) r) s = .next t ∧
      RegResult u (t.unit uid) 0 (.s n) act (fun _ => v) ∧
      (g.rptr < 16 → g.wptr < 16 → g.count < 32 → g.first < 64 →
        v.extractLsb' 0 4 = BitVec.ofNat 4 g.rptr ∧ v.getLsbD 4 = g.rph ∧ v.extractLsb' 8 4 = BitVec.ofNat 4 g.wptr ∧ v.getLsbD 12 = g.wph ∧
        v.extractLsb' 16 5 = BitVec.ofNat 5 g.count ∧ v.extractLsb' 24 6 = BitVec.ofNat 6 g.first ∧ v.getLsbD 32 = g.rev ∧
        ∀ x, x < g.count → x < 16 → v.getLsbD (48 + x) = decide ((k.tileEnt (g.first + x)).st = .ready)) ∧
      GoesOn u (t.unit uid) e 8 ∧ Leaves (s.due uid) t uid) ∧
    (∀ tn count, Issues s h (.rini h r tn count) uid e →
      let n : Nat := if count = 0#5 then g.count else count.toNat
      let first : Nat := if count = 0#5 then g.first else tn.toNat
      2 ≤ n → n ≤ 16 → first + n ≤ k.tiles.length →
      (∀ x, (g.first ≤ x ∧ x < g.first + g.count ∨ first ≤ x ∧ x < first + n) →
        (k.tileEnt x).st ≠ .filling ∧ (k.tileEnt x).st ≠ .draining) →
      ∃ t, exec (.rini h r tn count) s = .next t ∧
        (t.task u.task).rings.get r.toNat =
          some { init := true, first := first, count := n, rptr := 0, rph := false, wptr := 0, wph := false, rev := false } ∧
        (∀ x, x ≠ r.toNat → (t.task u.task).rings.get x = k.rings.get x) ∧
        (∀ x, first ≤ x → x < first + n → (t.task u.task).tileEnt x =
          { k.tileEnt x with st := .empty, phase := false, ring := some r, fault := none }) ∧
        (∀ x, ¬ (first ≤ x ∧ x < first + n) → (t.task u.task).tileEnt x =
          if g.first ≤ x ∧ x < g.first + g.count ∧ (k.tileEnt x).ring = some r then { k.tileEnt x with ring := none } else k.tileEnt x) ∧
        GoesOn u (t.unit uid) e (lenBytes (Instr.rini h r tn count).toRaw.len) ∧ NoResult u (t.unit uid) ∧ Claim.TileFrame s t uid)

/-- RLS of a tile empties one that is READY; TSTA reads an entry's word, or a word of its header; TBIND.sp binds a free entry to a slot of scratchpad,
TBIND.rd and TBIND.wr a name to a slot of a ring, and TBIND.self a name to its own entry (R258, R260, R281, R283, R284). -/
def Claim.TileInstructions : Prop :=
  ∀ s h uid e (tn : Tile) j, s.activeOf h uid e ≠ 0#64 →
    let u : Machine.Unit := s.dueUnit uid
    let act := s.activeOf h uid e
    let k : Task := s.task u.task
    k.tileKey tn.toNat = some j →
    let ent : TileEnt := k.tileEnt j
    let sets (t : State) (x : Nat) (y : TileEnt) (len : Nat) : Prop :=
      (t.task u.task).tileEnt x = y ∧ (∀ z, z ≠ x → (t.task u.task).tiles.get z = k.tiles.get z) ∧ (t.task u.task).rings = k.rings ∧
        GoesOn u (t.unit uid) e len ∧ NoResult u (t.unit uid) ∧ Claim.TileFrame s t uid
    (Issues s h (.rlsTile h tn) uid e → ent.st = .ready →
      ∃ t, exec (.rlsTile h tn) s = .next t ∧ sets t j { ent with st := .empty, fault := none } 8) ∧
    (∀ sel n, Issues s h (.tsta h sel (.s n) tn) uid e → ∃ t, exec (.tsta h sel (.s n) tn) s = .next t ∧
      RegResult u (t.unit uid) 0 (.s n) act (fun _ =>
        if sel = 0#3 then BitVec.ofNat 64 (2 ^ 24 * ent.base.toNat + 2 ^ 16 * ent.cap + (match ent.ring with
            | some r => 2 ^ 12 * r.toNat + 2 ^ 11
            | none => 0) + (if ent.phase then 2 ^ 10 else 0) + 2 ^ 8 * (match ent.st with
            | .empty => 0
            | .filling => 1
            | .ready => 2
            | .draining => 3) + j)
        else BitVec.ofNat 64 (bytesVal (Memory.readN k.spad (ent.base.toNat + 4 * (sel.toNat - 1)) 4))) ∧
      GoesOn u (t.unit uid) e 8 ∧ Leaves (s.due uid) t uid) ∧
    (∀ a cap, Issues s h (.tbindSp h tn a cap) uid e → ent.st ≠ .filling → ent.st ≠ .draining →
      let base : Nat := (u.src64 a 0).toNat % 2 ^ 20
      let ok : Prop := base % 256 = 0 ∧ cap.toNat % 256 = 0 ∧ cap.toNat ≤ 16384 ∧ base + 256 + cap.toNat ≤ k.spadSize
      (ok → ∃ t, exec (.tbindSp h tn a cap) s = .next t ∧
        sets t j { ent with base := BitVec.ofNat 20 base, cap := cap.toNat / 256, st := .empty, fault := none }
          (lenBytes (Instr.tbindSp h tn a cap).toRaw.len)) ∧
      (¬ ok → RaisesOnActive s h (.tbindSp h tn a cap) uid e 0x07 fun _ => BitVec.ofNat 64 base)) ∧
    (∀ r g, k.rings.get r.toNat = some g → g.init = true →
      (Issues s h (.tbindRd h tn r) uid e → ∃ t, exec (.tbindRd h tn r) s = .next t ∧
        sets t tn.toNat { k.tileEnt tn.toNat with aliasOf := g.first + g.rptr } (lenBytes (Instr.tbindRd h tn r).toRaw.len)) ∧
      (Issues s h (.tbindWr h tn r) uid e → ∃ t, exec (.tbindWr h tn r) s = .next t ∧
        sets t tn.toNat { k.tileEnt tn.toNat with aliasOf := g.first + g.wptr } (lenBytes (Instr.tbindWr h tn r).toRaw.len))) ∧
    (Issues s h (.tbindSelf h tn) uid e → ∃ t, exec (.tbindSelf h tn) s = .next t ∧
      sets t tn.toNat { k.tileEnt tn.toNat with aliasOf := tn.toNat } (lenBytes (Instr.tbindSelf h tn).toRaw.len))

/-- AWF, RLS, RSTA, RINI, TSTA and TBIND complete (R278 to R284). -/
def Obligations.RingsAndTiles : Prop := Claim.RingInstructions ∧ Claim.TileInstructions

/-! ### Completions of the engines -/

/-- An accepted operation stands first of its number among a core's operations, its latency is past, and no earlier one is on a bank of its own
(R341, R354). -/
def Claim.mayComplete (s : State) (core op : Nat) (o : MatOp) : Prop :=
  ∃ pre post, (s.core core).ctx.mops = pre ++ o :: post ∧ o.accepted = true ∧ o.id = op ∧ (s.core core).cyc.ult o.doneAt = false ∧
    ∀ p ∈ pre, p.accepted = true → p.id ≠ op ∧ ∀ b ∈ p.banks, b ∉ o.banks

/-- Element k of row i of a streamed INT8 tile, and of column n of the active plane, as signed numbers (R335, R345). -/
def Claim.xInt (o : MatOp) (i k : Nat) : Int :=
  let hd := hdrOf (o.srcs.getD 0 ([], [])).1
  sgnOf 8 (if k < hd.cols then (SMap.get (elemsOf hd (o.srcs.getD 0 ([], [])).2) (i * hd.cols + k)).getD 0 else 0)

/-- The value of a plane's element as a signed number. -/
def Claim.yInt (p : Plane) (k n : Nat) : Int := sgnOf 8 ((p.vals.get (64 * k + n)).getD 0#32).toNat

/-- MATRIX_OPERATION_COMPLETION completes an operation that may: a load of the shadow plane validates it where no other load is in flight; an ACZ of a
whole bank zeroes it; an INT8 pass adds to each cell of each of its rows the sum of the products, modulo 2^32, or writes that sum under SET; a drain to
registers writes the cells, a marked row as 0x7FC0_0000; MHAD, MPRN and ACST make their tile READY. The operation is then done (R336, R345, R354 to
R358, R360, R368 to R370, R373). When planes, banks and tiles are read is the model's reading (log entry 34). -/
def Obligations.MatrixCompletions : Prop :=
  ∀ s core op o, Claim.mayComplete s core op o →
    let c : CoreCtx := (s.core core).ctx
    let k : Task := s.task o.task
    ∃ t, exec (.matrixOperationCompletion core op) s = .next t ∧ (∀ p ∈ (t.core core).ctx.mops, p.accepted = true → p.id ≠ op) ∧
      (∀ p ∈ (t.core core).ctx.mops, p ∈ c.mops) ∧ (∀ p ∈ c.mops, p.id ≠ op → p ∈ (t.core core).ctx.mops) ∧
      (∀ x a, t.viewByte x a = s.viewByte x a) ∧ (∀ a, t.homeByte a = s.homeByte a) ∧ (∀ n, n ≠ o.unit → t.unit n = s.unit n) ∧
      (∀ h n, (o.instr = .mlds h n ∨ o.instr = .mldsK1 h n) →
        (∀ p ∈ c.mops, p.accepted = true → p.id ≠ op → match p.instr with
          | .mlds .. => False
          | .mldsK1 .. => False
          | _ => True) →
        (t.core core).ctx.shadow = { c.shadow with valid := true } ∧ (t.core core).ctx.active = c.active ∧ (t.core core).ctx.banks = c.banks) ∧
      (∀ h a b old, o.instr = .acz h a → o.rows = (List.range 32).map (fun r => (r, b, r)) → c.banks.get b = some old →
        ∃ new, (t.core core).ctx.banks.get b = some new ∧ new.marks = 0#32 ∧ new.ovf = false ∧ new.i32 = old.i32 ∧ new.task = old.task ∧
          ∀ r m, r < 32 → m < 64 → new.cells.get (64 * r + m) = none) ∧
      (∀ h set a tn m b old i r, o.instr = .mma h set a tn m → o.rows = [(i, b, r)] → c.banks.get b = some old →
        c.active.kindw.toNat % 256 = 5 → (hdrOf (o.srcs.getD 0 ([], [])).1).kind = 5 → c.active.next ≤ 64 → c.active.kext ≤ 128 →
        ∃ new, (t.core core).ctx.banks.get b = some new ∧
          (∀ n, n < c.active.next → (new.cells.get (64 * r + n)).getD 0#32 =
            (if set then 0#32 else (old.cells.get (64 * r + n)).getD 0#32) +
              BitVec.ofInt 32 (((List.range c.active.kext).map fun x => Claim.xInt o i x * Claim.yInt c.active x n).sum)) ∧
          (∀ q, (∀ n, n < c.active.next → q ≠ 64 * r + n) → new.cells.get q = old.cells.get q) ∧
          new.marks.getLsbD r = (!set && old.marks.getLsbD r)) ∧
      (∀ h d a row col b r l, o.instr = .acrdScalar h d a row col → o.rows = [(l, b, r)] →
        (s.unit o.unit).vpend.filter (fun v => v.req == op) = [{ dst := .r (.s d), mask := 1#64, req := op }] →
        (s.unit o.unit).runAhead = none →
        (∀ n x, (t.unit o.unit).regAt n (.s d) x =
          let cell : W32 := if (c.bank b).i32 = false ∧ (c.bank b).marks.getLsbD r = true then 0x7FC00000#32
            else ((c.bank b).cells.get (64 * r + col.toNat)).getD 0#32
          if (c.bank b).i32 then cell.signExtend 64 else cell.setWidth 64) ∧
        (∀ n q x, x < 64 → q ≠ .s d → (t.unit o.unit).regAt n q x = (s.unit o.unit).regAt n q x) ∧
        ∀ v ∈ (t.unit o.unit).vpend, v.req ≠ op) ∧
      (∀ h g (d : Fin 192) a m (f : Nat → Nat × Nat), o.instr = .acrdVector h g d a → o.rows = (lanesOf m).map (fun l => (l, (f l).1, (f l).2)) →
        (s.unit o.unit).vpend.filter (fun v => v.req == op) = (acrdRegs d).map (fun y => { dst := y, mask := m, req := op }) →
        (s.unit o.unit).runAhead = none → d.val + 16 ≤ 192 →
        ∀ (j : Nat) (n : Fin 192) l q, j < 16 → n.val = d.val + j → hasLane m l = true → (t.unit o.unit).regAt q (.v n) l =
          (if (c.bank (f l).1).i32 = false ∧ (c.bank (f l).1).marks.getLsbD (f l).2 = true then 0x7FC00000#32
            else ((c.bank (f l).1).cells.get (64 * (f l).2 + (16 * g.toNat + j))).getD 0#32).setWidth 64) ∧
      ((∃ h p n, o.instr = .mhad h p n) ∨ (∃ h n mc tr d q, o.instr = .mprn h n mc tr d q) ∨
          (∃ h kd cl tr cn rm n a f rs cs, o.instr = .acst h kd cl tr cn rm n a f rs cs) →
        ((t.task o.task).tileEnt o.tile).st = .ready ∧ (∀ x, x ≠ o.tile → (t.task o.task).tiles.get x = k.tiles.get x) ∧
        (t.core core).ctx.banks = c.banks)

/-- MATRIX_ACCEPTANCE, once the reservation has ended and the engine is not being reset: the first pass that waits for it is accepted as the issue of its
unit, whose selected entry is at it (R342, R353). -/
def Claim.WaitingPassAccepted : Prop :=
  ∀ s core o e, (s.core core).ctx.mops.find? (fun p => !p.accepted && p.turn) = some o → (s.core core).cyc.ult (s.core core).ctx.passEnd = false →
    (s.core core).mresetBusy = false → (s.unit o.unit).pick = some e → e.pc = o.pc →
    (match o.instr with
      | .mma .. => True
      | .mmas .. => True
      | .mbmp .. => True
      | .mhad .. => True
      | .mprn .. => True
      | _ => False) →
    ∃ t, exec o.instr { s with cur := some o.unit } = .next t ∧ exec (.matrixAcceptance core) s = .next { t with cur := s.cur }

/-- MMA, MMAS, MBMP, MHAD and MPRN are accepted, at issue or once the reservation has passed (R353, R360 to R363). -/
def Obligations.MatrixPasses : Prop := Claim.PassesAccepted ∧ Claim.OtherPassesAccepted ∧ Claim.WaitingPassAccepted

/-- What the completion of a copy leaves: its entry READY, the copy gone, and every other entry, unit and byte of memory as before. -/
structure Claim.Filled (s t : State) (core op : Nat) (o : CopyOp) : Prop where
  ready : ((t.task o.task).tileEnt o.tile).st = .ready
  gone : (t.core core).ctx.copies.get op = none
  others : ∀ x, x ≠ o.tile → (t.task o.task).tiles.get x = (s.task o.task).tiles.get x
  base : ((t.task o.task).tileEnt o.tile).base = ((s.task o.task).tileEnt o.tile).base
  units : ∀ n, t.unit n = s.unit n
  home : ∀ a, t.homeByte a = s.homeByte a

/-- COPY_COMPLETION and COPY_DATA_FAULT. A CPF's slot becomes READY with every element the value, dense and of its shape; a CPX's with its source's payload;
a CPL's with what its descriptor makes of the bytes that the core reads. A CPL whose addresses fault makes it READY with the fault in its header and in
its state. A store whose lines are released leaves its source EMPTY, or READY under `.keep`, and a fault of it is held (R259, R262, R271 to R274, R277). -/
def Claim.CopyEnds : Prop :=
  ∀ s core op o, (s.core core).ctx.copies.get op = some o →
    let k : Task := s.task o.task
    let base : Nat := (k.tileEnt o.tile).base.toNat
    (∀ kindw, o.kind = .fill kindw → kindw.toNat / 2 ^ 24 = 1 → kindw.toNat / 2 ^ 8 % 2 ^ 16 = 0 →
      ∃ t, exec (.copyCompletion core op) s = .next t ∧ Claim.Filled s t core op o ∧
        let hd : TileHdr := hdrOf (Memory.readN (t.task o.task).spad base 192)
        let rows : Nat := o.b.toNat % 2 ^ 16
        let cols : Nat := o.b.toNat / 2 ^ 16 % 2 ^ 16
        hd.kindw = kindw.toNat ∧ hd.rows = rows ∧ hd.cols = cols ∧ hd.erows = rows ∧ hd.ecols = cols ∧ hd.status = 0 ∧ hd.version = 0 ∧
          ∀ w i, kindBits (kindw.toNat % 256) = 8 * w → 1 ≤ w → i < rows * cols →
            bytesVal (Memory.readN (t.task o.task).spad (base + 256 + w * i) w) = o.a.toNat % 2 ^ (8 * w)) ∧
    (∀ src, o.kind = .move false src → 192 ≤ o.hdr.length →
      ∃ t, exec (.copyCompletion core op) s = .next t ∧ Claim.Filled s t core op o ∧
        Memory.readN (t.task o.task).spad base 192 = o.hdr.take 192 ∧
        ∀ i, i < o.count → Memory.read (t.task o.task).spad (base + 256 + i) =
          Memory.read k.spad ((k.tileEnt src).base.toNat + 256 + i)) ∧
    (∀ pas hdr payload, o.kind = .load false → o.d.image = false → s.engineXlat core o.task .r o.d.loadVas = .ok pas →
      (∀ p ∈ pas, remotePkg s p = none ∧ s.byteWaits core p = false ∧ (s.core core).farByte op 0 p = .absent) →
      o.d.loadTile o.draw 0 (pas.map fun p => s.viewByte core p) = some (hdr, payload) →
      ∃ t, exec (.copyCompletion core op) s = .next t ∧ Claim.Filled s t core op o ∧
        Memory.readN (t.task o.task).spad base hdr.length = hdr ∧
        (∀ i b, payload[i]? = some b → hdr.length ≤ 256 → Memory.read (t.task o.task).spad (base + 256 + i) = b)) ∧
    (∀ keep aon, o.kind = .store keep aon → o.started = true → o.lines = [] → s.remoteOps = [] → o.version = none →
      let done (t : State) : Prop := (t.core core).ctx.copies.get op = none ∧
        ((t.task o.task).tileEnt o.tile).st = (if keep then .ready else .empty) ∧ (t.task o.task).spad = k.spad ∧
        (∀ a, t.homeByte a = s.homeByte a) ∧ ∀ n, n ≠ o.unit → t.unit n = s.unit n
      (o.fault = none → ∃ t, exec (.copyCompletion core op) s = .next t ∧ done t ∧
        t.unit o.unit = { s.unit o.unit with copyWrote := (s.unit o.unit).copyWrote || o.wrote }) ∧
      (∀ f, o.fault = some f → (s.unit o.unit).copyFault = none → ∃ t, exec (.copyDataFault core op) s = .next t ∧ done t ∧
        t.unit o.unit = { s.unit o.unit with copyWrote := (s.unit o.unit).copyWrote || o.wrote, copyFault := some f })) ∧
    (∀ pas cause va, o.kind = .load false → o.d.image = false → s.engineXlat core o.task .r o.d.loadVas = .fault pas cause va → cause < 128 →
      ∃ t, exec (.copyDataFault core op) s = .next t ∧ Claim.Filled s t core op o ∧
        ((t.task o.task).tileEnt o.tile).fault = some (cause, BitVec.ofNat 64 va) ∧
        let hd : TileHdr := hdrOf (Memory.readN (t.task o.task).spad base 192)
        hd.count = 0 ∧ hd.status / 2 ^ 24 = cause ∧ hd.status / 8 % 2 = 1)

/-- The waits of the copy engine: a page that the kernel names undeliverable is so for the address space; an `.aon` store that finds its version word even
makes it odd, once; and ENGINE_LINE_RELEASE writes the owner's bytes of the line at home and grants the line to the next that waits (R50, R52, R250,
R277). -/
def Claim.CopyWaitsEnd : Prop :=
  (∀ s core op o g undel, (s.core core).ctx.copies.get op = some o → o.kind = .load false → o.d.image = false →
    s.engineXlat core o.task .r o.d.loadVas = .miss g → g ∈ undel →
    ∃ t, exec (.copyPageFaultService core op undel) s = .next t ∧ ((s.task o.task).asn, g) ∈ t.undeliverable ∧
      (∀ x ∈ t.undeliverable, x ∈ s.undeliverable ∨ x = ((s.task o.task).asn, g)) ∧
      { t with undeliverable := [] } = { s with undeliverable := [] }) ∧
  (∀ s core op o keep pa, (s.core core).ctx.copies = [(op, o)] → o.kind = .store keep true → o.version = none → o.started = false →
    (hdrOf o.hdr).erows ≠ 0 → (hdrOf o.hdr).ecols ≠ 0 →
    s.engineXlat core o.task .rw [o.d.version] = .ok [pa] → pa + 4 ≤ 2 ^ 39 → pa % 4 = 0 → s.owned pa = false →
    (∀ j, j < 4 → (s.core core).l1.get (pa + j) = none) →
    let old : Nat := bytesVal ((List.range 4).map fun j => s.homeByte (pa + j))
    old % 2 = 0 →
    ∃ t o', exec (.aonVersionWait core op) s = .next t ∧ (t.core core).ctx.copies.get op = some o' ∧ o'.version = some pa ∧
      bytesVal ((List.range 4).map fun j => t.homeByte (pa + j)) = old + 1 ∧ (∀ n, t.unit n = s.unit n)) ∧
  (∀ s line core id o, (s.lineDir line).owner = some (core, 0, id) → (s.core core).ctx.copies.get id = some o → 128 * line + 128 ≤ 2 ^ 39 →
    ∃ t o', exec (.engineLineRelease line) s = .next t ∧ (t.core core).ctx.copies.get id = some o' ∧
      o'.lines = o.lines.filter (fun p => p.1 != line) ∧
      (∀ a v, o.lines = [(line, [(a, v, 0xFF#8)])] → lineOf a = line → t.homeByte a = v ∧ ∀ b, b ≠ a → t.homeByte b = s.homeByte b) ∧
      (match (s.lineDir line).queue with
        | [] => (t.lineDir line).owner = none ∧ (t.lineDir line).epoch = (s.lineDir line).epoch
        | w :: ws => (t.lineDir line).owner = some w ∧ (t.lineDir line).queue = ws ∧
          (t.lineDir line).epoch = (s.lineDir line).epoch + 1#16) ∧
      ∀ m, m ≠ line → t.lineDir m = s.lineDir m)

/-- The copies in flight end (R271 to R277). -/
def Obligations.CopiesEnd : Prop := Claim.CopyEnds ∧ Claim.CopyWaitsEnd

/-- The events of the access engine. STREAMING_OPERATION_COMPLETION appends the entry of a QPUT or a QEND to its queue, where it has room and no earlier
operation appends to it, and frees the slot; of a bare QEND.X alone in its context, whose edge is free, it ends the context. ACCESS_STRAND_FAULT appends
POISON and END to the one queue that the strand had appended to and that is open, and ends the context. ACCESS_PAGE_FAULT_SERVICE ends the waits for pages
that are mapped now or named undeliverable (R288, R290, R295, R301, R305, R307, R317, R323). When an operation's items are read is the model's
choice (log entry 37). -/
def Obligations.AccessEvents : Prop :=
  (∀ s uid n x (q : QueueN) qs ws (tag : W32), (s.unit uid).streams.get n = some x → (s.task (s.unit uid).task).st = .resident →
    (∃ h, (∃ fin a b, x.instr = Instr.qput h fin q a b) ∨ x.instr = .qend h q) → x.out = [([ws], tag)] → x.finished = true →
    (∀ y ∈ (s.unit uid).streams.vals, y.seq < x.seq → q ∉ prodOf y.instr) →
    (s.task (s.unit uid).task).queues.get q.toNat = some qs → qs.count < qs.cap →
    let k : Task := s.task (s.unit uid).task
    ∃ t, exec (.streamingOperationCompletion uid n) s = .next t ∧ (t.unit uid).streams.get n = none ∧
      (∀ m, m ≠ n → (t.unit uid).streams.get m = (s.unit uid).streams.get m) ∧ q.toNat ∈ (t.unit uid).appended ∧
      (t.task (s.unit uid).task).queues.get q.toNat = some { qs with count := qs.count + 1 } ∧
      (∀ l, l < k.wq → Claim.word (t.task (s.unit uid).task) qs (qs.head + qs.count) l = (ws.getD l 0#32).toNat) ∧
      Claim.word (t.task (s.unit uid).task) qs (qs.head + qs.count) k.wq = tag.toNat ∧
      (∀ m, m ≠ uid → t.unit m = s.unit m) ∧ ∀ p a, t.viewByte p a = s.viewByte p a) ∧
  (∀ s uid n x h, (s.unit uid).streams = [(n, x)] → (s.task (s.unit uid).task).st = .resident → x.instr = .qendX h none → x.out = [] →
    x.finished = true → Claim.EdgesFree (s.modUnit uid fun u => { u with streams := [] }) uid [0] →
    ∃ t, exec (.streamingOperationCompletion uid n) s = .next t ∧ (t.unit uid).streams = [] ∧ (t.unit uid).frontier = [] ∧
      (t.unit uid).handles = [] ∧ (∀ y ∈ (t.unit uid).lanes.vals, y.st = .exited) ∧
      (∀ a b, (t.core (s.unit uid).core).l1.get a = some b → b.dirty = false) ∧ ∀ m, m ≠ uid → t.unit m = s.unit m) ∧
  (∀ s uid cause info pc opc (q : QueueN) qs, (s.unit uid).accFault = some (cause, info, pc, opc) → (s.task (s.unit uid).task).st = .resident →
    (s.unit uid).streams = [] → (s.unit uid).poison = none → (s.unit uid).appended = [q.toNat] →
    (s.task (s.unit uid).task).queues.get q.toNat = some qs → qs.closed = false → qs.count + 2 ≤ qs.cap → Claim.EdgesFree s uid [0] →
    let k : Task := s.task (s.unit uid).task
    ∃ t, exec (.accessStrandFault uid) s = .next t ∧
      (t.task (s.unit uid).task).queues.get q.toNat = some { qs with count := qs.count + 2 } ∧
      (let w := fun j l => Claim.word (t.task (s.unit uid).task) qs (qs.head + qs.count + j) l
       (4 ≤ k.wq → w 0 0 = (cause + 256 * opc) % 2 ^ 32 ∧ w 0 1 = 2 ^ 32 - 1 ∧ w 0 2 = (lo32 info).toNat ∧ w 0 3 = (hi32 info).toNat) ∧
         w 0 k.wq = 0x00020000 ∧ w 1 k.wq = 0x00110000) ∧
      (t.unit uid).frontier = [] ∧ (t.unit uid).handles = [] ∧ (∀ y ∈ (t.unit uid).lanes.vals, y.st = .exited) ∧
      ∀ m, m ≠ uid → t.unit m = s.unit m) ∧
  (∀ s uid undel, (s.unit uid).kind = .acc →
    let k : Task := s.task (s.unit uid).task
    ∃ t, exec (.accessPageFaultService uid undel) s = .next t ∧
      (∀ g ∈ (t.unit uid).service, g ∈ (s.unit uid).service ∧ g ∉ undel ∧ s.translate (s.unit uid).core k.part k.asn (g * 2 ^ 16) .r = .pageFault) ∧
      (∀ g ∈ (s.unit uid).service, g ∈ undel → (k.asn, g) ∈ t.undeliverable) ∧
      { t.unit uid with service := [], streams := [] } = { s.unit uid with service := [], streams := [] } ∧
      (∀ m, m ≠ uid → t.unit m = s.unit m) ∧ { t with units := [], undeliverable := [] } = { s with units := [], undeliverable := [] })

/-! ### The task engine between issues -/

/-- A block of at most eight that leaves a queue: the first of the order of R131 among the entries that hold no claims. -/
def Claim.BlockOf (es b : List QEntry) : Prop :=
  b.length ≤ 8 ∧ (∀ e ∈ b, e ∈ es ∧ e.claimed = false) ∧
    ∀ e ∈ es, e.claimed = false → e ∉ b → b.length = 8 ∧ ∀ x ∈ b, e.before x = false

/-- Entries whose number no entry of a block has. -/
def Claim.staying (es b : List QEntry) : List QEntry := es.filter fun e => b.all fun x => x.id != e.id

/-- Launches enter and move. HOST_LAUNCH with a record that is read, well-formed and fits adds a launch of COUNT tasks, and else is refused to the kernel;
DISTRIBUTOR_EMIT puts the die's next task of the oldest launch that has one at the end of the canopy queue, its `%taskidx` its number; BLOCK_MOVE moves a
block of at most eight down one level; a dry distributor asks the partition's other dies in cyclic order, one with fewer than 16 entries declines, another
gives its oldest eight, and they arrive (R129 to R133, R147). The queues as structured data are the model's choice (log entry 56). -/
def Claim.LaunchesMove : Prop :=
  (∀ s part asn proc (va : W64) pa, va.toNat % 256 = 0 → va.toNat < 2 ^ 48 → s.translate walkCore part asn va.toNat .r = .ok pa →
    let r : List Byte := s.homeReadN pa 256
    let refused (info : W64) : Prop :=
      exec (.hostLaunch part asn proc va) s = .next { s with reports := s.reports ++ [.launchRefused va info] }
    (∀ info, recMalformed r true = some info → refused info) ∧
    (recMalformed r true = none → s.fitsNone part r = true → refused 2#64) ∧
    (recMalformed r true = none → s.fitsNone part r = false →
      ∃ t n k, exec (.hostLaunch part asn proc va) s = .next t ∧ t.launches.get n = some k ∧ k.part = part ∧ k.asn = asn ∧ k.proc = proc ∧
        k.record = r ∧ k.addr = va ∧ k.count = recCount r ∧ k.live = recCount r ∧ (∀ d, k.next.get d = none) ∧
        (∀ m, m ≠ n → t.launches.get m = s.launches.get m) ∧
        { t with launches := s.launches, nextId := s.nextId } = s)) ∧
  (∀ s die part n k i rest, s.emittable die part = (n, i) :: rest → s.launches.get n = some k → s.overflowOf die part = [] →
    (s.canopyOf die part).length < 8 → (s.die die).canopy.length < 2048 →
    ∃ t e, exec (.distributorEmit die part) s = .next t ∧ (t.die die).canopy = (s.die die).canopy ++ [e] ∧
      e.index = BitVec.ofNat 32 i ∧ e.launch = n ∧ e.record = k.record ∧ e.addr = k.addr ∧ e.arg = recArg k.record ∧ e.parent = none ∧
      e.depth = 0 ∧ e.part = part ∧ e.asn = k.asn ∧ e.proc = k.proc ∧
      t.launches.get n = some { k with next := k.next.set die (i + (s.partDies part).length) } ∧
      (∀ d, d ≠ die → t.die d = s.die d) ∧
      { t with launches := s.launches, nextId := s.nextId, dies := s.dies } = s) ∧
  (∀ s core, (s.core core).glade.length < 8 → s.mayPlace core = true →
    ∃ t b, exec (.blockMove 0 core 0) s = .next t ∧
      Claim.BlockOf ((s.copseOf (core / 4)).filter fun e => s.fitsEmpty core e.record) b ∧
      (t.core core).glade = (s.core core).glade ++ b ∧ t.copseOf (core / 4) = Claim.staying (s.copseOf (core / 4)) b ∧
      (∀ c, c ≠ core / 4 → t.copseOf c = s.copseOf c) ∧ ∀ c, c ≠ core → t.core c = s.core c) ∧
  (∀ s cl, (s.copseOf cl).length < 8 →
    ∃ t b, exec (.blockMove 1 cl 0) s = .next t ∧ Claim.BlockOf (s.canopyOf (cl / 16) (s.clusterPart cl)) b ∧
      t.copseOf cl = s.copseOf cl ++ b ∧ (t.die (cl / 16)).canopy = Claim.staying (s.die (cl / 16)).canopy b ∧
      (∀ c, c ≠ cl → t.copseOf c = s.copseOf c) ∧ ∀ d, d ≠ cl / 16 → t.die d = s.die d) ∧
  (∀ s die part, (s.canopyOf die part).length < 8 →
    ∃ t b, exec (.blockMove 2 die part) s = .next t ∧ Claim.BlockOf (s.overflowOf die part) b ∧
      (t.die die).canopy = (s.die die).canopy ++ b ∧
      (∀ x ∈ (t.part part).overflow, x ∈ (s.part part).overflow ∧ ∀ e ∈ b, e.id ≠ x.2.id) ∧
      (∀ x ∈ (s.part part).overflow, (∀ e ∈ b, e.id ≠ x.2.id) → x ∈ (t.part part).overflow) ∧
      (∀ d, d ≠ die → t.die d = s.die d) ∧ ∀ p, p ≠ part → t.part p = s.part p) ∧
  (∀ s die part, s.isDry die part = true → (s.die die).dry.get part = none → (s.die die).stolen.get part = none →
    let asked : List Nat := [(die + 1) % 4, (die + 2) % 4, (die + 3) % 4].filter fun x => (s.partDies part).contains x
    exec (.runDry die part) s = .next (s.setDie die { s.die die with dry := (s.die die).dry.set part asked })) ∧
  (∀ s die thief part xs, (s.die thief).dry.get part = some (die :: xs) → die ≠ thief →
    ((s.canopyOf die part).length < 16 → ∃ t, exec (.stealMessage die thief part) s = .next t ∧
      (t.die thief).dry.get part = (if xs = [] then none else some xs) ∧ (∀ d, (t.die d).canopy = (s.die d).canopy) ∧
      (t.die thief).stolen = (s.die thief).stolen) ∧
    (16 ≤ (s.canopyOf die part).length → ∃ t b, exec (.stealMessage die thief part) s = .next t ∧
      (t.die thief).dry.get part = none ∧ (t.die thief).stolen.get part = some b ∧
      (∀ e ∈ b, e ∈ s.canopyOf die part ∧ ∀ x ∈ s.canopyOf die part, x ∉ b → e.id < x.id) ∧
      (t.die die).canopy = Claim.staying (s.die die).canopy b)) ∧
  (∀ s die donor part b, (s.die die).stolen.get part = some b → (s.die die).canopy.length + b.length ≤ 2048 →
    ∃ t, exec (.stealReply die donor part) s = .next t ∧ (t.die die).canopy = (s.die die).canopy ++ b ∧
      (t.die die).stolen.get part = none ∧ ∀ d, d ≠ die → t.die d = s.die d)

/-- What placement makes of an entry on a core: a resident task of its record, each of whose units has one entry at the role's entry point, at priority 1,
with lanes by the mask, `s0` the argument and `s1` the record's address; its groups stand in the order of the roles (R127, R128, R135, R136, R175). -/
structure Claim.PlacedAs (t : State) (core : Nat) (e : QEntry) : Prop where
  listed : e.id ∈ (t.core core).ctx.tasks
  task : ∃ k, t.tasks.get e.id = some k ∧ k.st = .resident ∧ k.core = core ∧ k.record = e.record ∧ k.part = e.part ∧ k.asn = e.asn ∧
    k.proc = e.proc ∧ k.index = e.index ∧ k.depth = e.depth ∧ k.parent = e.parent ∧ k.launch = e.launch ∧ k.reg = none ∧
    k.spadSize = recSpad e.record ∧ k.wq = recWq e.record ∧
    (∀ uid ∈ k.units, let u : Machine.Unit := t.unit uid
      u.task = e.id ∧ u.core = core ∧ u.s 0 = e.arg ∧ u.s 1 = e.addr ∧ (∀ n, 2 ≤ n → u.s n = 0#64) ∧ (∀ n l, u.v n l = 0#32) ∧ u.late = [] ∧
        u.loop = none ∧ ∃ x, u.frontier = [x] ∧ x.prio = 1#2 ∧ x.blk = none ∧ x.mask = u.lmask ∧
          ∀ l, l < u.width → (u.lane l).st = (if hasLane u.lmask l then .live else .never) ∧ (u.lane l).trapped = false ∧
            (u.lane l).depth = e.depth) ∧
    (recKind e.record ≠ 2 → ∀ (j : Nat) ro n, (groupList e.record)[j]? = some (ro, n) → ∃ uid, k.units[j]? = some uid ∧
      let u : Machine.Unit := t.unit uid
      u.kind = .group ∧ u.role = ro ∧ u.index = n ∧ u.width = roleWidth e.record ro ∧ u.regs = roleRegs e.record ro ∧
        u.lmask = roleMask e.record ro ∧ u.pcOf (lowest u.lmask) = (if u.lmask = 0#64 then 0#64 else roleEntry e.record ro))

/-- PLACEMENT, where no parked task may resume: the first successor or continuation that fits comes before the glade queue, and of the glade queue the
first that fits, in the order of R134, with one more placement counted for those passed over (R134 to R136, R143). The slots that a group takes
are the model's choice (log entry 48). -/
def Claim.TasksPlaced : Prop :=
  ∀ s core, s.mayPlace core = true → s.resumeList core = [] → (∀ e ∈ (s.core core).glade, e.claimed = true ∨ s.fitsEmpty core e.record = true) →
    (∀ ahead e slots, s.firstFit core (s.core core).conts = some (ahead, e, slots) → e.cont ≠ some e.id →
      (recKind e.record ≠ 2 → slots.length = (groupList e.record).length) →
      ∃ t, exec (.placement core) s = .next t ∧ Claim.PlacedAs t core e ∧
        (t.core core).conts = Claim.staying (s.core core).conts [e] ∧ (t.core core).glade = (s.core core).glade ∧
        (∀ n, e.cont = some n → t.tasks.get n = none ∧ n ∉ (t.core core).ctx.tasks) ∧ ∀ c, c ≠ core → t.core c = s.core c) ∧
    (∀ ahead e slots, s.firstFit core (s.core core).conts = none → s.firstFit core (gladeOrder (s.core core).glade) = some (ahead, e, slots) →
      e.cont = none → (recKind e.record ≠ 2 → slots.length = (groupList e.record).length) →
      ∃ t, exec (.placement core) s = .next t ∧ Claim.PlacedAs t core e ∧ (t.core core).conts = (s.core core).conts ∧
        (t.core core).glade = (Claim.staying (s.core core).glade [e]).map (fun x =>
          if ahead.any (fun y => y.id == x.id) then { x with passed := x.passed + 1 } else x) ∧
        (∀ n, n ≠ e.id → t.tasks.get n = s.tasks.get n) ∧ ∀ c, c ≠ core → t.core c = s.core c)

/-- Launches reach a core, and placement makes tasks of them (R127 to R136). -/
def Obligations.TasksArrive : Prop := Claim.LaunchesMove ∧ Claim.TasksPlaced

/-- TASK_COMPLETION of a task whose strands and operations have ended: without a registration its units are gone and it is done; with one it is pending
with what its successor or continuation inherits, and a successor, or a continuation whose join count falls to zero, waits for placement on the core
(R138, R143, R348). CHILD_COMPLETION counts a completed task off its parent's frame, whose continuation counts down when a handed frame empties, or off its
launch, which is reported complete at zero (R36, R138, R415). -/
def Claim.TasksComplete : Prop :=
  (∀ s n k, s.tasks.get n = some k → k.st = .resident → (∀ uid ∈ k.units, (s.unit uid).isOver = true) →
    (∀ o ∈ (s.core k.core).ctx.copies.vals, o.task ≠ n) → (∀ o ∈ (s.core k.core).ctx.mops, o.task ≠ n) →
    ∃ t, exec (.taskCompletion n) s = .next t ∧
      (∀ uid ∈ k.units, t.units.get uid = none) ∧ (∀ uid, uid ∉ k.units → t.units.get uid = s.units.get uid) ∧
      (∀ m, m ≠ n → t.tasks.get m = s.tasks.get m) ∧ (t.core k.core).ctx.hold ≠ some n ∧
      (∀ c ∈ (t.core k.core).ctx.claims, c ∈ (s.core k.core).ctx.claims ∧ c.owner ≠ some n) ∧
      (∀ b x, (t.core k.core).ctx.banks.get b = some x → x.task ≠ n ∨ ∃ c ∈ (t.core k.core).ctx.claims, c.bank = b) ∧
      (∀ x a, t.viewByte x a = s.viewByte x a) ∧
      (k.reg = none → (t.task n).st = .done ∧ (t.task n).units = [] ∧ (t.task n).parent = k.parent ∧ n ∉ (t.core k.core).ctx.tasks ∧
        (t.core k.core).conts = (s.core k.core).conts) ∧
      (∀ g, k.reg = some g →
        let launched : Prop := ∃ e, (t.core k.core).conts = (s.core k.core).conts ++ [e] ∧ e.cont = some n ∧ e.record = g.record ∧
          e.addr = g.addr ∧ e.arg = g.arg ∧ e.parent = k.parent ∧ e.depth = k.depth ∧ e.home = k.core
        (t.task n).st = .pending ∧ (∀ a, Memory.read (t.task n).spad a = if a < recSpad g.record then Memory.read k.spad a else 0#8) ∧
          (∀ x, x < recNtile g.record → (t.task n).tiles.get x = k.tiles.get x) ∧
          (g.join = false → launched) ∧ (g.join = true → (t.task n).joins = k.joins - 1 ∧
            if k.joins ≤ 1 then launched else (t.core k.core).conts = (s.core k.core).conts))) ∧
  (∀ s n k, s.tasks.get n = some k → k.st = .done → (∀ a f, k.parent = some a → s.frames.get a = some f → f.task ≠ n) →
    ∃ t, exec (.childCompletion n) s = .next t ∧ t.tasks.get n = none ∧ t.units = s.units ∧
    (∀ x a, t.viewByte x a = s.viewByte x a) ∧
    (∀ a f, k.parent = some a → s.frames.get a = some f → t.launches = s.launches ∧
      (if f.pend ≤ 1 ∧ f.status = 3 then t.frames.get a = none ∧ (t.task f.task).joins = (s.task f.task).joins - 1 ∧
          (1 < (s.task f.task).joins → ∀ c, t.core c = s.core c)
        else t.frames.get a = some { f with pend := f.pend - 1 } ∧ ∀ c, t.core c = s.core c) ∧
      ∀ b, b ≠ a → t.frames.get b = s.frames.get b) ∧
    (∀ h, k.parent = none → s.launches.get k.launch = some h → t.frames = s.frames ∧ (∀ c, t.core c = s.core c) ∧
      (if h.live ≤ 1 then t.launches.get k.launch = none ∧ t.reports = s.reports ++ [.launchDone k.launch]
        else t.launches.get k.launch = some { h with live := h.live - 1 } ∧ t.reports = s.reports)))

/-- Parking. PARK begins the spill of a task that may be parked to the lowest free slot; PARK_RESUME makes a parked task resident where it fits, its units
as they were but for their lane slots, its awaiting frames counted again; SPILL_RESTORE frees the slot; INHERITANCE_SPILL sends a pending inheritance that
has held back a glade entry for 65,536 cycles to a slot (R135, R143, R148, R151, R337). What a task must have ended before it is parked is the
model's reading (log entry 42). -/
def Claim.TasksPark : Prop :=
  (∀ s n slot, s.parkable n = true → s.freeSpillSlot (s.task n).part = some slot →
    ∃ t, exec (.park n) s = .next t ∧ t.task n = { s.task n with st := .parking, slot := some slot } ∧
      (t.part (s.task n).part).slots.get slot = some (.park n) ∧ (t.core (s.task n).core).spill = true ∧
      (t.core (s.task n).core).spillWork = [n] ∧ t.units = s.units ∧ ∀ m, m ≠ n → t.tasks.get m = s.tasks.get m) ∧
  (∀ s n slots, s.resumable n = some slots → let k : Task := s.task n
    ∃ t, exec (.parkResume n) s = .next t ∧ (t.task n).st = .resident ∧ (t.task n).restoring = true ∧ (t.task n).units = k.units ∧
      (t.task n).record = k.record ∧ (t.task n).spad = k.spad ∧ (t.task n).tiles = k.tiles ∧ n ∈ (t.core k.core).ctx.tasks ∧
      (∀ uid, { t.unit uid with slot := 0 } = { s.unit uid with slot := 0 }) ∧
      (∀ p, k.planes = some p → (t.core k.core).ctx.hold = some n ∧ (t.core k.core).ctx.active = p.1 ∧ (t.core k.core).ctx.shadow = p.2) ∧
      ∀ a f, s.frames.get a = some f → a ∈ s.framesOf n → f.status = 4 → t.frames.get a = some { f with status := 2 }) ∧
  (∀ s n, (s.task n).restoring = true → ∃ t, exec (.spillRestore n) s = .next t ∧
    t.task n = { s.task n with restoring := false, slot := none } ∧
    (∀ x, (s.task n).slot = some x → (t.part (s.task n).part).slots.get x = none) ∧ t.units = s.units ∧ t.cores = s.cores) ∧
  (∀ s n since slot, let k : Task := s.task n
    (s.core k.core).failSince.get n = some since → k.st = .pending → n ∈ (s.core k.core).ctx.tasks →
    65536 ≤ ((s.core k.core).cyc - since).toNat → s.freeSpillSlot k.part = some slot →
    ∃ t, exec (.inheritanceSpill n) s = .next t ∧ t.task n = { k with slot := some slot } ∧
      (t.part k.part).slots.get slot = some (.inherit n) ∧ n ∉ (t.core k.core).ctx.tasks ∧ t.units = s.units)

/-- Tasks complete, and are parked and resumed (R138, R143, R148). -/
def Obligations.TasksEnd : Prop := Claim.TasksComplete ∧ Claim.TasksPark

/-- Grants and edges. The RGROW that stands first is granted where it fits, and its register is written; where no group can go on and the first cannot
be granted, the last is denied with 0. A lane that waits for a grant from an empty queue source takes the entry that has come. Entries passed over 1,024
times are aged. OUTGOING_EDGE writes every dirty byte of the core home and leaves none dirty, where no engine owns their lines (R45, R144, R149, R160,
R165). The frames and queues as structured data are the model's choice (log entry 56). -/
def Claim.GrantsAnswer : Prop :=
  (∀ s core uid n (d : Reg) since, s.firstGrow core = some (uid, n, d, since) → isVec d = false → s.canGrow core (uid, n, d, since) = true →
    ∃ t, exec (.rgrowGrant core) s = .next t ∧ (t.unit uid).regs = n ∧ (∀ q l, (t.unit uid).regAt q d l = BitVec.ofNat 64 n) ∧
      (∀ g ∈ (t.core core).ctx.rgrow, g ∈ (s.core core).ctx.rgrow ∧ g.1 ≠ uid) ∧
      (∀ l e, e ∈ (s.unit uid).frontier → hasLane e.mask l = true → e.blk = some (.rgrow d n) →
        (∀ x ∈ (s.unit uid).frontier, hasLane x.mask l = true → x = e) → (t.unit uid).stands l (e.pc + 8#64) e.prio none) ∧
      ∀ m, m ≠ uid → t.unit m = s.unit m) ∧
  (∀ s core g uid n (d : Reg) since, s.firstGrow core = some g → s.lastGrow core = some (uid, n, d, since) → isVec d = false →
    s.canGrow core g = false → (∀ m ∈ s.residentUnits core, (s.unit m).kind = .group → (s.unit m).isOver = true ∨ (s.unit m).inGrow = true) →
    ∃ t, exec (.rgrowDenial core) s = .next t ∧ (t.unit uid).regs = (s.unit uid).regs ∧ (∀ q l, (t.unit uid).regAt q d l = 0#64) ∧
      (∀ x ∈ (t.core core).ctx.rgrow, x ∈ (s.core core).ctx.rgrow ∧ x.1 ≠ uid) ∧
      (∀ l e, e ∈ (s.unit uid).frontier → hasLane e.mask l = true → e.blk = some (.rgrow d n) →
        (∀ x ∈ (s.unit uid).frontier, hasLane x.mask l = true → x = e) → (t.unit uid).stands l (e.pc + 8#64) e.prio none) ∧
      ∀ m, m ≠ uid → t.unit m = s.unit m) ∧
  (∀ s uid, ∃ t, exec (.agedEntry uid) s = .next t ∧ (∀ e ∈ (t.unit uid).frontier, e.blk = none → 1024 ≤ e.cnt → e.aged = true) ∧
    (t.unit uid).frontier.map (fun e => { e with aged := false }) = (s.unit uid).frontier.map (fun e => { e with aged := false }) ∧
    { t.unit uid with frontier := [] } = { s.unit uid with frontier := [] } ∧ ∀ m, m ≠ uid → t.unit m = s.unit m) ∧
  (∀ s s1 uid l x lp (q : QueueN) (ent : QWord) (w : W32) bp, let u : Machine.Unit := s.unit uid
    u.runAhead = none → u.service = [] → u.loop = some lp → lp.src = .queue q [] false → lp.waiting = [l] → l < 64 → 1 ≤ u.width →
    u.frontier = [x] → x.mask = laneBit l → x.blk = some (.grant bp) → x.solo = false → (u.lane l).st = .live → (u.lane l).mreset = false →
    (u.lane l).grant = none →
    s.takeEntry u.task q = some (ent, s1) → hasFlag ent.tag tagEmpty = false → hasFlag ent.tag tagPoison = false → tagCount ent.tag = 1 →
    ent.words.head? = some w →
    ∃ t, exec (.refillGrant uid) s = .next t ∧ ((t.unit uid).lane l).inIter = true ∧ ((t.unit uid).lane l).iter = w ∧
      ((t.unit uid).lane l).age = BitVec.ofNat 32 lp.nextAge ∧ (t.unit uid).stands l (lp.addr + 8#64) bp none ∧
      (t.task u.task).queues = (s1.task u.task).queues ∧ ∀ m, m ≠ uid → t.unit m = s.unit m) ∧
  (∀ s uid l, let u : Machine.Unit := s.unit uid
    (s.units.get uid).isSome → u.runAhead = none → u.service = [] → u.entryOf l = none → Claim.EdgesFree s uid [] →
    (∀ a b, (s.core u.core).l1.get a = some b → a < 2 ^ 39) →
    ∃ t, exec (.outgoingEdge uid l) s = .next t ∧ (∀ a b, (t.core u.core).l1.get a = some b → b.dirty = false) ∧
      (∀ a b, (s.core u.core).l1.get a = some b → b.dirty = true → t.homeByte a = b.val) ∧
      (∀ a, (∀ b, (s.core u.core).l1.get a = some b → b.dirty = false) → t.homeByte a = s.homeByte a) ∧
      (∀ a, t.viewByte u.core a = s.viewByte u.core a) ∧ t.units = s.units ∧ t.tasks = s.tasks)

/-! ### Faults and debug between issues -/

/-- The end of run-ahead and the service of pages. Run-ahead that has ended restores the checkpoint whole and waits for the batch of pages, each told to the
coalescer; the kernel's service ends the wait, names undeliverable pages for the address space, and the faulting instruction issues afresh (R247, R249,
R250). -/
def Claim.PageFaultsServed : Prop :=
  (∀ s uid ra, (s.unit uid).runAhead = some ra → (s.unit uid).aheadEnded = true →
    ∃ t, exec (.runAheadEnd uid) s = .next t ∧
      t.unit uid = { s.unit uid with
        vregs := ra.vregs, sregs := ra.sregs, preds := ra.preds, lanes := ra.lanes, frontier := ra.frontier, nominal := ra.nominal,
        late := ra.late, loop := ra.loop, runAhead := none, service := ra.pages } ∧
      (∀ g ∈ ra.pages, ∃ r, (r ∈ (t.core (s.unit uid).core).coal ∨ r ∈ (t.core (s.unit uid).core).coalClosed ∨
          r ∈ (t.core (s.unit uid).core).coalWait) ∧
        r.kind = 0 ∧ r.cause = 0x10 ∧ r.addr = BitVec.ofNat 64 (g * 2 ^ 16)) ∧
      (∀ m, m ≠ uid → t.unit m = s.unit m) ∧ (∀ c a, t.viewByte c a = s.viewByte c a) ∧ (∀ a, t.homeByte a = s.homeByte a) ∧
      t.tasks = s.tasks) ∧
  (∀ s uid undel, (s.unit uid).kind ≠ .acc → (s.unit uid).service ≠ [] →
    ∃ t, exec (.pageFaultService uid undel) s = .next t ∧
      t.unit uid = { s.unit uid with service := [], replays := (s.unit uid).replays + 1 } ∧
      (∀ x, x ∈ t.undeliverable ↔ x ∈ s.undeliverable ∨
        ∃ g ∈ (s.unit uid).service, g ∈ undel ∧ x = ((s.task (s.unit uid).task).asn, g)) ∧
      (∀ m, m ≠ uid → t.unit m = s.unit m) ∧ { t with units := [], undeliverable := [] } = { s with units := [], undeliverable := [] })

/-- What waits for a grant, an edge or a page is served (R45, R144, R149, R165, R249). -/
def Obligations.WaitsAreServed : Prop := Claim.GrantsAnswer ∧ Claim.PageFaultsServed

/-- The coalescer and the fault ring, where no event waits for the coalescer: the oldest record closes 256 cycles after it opened; the oldest closed one is
written to its partition's ring at FRHEAD, which counts it, with the layout of R251 (R251, R252, R421). That a ring that is not laid out takes no
record is the model's reading (log entry 46). -/
def Claim.RecordsWritten : Prop :=
  (∀ s core r rest, (s.core core).coal = r :: rest → (s.core core).coalWait = [] → 256 ≤ ((s.core core).cyc - r.cyc).toNat →
    ∃ t, exec (.coalescerRecordClose core) s = .next t ∧
      t.core core = { s.core core with coal := rest, coalClosed := (s.core core).coalClosed ++ [r] } ∧
      (∀ c, c ≠ core → t.core c = s.core c) ∧ { t with cores := [] } = { s with cores := [] }) ∧
  (∀ s core r rest, (s.core core).coalClosed = r :: rest → (s.core core).coalWait = [] →
    let p : Part := s.part r.part
    let at_ : Nat := p.arena.frBase.toNat + 64 * (p.arena.frHead.toNat % 2 ^ p.arena.frLog.toNat)
    p.arena.frLog ≠ 0#5 → (p.arena.frHead - p.arena.frTail).toNat ≠ 2 ^ p.arena.frLog.toNat → at_ + 64 ≤ 2 ^ 39 →
    ∃ t, exec (.faultRingWrite core) s = .next t ∧ (t.core core).coalClosed = rest ∧
      (t.part r.part).arena = { p.arena with frHead := p.arena.frHead + 1#32 } ∧ (t.part r.part).faultIrq = p.faultIrq + 1 ∧
      (let f := fun off n => field (t.homeReadN at_ 64) off n
       f 0 1 = r.cause % 256 ∧ f 1 1 = r.kind % 256 ∧ f 2 1 = r.part % 256 ∧ f 3 1 = 0 ∧ f 4 4 = r.cyc.toNat % 2 ^ 32 ∧ f 8 8 = r.addr.toNat ∧
         f 16 8 = r.pc.toNat ∧ f 24 2 = r.lane % 2048 ∧ f 27 1 = core % 256 ∧ f 28 4 = 0 ∧ f 32 32 = r.groups.toNat) ∧
      (∀ a, a < at_ ∨ at_ + 64 ≤ a → t.homeByte a = s.homeByte a) ∧ t.units = s.units ∧ t.tasks = s.tasks)

/-- Hang and wait-cycle reports: a task of live groups in which nothing has acted for 2^LIMIT cycles, none of whose lanes awaits a child or is stopped, gives
one record of KIND 2 with its group slots, once; a group all of whose lanes have waited in SYNG or in order for as long gives one with its own (R174,
R251, R253). Whose PC a report names is the model's reading (log entry 45). -/
def Claim.HangsReport : Prop :=
  let told (c : Core) (pc : W64) (f : BitVec 256 → Prop) : Prop :=
    ∃ r, (r ∈ c.coal ∨ r ∈ c.coalClosed ∨ r ∈ c.coalWait) ∧ r.kind = 2 ∧ r.addr = pc ∧ f r.groups
  (∀ s n, let k : Task := s.task n
    let c : Core := s.core k.core
    c.hangEn = true → k.hungSent = false → k.st = .resident → n ∈ c.ctx.tasks → s.liveGroups n ≠ [] → s.awaitsChild n = false →
    s.hasStopped n = false → 2 ^ c.hangLim.toNat ≤ (c.cyc - k.lastAct).toNat → (∀ uid ∈ k.units, (s.unit uid).core = k.core) →
    ∃ t, exec (.hangReport n) s = .next t ∧
      (∃ g ∈ s.liveGroups n, (∀ x ∈ s.liveGroups n, g.1 ≤ x.1) ∧
        told (t.core k.core) (s.unit g.2).hangAt.1 fun m => ∀ x ∈ s.liveGroups n, x.1 < 256 → m.getLsbD x.1 = true) ∧
      t.task n = { k with hungSent := true } ∧ t.units = s.units ∧ (∀ m, m ≠ n → t.tasks.get m = s.tasks.get m) ∧
      ∀ x a, t.viewByte x a = s.viewByte x a) ∧
  (∀ s uid since e es, let u : Machine.Unit := s.unit uid
    let c : Core := s.core u.core
    u.kind = .group → u.frontier = e :: es → (∀ x ∈ u.frontier, x.blk = some .syng ∨ x.blk = some .ord) → u.lastRelease = some since →
    c.hangEn = true → u.task ∈ c.ctx.tasks → (s.task u.task).st = .resident → 2 ^ c.hangLim.toNat ≤ (c.cyc - since).toNat →
    ∃ t, exec (.waitCycleReport uid) s = .next t ∧
      (∃ x ∈ u.frontier, (∀ y ∈ u.frontier, y.pc.ult x.pc = false) ∧
        told (t.core u.core) x.pc fun m => u.slot < 256 → m.getLsbD u.slot = true) ∧
      t.unit uid = { u with lastRelease := none } ∧ (∀ m, m ≠ uid → t.unit m = s.unit m) ∧ ∀ x a, t.viewByte x a = s.viewByte x a)

/-- Debug. A lane whose next instruction matches an enabled comparator stops before it, with a report; RESUME and STEP put a stopped lane back at its PC and
priority, past the BRK that stopped it, STEP as an entry of its own; a sample whose data has come is written as two records while EN and SMP are set (R395,
R396, R399, R400). What RESUME and STEP make of a comparator, and the lane of a sample, are the model's reading (log entry 44). -/
def Obligations.DebugEvents : Prop :=
  (∀ s uid l e n c, let u : Machine.Unit := s.unit uid
    u.entryOf l = some e → e.blk = none → e.solo = false → s.firstInstr uid e.pc 4096 = e.pc →
    (s.core u.core).comparators.get n = some c → c.en = true → c.addr = e.pc → c.all = true →
    ∃ t, exec (.breakpointStop uid l) s = .next t ∧ (t.unit uid).stands l e.pc e.prio (some (.stopped false)) ∧
      u.othersStand (t.unit uid) (laneBit l) ∧ t.reports = s.reports ++ [.stop uid l] ∧ NoResult u (t.unit uid) ∧
      (∀ m, m ≠ uid → t.unit m = s.unit m) ∧ t.tasks = s.tasks ∧ ∀ x a, t.viewByte x a = s.viewByte x a) ∧
  (∀ s uid l e brk, let u : Machine.Unit := s.unit uid
    let pc : W64 := if brk then e.pc + 8#64 else e.pc
    u.entryOf l = some e → e.blk = some (.stopped brk) →
    (∃ t, exec (.resume uid l) s = .next t ∧ (t.unit uid).stands l pc e.prio none ∧ u.othersStand (t.unit uid) (laneBit l) ∧
      NoResult u (t.unit uid) ∧ { t with units := [] } = { s with units := [] } ∧ ∀ m, m ≠ uid → t.unit m = s.unit m) ∧
    (∃ t x, exec (.step uid l) s = .next t ∧ (t.unit uid).entryOf l = some x ∧ x.pc = pc ∧ x.prio = e.prio ∧ x.blk = none ∧ x.solo = true ∧
      x.mask = laneBit l ∧ u.othersStand (t.unit uid) (laneBit l) ∧ NoResult u (t.unit uid) ∧
      { t with units := [] } = { s with units := [] } ∧ ∀ m, m ≠ uid → t.unit m = s.unit m)) ∧
  (∀ s core m pre post, (s.core core).samples = pre ++ m :: post → (∀ x ∈ pre, x.req ≠ none) → m.req = none →
    (s.unit m.unit).core = core →
    let d : Nat := core / 64 % 4
    ∃ t, exec (.sample core) s = .next t ∧ (t.core core).samples = (pre ++ m :: post).filter (fun x => x != m) ∧
      t.units = s.units ∧ t.tasks = s.tasks ∧ (∀ x a, t.viewByte x a = s.viewByte x a) ∧
      ((s.core core).traceCtl.getLsbD 31 = false ∨ (s.core core).traceCtl.getLsbD 30 = false → t.dies = s.dies) ∧
      ∀ g, (s.core core).traceCtl.getLsbD 31 = true → (s.core core).traceCtl.getLsbD 30 = true → g ∈ (s.die d).segments → g.closed = false →
        g.recs.length + 2 ≤ 32762 →
        ∃ g' ∈ (t.die d).segments, ∃ a b body, g'.segno = g.segno ∧ g'.recs = g.recs ++ [a, b] ∧ a.ty = 0x05 ∧ b.ty = 0x06 ∧ a.pc = m.pc ∧
          a.aux = m.opc.toNat ∧ a.data = BitVec.ofNat 32 m.sectors ∧ b.seq = a.seq + 1 ∧ b.body = some body ∧ body.length = 20 ∧
          body.take 8 = valBytes 8 m.mask.toNat)

/-- The trace sink: SEGMENT_CLOSE closes an open segment whose core has been silent for its flush limit; SEGMENT_SUBMIT submits the oldest closed segment,
with the count of those overwritten, and its digest enters the next; the completed write frees its place; and a write to FROZEN thaws heartwood (R397,
R398, R401). When the bytes of a segment reach the ring is the model's choice (log entry 20). -/
def Claim.SegmentsFlow : Prop :=
  (∀ s die g r, g ∈ (s.die die).segments → g.closed = false → r ∈ g.recs →
    2 ^ nbits (s.core r.core).traceCtl.toNat 0 5 ≤ ((s.core r.core).cyc - (s.core r.core).lastTrace).toNat →
    ∃ t, exec (.segmentClose die) s = .next t ∧ { g with closed := true } ∈ (t.die die).segments ∧
      (t.die die).segments.map (fun x => { x with closed := true }) = (s.die die).segments.map (fun x => { x with closed := true }) ∧
      (∀ d, d ≠ die → t.die d = s.die d) ∧ { t with dies := [] } = { s with dies := [] }) ∧
  (∀ s die pre g post, (s.die die).segments = pre ++ g :: post → (∀ x ∈ pre, x.closed = false ∨ x.submitted = true) → g.closed = true →
    g.submitted = false → ∃ t, exec (.segmentSubmit die) s = .next t ∧
      { g with submitted := true, overwritten := (s.die die).overwritten } ∈ (t.die die).segments ∧ (t.die die).overwritten = 0 ∧
      (t.die die).prevDigest = Config.shake256 64 (g.body die (s.die die).overwritten (s.die die).prevDigest) ∧
      ((s.die die).staging = 0#64 → t.mem = s.mem) ∧
      (∀ a, a < (s.die die).staging.toNat + 2 ^ 20 * g.place ∨ (s.die die).staging.toNat + 2 ^ 20 * g.place + 2 ^ 20 ≤ a →
        g.recs.length ≤ 32762 →
        (∀ r ∈ g.recs, r.bytes.length = 32) → (s.die die).prevDigest.length = 64 → t.homeByte a = s.homeByte a) ∧
      ∀ d, d ≠ die → t.die d = s.die d) ∧
  (∀ s die pre g post, (s.die die).segments = pre ++ g :: post → (∀ x ∈ pre, x.submitted = false) → g.submitted = true →
    ∃ t, exec (.segmentWriteCompletion die) s = .next t ∧
      (t.die die).segments = (pre ++ g :: post).filter (fun x => x.segno != g.segno) ∧ (∀ d, d ≠ die → t.die d = s.die d) ∧
      { t with dies := [] } = { s with dies := [] }) ∧
  (∀ s die, ∃ t, exec (.heartwoodFrozenClear die) s = .next t ∧ t.die die = { s.die die with heartFrozen := false } ∧
    (∀ d, d ≠ die → t.die d = s.die d) ∧ { t with dies := [] } = { s with dies := [] })

/-- Fault records, hang reports and trace segments reach memory (R251 to R253, R397). -/
def Obligations.ReportsAreWritten : Prop := Claim.RecordsWritten ∧ Claim.HangsReport ∧ Claim.SegmentsFlow

/-! ### What the resident kernel does -/

/-- SRAM and residency. A write of NEXT leaves it alone at 0b111 and else pends where it differs from the split in force; a pending split comes into force
on a core with no task, with the L1 written back and empty. A write of RESID_CTL takes EN, WAYS to 12 and SAMPLE to 16, and zeroes the sampling counters of the
partition's slices. A dropped prefetch fill leaves its set and is counted (R18, R23, R24, R25). That a NEXT equal to the split in force clears
PEND is the model's reading (log entry 49). -/
def Claim.SramAndResidency : Prop :=
  (∀ s core (v : W32), let n : BitVec 3 := v.extractLsb' 4 3
    (n = 7#3 → exec (.coreSramSplitWrite core v) s = .next s) ∧
    (n ≠ 7#3 → exec (.coreSramSplitWrite core v) s =
      .next (s.setCore core { s.core core with l1next := n, l1pend := decide (n ≠ (s.core core).l1sz) }))) ∧
  (∀ s core, (s.core core).l1pend = true → (s.core core).ctx.tasks = [] → (s.core core).spill = false → s.linesDue core = false →
    (∀ a ∈ (s.core core).dirtyAddrs, s.owned a = false ∧ a < 2 ^ 39) →
    ∃ t, exec (.sramSplitChange core) s = .next t ∧ (t.core core).l1sz = (s.core core).l1next ∧ (t.core core).l1pend = false ∧
      (t.core core).l1 = [] ∧ (∀ a b, (s.core core).l1.get a = some b → b.dirty = true → t.homeByte a = b.val) ∧
      (∀ a, (∀ b, (s.core core).l1.get a = some b → b.dirty = false) → t.homeByte a = s.homeByte a) ∧ (∀ c, c ≠ core → t.core c = s.core c) ∧ t.units = s.units) ∧
  (∀ s part n (v : W32), let r : Resid := ((s.part part).resid.get n).getD .reset
    ∃ t x, exec (.residCtlWrite part n v) s = .next t ∧ (t.part part).resid.get n = some x ∧ x.base = r.base ∧ x.lim = r.lim ∧
      x.en = v.getLsbD 31 ∧ x.ways = (if nbits v.toNat 8 4 ≤ 12 then nbits v.toNat 8 4 else r.ways) ∧
      x.sample = (if nbits v.toNat 0 5 ≤ 16 then nbits v.toNat 0 5 else r.sample) ∧
      (∀ m y, m ≠ n → (s.part part).resid.get m = some y → ∃ z, (t.part part).resid.get m = some z ∧ { z with clip := y.clip } = y) ∧
      (∀ k y, s.slices.get k = some y → t.slices.get k = some (if (s.part part).clusters.contains (k / 16) then { y with ctrs := [] } else y)) ∧
      t.mem = s.mem ∧ t.cores = s.cores ∧ t.units = s.units) ∧
  (∀ s k x key way line, s.slices.get k = some x → x.fillDue = some (key, way, line) →
    ∃ t y, exec (.prefetchFillDrop k) s = .next t ∧ t.slices.get k = some y ∧ y.drops = x.drops + 1 ∧ y.fillDue = none ∧
      (∀ ls, y.sets.get key = some ls → ∀ z ∈ ls, z.line ≠ line ∨ z.way ≠ way) ∧ (∀ j, j ≠ key → y.sets.get j = x.sets.get j) ∧
      (∀ j, j ≠ k → t.slices.get j = s.slices.get j) ∧ t.mem = s.mem)

/-- The pre-emption control register's commands, the fill, the swap and the spill (R151, R152, R337). A CLEAR during a fill is the model's
reading (log entry 21). -/
def Claim.SetsSwap : Prop :=
  (∀ s core, let c : Core := s.core core
    exec (.load core) s = .next (s.setCore core
      (if c.ready then c else if c.spill then { c with loadWait := true } else { c with fill := true })) ∧
    exec (.soft core) s = .next (s.setCore core { c with softSwap := true, yielded := false }) ∧
    exec (.force core) s = .next (s.setCore core { c with forceSwap := true }) ∧
    (c.ready = true ∨ c.fill = true → exec (.clear core) s = .next s) ∧
    (c.ready = false → c.fill = false → c.spill = true → exec (.clear core) s = .next (s.setCore core { c with clearWait := true })) ∧
    (c.ready = false → c.fill = false → c.spill = false →
      exec (.clear core) s = .next (s.setCore core { c with shadow := some { core := core, ctx := .none }, ready := true }))) ∧
  (∀ s core x, let c : Core := s.core core
    c.fill = true → (s.part (s.corePart core)).slots.get c.fslot.toNat = some (.set x) → x.core = core →
    ∃ t, exec (.fillCompletion core) s = .next t ∧ t.core core = { c with fill := false, ready := true, shadow := some x } ∧
      (t.part (s.corePart core)).slots.get c.fslot.toNat = none ∧ (∀ d, d ≠ core → t.core d = s.core d) ∧ t.units = s.units ∧
      ∀ n k, s.tasks.get n = some k → t.tasks.get n =
        some (if n ∈ x.ctx.tasks ∧ k.st ≠ .pending then { k with st := .shadowed } else k)) ∧
  (∀ s core, (s.core core).fill = true → (∀ x, (s.part (s.corePart core)).slots.get (s.core core).fslot.toNat = some (.set x) → x.core ≠ core) →
    exec (.fillCompletion core) s = .next (s.setCore core { s.core core with fill := false, err := true })) ∧
  (∀ s core x, let c : Core := s.core core
    c.shadow = some x → c.ready = true → c.spill = false → (c.forceSwap = true ∨ (c.softSwap = true ∧ c.yielded = true)) →
    ∃ t out, exec (.swap core) s = .next t ∧ (t.core core).ctx.tasks = x.ctx.tasks ∧ (t.core core).ctx.banks = x.ctx.banks ∧
      (t.core core).ctx.hold = x.ctx.hold ∧ (t.core core).ctx.active = x.ctx.active ∧ (t.core core).ctx.claims = x.ctx.claims ∧
      (t.core core).shadow = none ∧ (t.core core).ready = false ∧ (t.core core).forceSwap = false ∧ (t.core core).softSwap = false ∧
      (t.core core).spill = true ∧ (t.core core).spillSet = some out ∧ (t.core core).cyc = c.cyc + 64#64 ∧
      (t.part (s.corePart core)).slots.get c.sslot.toNat = some (.set out) ∧ out.core = core ∧ out.ctx.tasks = c.ctx.tasks ∧
      out.ctx.banks = c.ctx.banks ∧ out.ctx.hold = c.ctx.hold ∧ out.ctx.claims = c.ctx.claims ∧
      ∀ n k, s.tasks.get n = some k → k.st ≠ .pending →
        (n ∈ x.ctx.tasks → (t.task n).st = .resident) ∧ (n ∉ x.ctx.tasks → n ∈ c.ctx.tasks → (t.task n).st = .shadowed) ∧
          (t.task n).units = k.units ∧ (t.task n).spad = k.spad) ∧
  (∀ s core x, let c : Core := s.core core
    c.spill = true → c.spillSet = some x → s.awaitsData core x.ctx.tasks = false → c.loadWait = false → c.clearWait = false →
    ∃ t, exec (.spillCompletion core) s = .next t ∧ (t.core core).spill = false ∧ (t.core core).spillSet = none ∧
      (t.core core).ctx = c.ctx ∧ t.units = s.units ∧
      ∀ n k, s.tasks.get n = some k → t.tasks.get n = some (if n ∈ x.ctx.tasks ∧ k.st ≠ .pending then { k with st := .spilled } else k)) ∧
  (∀ s core n k, let c : Core := s.core core
    c.spill = true → c.spillSet = none → c.spillWork = [n] → c.loadWait = false → c.clearWait = false → s.tasks.get n = some k →
    k.core = core →
    ∃ t, exec (.spillCompletion core) s = .next t ∧ (t.core core).spill = false ∧ n ∉ (t.core core).ctx.tasks ∧
      (t.task n).st = .parked ∧ (t.task n).units = k.units ∧ t.units = s.units ∧
      (if c.ctx.hold = some n then (t.core core).ctx.hold = none ∧ (t.task n).planes = some (c.ctx.active, c.ctx.shadow)
        else (t.core core).ctx.hold = c.ctx.hold ∧ (t.task n).planes = none) ∧
      ∀ a f, s.frames.get a = some f → a ∈ s.framesOf n → f.status = 2 → t.frames.get a = some { f with status := 4 })

/-- The SRAM split, residency and the two banks of a core (R18, R23, R151, R152). -/
def Obligations.SplitsAndSwaps : Prop := Claim.SramAndResidency ∧ Claim.SetsSwap

/-- RESET of a core's matrix engine, not busy: no operation is left, and no bank or claim of the ended set; each live lane of its groups and sequencers is
to trap with MATRIX_RESET; BUSY is set, and a RESET while it is set is ignored. Its completion clears BUSY and writes ENDED (R380 to R382). -/
def Claim.EngineResets : Prop :=
  (∀ s core, (s.core core).mresetBusy = true → exec (.reset core) s = .next s) ∧
  (∀ s core, (s.core core).mresetBusy = false →
    ∃ t, exec (.reset core) s = .next t ∧ (t.core core).mresetBusy = true ∧ (t.core core).mresetCount = (s.endedSet core).length ∧
      (t.core core).ctx.mops = [] ∧
      (∀ b ∈ (t.core core).ctx.banks, b ∈ (s.core core).ctx.banks ∧ b.2.task ∉ s.endedSet core) ∧
      (∀ c ∈ (t.core core).ctx.claims, c ∈ (s.core core).ctx.claims ∧ s.claimTask c ∉ s.endedSet core) ∧
      (∀ n, (t.core core).ctx.hold = some n → n ∉ s.endedSet core) ∧
      (∀ n ∈ s.endedSet core, ∀ k, s.tasks.get n = some k → (t.task n).mreset = true ∧
        ∀ uid ∈ k.units, ∀ l, (s.unit uid).kind ≠ .acc → (s.unit uid).runAhead = none → ((s.unit uid).lane l).st = .live →
          ((t.unit uid).lane l).mreset = true) ∧
      ∀ x a, (∀ line, (s.lineDir line).owner = none) → t.viewByte x a = s.viewByte x a) ∧
  (∀ s core, (s.core core).mresetBusy = true →
    ∃ t, exec (.matrixResetCompletion core) s = .next t ∧ (t.core core).mresetBusy = false ∧
      (t.core core).mresetEnded = BitVec.ofNat 9 (s.core core).mresetCount ∧ (t.core core).ctx = (s.core core).ctx ∧
      (∀ c, c ≠ core → t.core c = s.core c) ∧ t.units = s.units ∧ t.tasks = s.tasks)

/-- What an invalidation drops from the TLBs of a partition's cores, at once; the register reads BUSY with its scope and argument. -/
def Claim.Drops (s : State) (i : Instr) (part : Nat) (scope : BitVec 2) (p : TlbEntry → Prop) : Prop :=
  ∃ t, exec i s = .next t ∧ (t.part part).tlbBusy = true ∧ (t.part part).tlbScope = scope ∧
    (∀ c ∈ s.partCores part, ∀ e, e ∈ (t.core c).tlb ↔ e ∈ (s.core c).tlb ∧ ¬ p e) ∧
    (∀ c, c ∉ s.partCores part → t.core c = s.core c) ∧ (∀ c, { t.core c with tlb := [] } = { s.core c with tlb := [] }) ∧
    { t with cores := [], parts := [] } = { s with cores := [], parts := [] }

/-- The invalidations by page, address space, partition and remote target, and their completion once the accesses are done: BUSY clears and no dirty byte is
left on the partition's cores (R410). -/
def Claim.TlbInvalidations : Prop :=
  (∀ s part asn size (va : W64), asn < 1024 → size < 3 → va.toNat < 2 ^ 48 →
    Claim.Drops s (.invalidatePage part asn size va) part 0#2 fun e =>
      e.asn = asn ∧ e.size = size ∧ e.vpn = va.toNat / 2 ^ pageShift size) ∧
  (∀ s part asn, asn < 1024 → Claim.Drops s (.invalidateAddressSpace part asn) part 1#2 fun e => e.asn = asn) ∧
  (∀ s part, Claim.Drops s (.invalidatePartition part) part 2#2 fun _ => True) ∧
  (∀ s part pkg, pkg < 4096 → Claim.Drops s (.invalidateRemoteTarget part pkg) part 3#2 fun e => remotePkg s (e.pfn * 2 ^ 16) = some pkg) ∧
  (∀ s part, (s.part part).tlbBusy = true → s.accessesDone part = true → s.remoteOps = [] →
    (∀ c ∈ s.partCores part, ∀ a ∈ (s.core c).dirtyAddrs, remotePkg s a = none) →
    ∃ t, exec (.invalidateCompletion part) s = .next t ∧ (t.part part).tlbBusy = false ∧
      (∀ c ∈ s.partCores part, ∀ a b, (t.core c).l1.get a = some b → b.dirty = false) ∧ t.units = s.units ∧ t.tasks = s.tasks ∧
      ∀ c ∈ s.partCores part, ∀ e ∈ (t.core c).tlb, e ∈ (s.core c).tlb ∧
        matchesInval s.pkg (s.part part).tlbScope (s.part part).tlbArg e = false)

/-- Register writes of the resident kernel: each writes the fields that its register has, and nothing else (R4, R21 to R23, R151, R253, R393, R398, R399,
R407, R411, R417, R421). The layout of the staging register and the write of a lost bit are the model's choice (log entries 7 and 51). -/
def Claim.RegisterWrites : Prop :=
  ∀ s (v : W64),
    (∀ part n, let p : Part := s.part part
      let r : Resid := (p.resid.get n).getD .reset
      let a : W64 := BitVec.ofNat 64 (nbits v.toNat 16 23 * 2 ^ 16)
      exec (.registerWrite (.residBase part n) v) s = .next (s.setPart part { p with resid := p.resid.set n { r with base := a } }) ∧
      exec (.registerWrite (.residLim part n) v) s = .next (s.setPart part { p with resid := p.resid.set n { r with lim := a } })) ∧
    (∀ core, let c : Core := s.core core
      (v.getLsbD 0 = false → v.getLsbD 2 = false → v.getLsbD 3 = false → exec (.registerWrite (.preempt core) v) s =
        .next (s.setCore core { c with
          sslot := v.extractLsb' 48 16, fslot := v.extractLsb' 32 16, err := c.err && !v.getLsbD 28, softSwap := v.getLsbD 1,
          yielded := c.yielded && c.softSwap && v.getLsbD 1 })) ∧
      exec (.registerWrite (.hang core) v) s = .next (s.setCore core { c with
        hangEn := v.getLsbD 31, hangLim := if nbits v.toNat 0 5 < 16 then c.hangLim else v.setWidth 5 }) ∧
      (∃ r, exec (.registerWrite (.trace core) v) s = .next (s.setCore core { c with traceCtl := r }) ∧
        (∀ n, 28 ≤ n → n < 32 → r.getLsbD n = v.getLsbD n) ∧ (∀ n, 20 ≤ n → n < 28 → r.getLsbD n = false) ∧
        (∀ n, 16 ≤ n → n < 20 → r.getLsbD n = v.getLsbD n) ∧ (∀ n, 5 ≤ n → n < 16 → r.getLsbD n = false) ∧
        nbits r.toNat 0 5 = if nbits v.toNat 0 5 < 10 then nbits c.traceCtl.toNat 0 5 else nbits v.toNat 0 5) ∧
      (∀ n x, c.comparators.get n = some x →
        (∃ t, exec (.registerWrite (.bpAddr core n) v) s = .next t ∧ (t.core core).comparators.get n = some { x with addr := v } ∧
          { t.core core with comparators := [] } = { c with comparators := [] } ∧ ∀ d, d ≠ core → t.core d = s.core d) ∧
        ∃ t, exec (.registerWrite (.bpCtl core n) v) s = .next t ∧ (t.core core).comparators.get n =
            some { x with en := v.getLsbD 31, all := v.getLsbD 30, slot := v.setWidth 11 } ∧
          { t.core core with comparators := [] } = { c with comparators := [] } ∧ ∀ d, d ≠ core → t.core d = s.core d)) ∧
    (∀ part, let p : Part := s.part part
      let w (off : Nat) (a : Arena) : Prop := exec (.registerWrite (.arena part off) v) s = .next (s.setPart part { p with arena := a })
      let hi (n : Nat) : W64 := BitVec.ofNat 64 (v.toNat / 2 ^ n * 2 ^ n)
      w 0x00 { p.arena with ovfBase := hi 12 } ∧ w 0x08 { p.arena with ovfCnt := lo32 v } ∧ w 0x10 { p.arena with frmBase := hi 12 } ∧
        w 0x18 { p.arena with frmCnt := lo32 v } ∧ w 0x20 { p.arena with splBase := hi 21 } ∧ w 0x28 { p.arena with splCnt := v.setWidth 16 } ∧
        w 0x30 { p.arena with frBase := hi 12 } ∧ w 0x38 { p.arena with frLog := v.setWidth 5 } ∧ w 0x40 p.arena ∧
        w 0x44 { p.arena with frTail := lo32 v } ∧ w 0x48 { p.arena with htBase := hi 12 } ∧ w 0x50 { p.arena with htCnt := v.setWidth 16 }) ∧
    (∀ die g, exec (.registerWrite (.homeMap die g) v) s =
      .next (if g < 1536 then s.setDie die { s.die die with homeMap := (s.die die).homeMap.set g (v.toNat % 16) } else s)) ∧
    (∀ asn size, exec (.registerWrite (.tableDesc asn size) v) s = .next { s with ptDesc := s.ptDesc.set (3 * asn + size) v }) ∧
    (∀ pkg, exec (.registerWrite (.lostMap pkg) v) s =
      .next (if v = 0#64 then { s with lost := s.lost.filter fun k => k != pkg } else s)) ∧
    (∀ pkg, exec (.registerWrite (.routeMask pkg) v) s = .next { s with routes := s.routes.set pkg (v.setWidth 16) }) ∧
    ∀ die, ∃ n, exec (.registerWrite (.staging die) v) s =
        .next (s.setDie die { s.die die with staging := BitVec.ofNat 64 (v.toNat / 2 ^ 20 * 2 ^ 20), stagingCnt := n }) ∧ 4 ≤ n ∧ n ≤ 64

/-- Resets, invalidations and the kernel's registers (R381, R410). -/
def Obligations.ResetsAndInvalidations : Prop := Claim.EngineResets ∧ Claim.TlbInvalidations ∧ Claim.RegisterWrites

/-- MIGRATION_COMMAND sets MOVING of a page's entry, drops its translations and begins; without an entry, or with PIN set, it is refused to the kernel.
MIGRATION_COMPLETION, once the accesses are done, copies the page within the package and writes the entry: the new PFN, one more in MIGR, MOVING clear, and
PIN with the fourth (R413). One migration at a time is the model's reading (log entry 50). -/
def Claim.PagesMigrate : Prop :=
  (∀ s asn size (va : W64) pfn, s.migration = none →
    ((∀ h, s.pageEntry asn size va.toNat = some h → nbits h.w1 4 1 = 1) →
      exec (.migrationCommand asn size va pfn) s = .next { s with reports := s.reports ++ [.migrationRefused asn va] }) ∧
    (∀ h, s.pageEntry asn size va.toNat = some h → nbits h.w1 4 1 = 0 → h.at_ + 16 ≤ 2 ^ 39 → asn < 1024 → size < 3 → va.toNat < 2 ^ 48 →
      ∃ t m, exec (.migrationCommand asn size va pfn) s = .next t ∧ t.migration = some m ∧ m.asn = asn ∧ m.size = size ∧ m.va = va ∧
        m.pfn = pfn ∧ m.entry = h.at_ ∧ bytesVal (t.homeReadN (h.at_ + 8) 8) = (h.w1 ||| 8) % 2 ^ 64 ∧
        (∀ a, a < h.at_ + 8 ∨ h.at_ + 16 ≤ a → t.homeByte a = s.homeByte a) ∧
        (∀ p ∈ s.parts.keys, ∀ c ∈ s.partCores p, ∀ e ∈ (t.core c).tlb,
          ¬ (e.asn = asn ∧ e.size = size ∧ e.vpn = va.toNat / 2 ^ pageShift size)) ∧ t.units = s.units)) ∧
  (∀ s m, s.migration = some m → (∀ p ∈ s.parts.keys, s.accessesDone p = true) →
    (∀ p ∈ s.parts.keys, ∀ c ∈ s.partCores p, (s.core c).dirtyAddrs = []) → s.remoteOps = [] →
    let w1 : Nat := bytesVal (s.homeReadN (m.entry + 8) 8)
    let n : Nat := 2 ^ pageShift m.size
    let src : Nat := pageBase m.size w1
    let dst : Nat := pageBase m.size (m.pfn * 2 ^ 16)
    m.entry + 16 ≤ 2 ^ 39 → src + n ≤ 2 ^ 39 → dst + n ≤ 2 ^ 39 → (m.entry + 16 ≤ dst ∨ dst + n ≤ m.entry) →
    ∃ t, exec .migrationCompletion s = .next t ∧ t.migration = none ∧ (∀ i, i < n → t.homeByte (dst + i) = s.homeByte (src + i)) ∧
      (let w : Nat := bytesVal (t.homeReadN (m.entry + 8) 8)
       nbits w 16 48 = m.pfn % 2 ^ 48 ∧ nbits w 8 8 = nbits w1 8 8 ∧ nbits w 5 3 = (nbits w1 5 3 + 1) % 8 ∧
         nbits w 4 1 = (if 4 ≤ nbits w1 5 3 + 1 then 1 else nbits w1 4 1) ∧ nbits w 3 1 = 0 ∧ nbits w 0 3 = nbits w1 0 3) ∧
      (∀ a, (a < dst ∨ dst + n ≤ a) → (a < m.entry + 8 ∨ m.entry + 16 ≤ a) → t.homeByte a = s.homeByte a) ∧ t.units = s.units)

/-- PROCESS_END: no queue, launch, table or core keeps anything of the process once its engines are idle and its dirty bytes written; at once, no entry of it
waits and none of its resident units issues (R254). -/
def Claim.ProcessesEnd : Prop :=
  (∀ s proc, proc ∉ s.deadProcs → ∃ t, exec (.processEnd proc) s = .next t ∧ proc ∈ t.deadProcs ∧
    (∀ e ∈ t.queuedEntries, e.proc ≠ proc) ∧ (∀ n k, t.launches.get n = some k → k.proc ≠ proc) ∧
    (∀ n k uid, s.tasks.get n = some k → k.proc = proc → k.st = .resident → uid ∈ k.units → (t.unit uid).frontier = [])) ∧
  (∀ s proc, proc ∉ s.deadProcs → (∀ c, (s.core c).ctx.copies = [] ∧ (s.core c).ctx.mops = [] ∧ (s.core c).dirtyAddrs = []) →
    (∀ u ∈ s.units.vals, u.streams = []) → s.remoteOps = [] → (∀ line, (s.lineDir line).owner = none) →
    ∃ t, exec (.processEnd proc) s = .next t ∧ (∀ n k, t.tasks.get n = some k → s.tasks.get n = some k ∧ k.proc ≠ proc) ∧
      (∀ n k uid, s.tasks.get n = some k → k.proc = proc → uid ∈ k.units → t.units.get uid = none) ∧
      (∀ n k, s.tasks.get n = some k → (∀ x ∈ s.tasks, x.1 = n → x.2.proc ≠ proc) → t.tasks.get n = some k) ∧ ∀ a, t.homeByte a = s.homeByte a)

/-- PARTITION_MAKE with free clusters and granules makes the partition: its clusters, its arena, its virtual function, the home map of its granules, and
zero in them; PARTITION_TEARDOWN of one without processes zeroes them again and clears the map, and its cores keep nothing (R420, R422). -/
def Claim.PartitionsMadeAndTornDown : Prop :=
  (∀ s part clusters granules arena, 0 < part → part ≤ 40 → s.parts.get part = none → clusters ≠ [] →
    (∀ c ∈ clusters, c.1 < 4 ∧ c.2 < 10 ∧ s.clusterPart (16 * c.1 + c.2) = 0) →
    (∀ g ∈ granules, g.1 / 2048 < 4 ∧ g.1 % 2048 < 1536 ∧ (g.1 / 2048, g.2) ∈ clusters ∧ 10 ≤ (s.die (g.1 / 2048)).home (g.1 % 2048)) →
    (granules.map Prod.fst).Nodup →
    ∃ t p, exec (.partitionMake part clusters granules arena) s = .next t ∧ t.parts.get part = some p ∧ p.vf = true ∧
      (∀ k, k ∈ p.clusters ↔ ∃ c ∈ clusters, k = 16 * c.1 + c.2) ∧ p.overflow = [] ∧ p.slots = [] ∧
      (∀ g ∈ granules, (t.die (g.1 / 2048)).homeMap.get (g.1 % 2048) = some g.2) ∧
      (∀ a, Memory.read t.mem a = if a / 2 ^ 26 ∈ granules.map Prod.fst then 0#8 else Memory.read s.mem a) ∧
      (∀ n, n ≠ part → t.parts.get n = s.parts.get n) ∧ t.cores = s.cores ∧ t.units = s.units ∧ t.tasks = s.tasks) ∧
  (∀ s part p, s.parts.get part = some p → s.partProcs part = [] →
    ∃ t, exec (.partitionTeardown part) s = .next t ∧ t.parts.get part = none ∧
      (∀ g ∈ p.granules, (t.die (g.1 / 2048)).homeMap.get (g.1 % 2048) = some 15) ∧
      (∀ a, Memory.read t.mem a = if a / 2 ^ 26 ∈ p.granules.map Prod.fst then 0#8 else Memory.read s.mem a) ∧
      (∀ k ∈ s.partCores part, (t.core k).l1 = [] ∧ (t.core k).tlb = [] ∧ (t.core k).ctx = .none ∧ (t.core k).shadow = none ∧
        (t.core k).glade = []) ∧ (∀ k, k ∉ s.partCores part → t.core k = s.core k) ∧ ∀ n, n ≠ part → t.parts.get n = s.parts.get n)

/-- Processes end; partitions are made and torn down (R254, R420, R422). -/
def Obligations.PartitionsChange : Prop := Claim.ProcessesEnd ∧ Claim.PartitionsMadeAndTornDown

/-- CHECKPOINT of a package whose queues and coalescers are empty, whose L1s are clean and in which no engine owns a line or waits for memory: each core's
set is in its slot, its tasks spilled, and the image holds the memory, the tasks and the units. RESTORE brings an image's memory, partitions, tasks and frames
back, with cold caches, and begins the fill of each core's set (R418, R419). The image as a field is the model's choice (log entry 52). -/
def Claim.CheckpointsRestore : Prop :=
  (∀ s, (∀ c ∈ s.ownedCores, let x : Core := s.core c
      x.ready = false ∧ x.fill = false ∧ x.spill = false ∧ x.reqs = [] ∧ x.glade = [] ∧ x.coal = [] ∧ x.coalClosed = [] ∧ x.dirtyAddrs = [] ∧
        (∀ k, s.copseOf k = []) ∧ ∀ d, (s.die d).canopy = [] ∧ (s.die d).stolen = []) →
    (∀ line, (s.lineDir line).owner = none) → (∀ u ∈ s.units.vals, u.runAhead = none) →
    ∃ t m, exec .checkpoint s = .next t ∧ t.image = some m ∧ (∀ a, Memory.read m.mem a = Memory.read s.mem a) ∧ m.units = s.units ∧
      (∀ c, (c, (s.core c).sslot) ∈ m.cores ↔ c ∈ s.ownedCores) ∧
      (∀ c ∈ s.ownedCores, ∀ n ∈ (s.core c).ctx.tasks, ∀ k, s.tasks.get n = some k → k.st ≠ .pending →
        m.tasks.get n = some { k with st := .spilled }) ∧
      ∀ c ∈ s.ownedCores, (t.core c).ctx.tasks = [] ∧ (t.core c).spill = false) ∧
  (∀ s m, s.image = some m → ∃ t, exec .restore s = .next t ∧ t.mem = m.mem ∧ t.tasks = m.tasks ∧ t.units = m.units ∧ t.frames = m.frames ∧
    t.launches = m.launches ∧ t.ptDesc = m.ptDesc ∧ (∀ p q, m.parts.get p = some q → t.parts.get p = some { q with vf := true }) ∧
    (∀ c, (t.core c).l1 = [] ∧ (t.core c).tlb = [] ∧ (t.core c).ctx = .none) ∧
    (∀ c n, (s.cores.get c).isSome → SMap.get m.cores c = some n →
      (t.core c).fslot = n ∧ (t.core c).fill = true ∧ (t.core c).forceSwap = true) ∧ t.lines = [] ∧ t.hostMem = s.hostMem)

/-- Pages migrate, and packages are checkpointed and restored (R413, R418, R419). -/
def Obligations.PagesAndImagesMove : Prop := Claim.PagesMigrate ∧ Claim.CheckpointsRestore

/-! ### Links, the host and power -/

/-- What a message from another package leaves alone: units, tasks, and memory outside the bytes given. -/
def Claim.Received (s t : State) (p : Nat → Prop) : Prop :=
  t.units = s.units ∧ t.tasks = s.tasks ∧ ∀ a, ¬ p a → t.homeByte a = s.homeByte a

/-- Requests of another package, on a port that is up, to this package, at a line that no engine owns: a READ is answered with the bytes at home under its
mask, a WRITE writes them and an ATOMIC performs its operation on the old value that it returns; at a line that an engine owns they wait; and checkpoint data
is written (R42, R50, R403, R417, R419). The layout of an atomic's payload is the model's choice (log entry 9). -/
def Claim.RequestsServed : Prop :=
  ∀ s port m, (s.port port).down = false → m.dst = s.pkg →
    let line : Nat := m.addr % 2 ^ 39 / 128 * 128
    let under (a : Nat) : Prop := line ≤ a ∧ a < line + 128 ∧ m.mask.getLsbD (a - line) = true
    let written (t : State) : Prop := Claim.Received s t under ∧
      ∀ k, k < 128 → m.mask.getLsbD k = true → t.homeByte (line + k) = m.payload.getD k 0#8
    let sent (t : State) (ty : Nat) (f : Nat → Byte) (n : Nat) : Prop := ∃ q x, (t.port q).sendQ = (s.port q).sendQ ++ [(ty, x)] ∧
      x.src = s.pkg ∧ x.dst = m.src ∧ x.tag = m.tag ∧ x.payload.length = 128 ∧ ∀ k, k < n → x.payload.getD k 0#8 = f k
    (s.owned line = true → exec (.read port m) s = .next s ∧ exec (.write port m) s = .next s ∧ exec (.atomic port m) s = .next s) ∧
    (s.owned line = false →
      (∃ t, exec (.read port m) s = .next t ∧ Claim.Received s t (fun _ => False) ∧
        sent t 2 (fun k => if m.mask.getLsbD k then s.homeByte (line + k) else 0#8) 128) ∧
      (∃ t, exec (.write port m) s = .next t ∧ written t ∧ sent t 6 (fun _ => 0#8) 128) ∧
      (∀ k, k < 128 → m.mask.getLsbD k = true → (∀ j, j < k → m.mask.getLsbD j = false) → (atomOf m.payload).n ≤ 8 →
        line + k + (atomOf m.payload).n ≤ 2 ^ 39 →
        let old : Nat := bytesVal (s.homeReadN (line + k) (atomOf m.payload).n)
        ∃ t, exec (.atomic port m) s = .next t ∧
          Claim.Received s t (fun a => line + k ≤ a ∧ a < line + k + (atomOf m.payload).n) ∧
          bytesVal (t.homeReadN (line + k) (atomOf m.payload).n) =
            ((atomOf m.payload).apply old).getD old % 2 ^ (8 * (atomOf m.payload).n) ∧
          sent t 5 (fun j => BitVec.ofNat 8 (old / 2 ^ (8 * j))) 8)) ∧
    ∃ t, exec (.checkpointData port m) s = .next t ∧ written t

/-- Answers to this package's own requests: data is installed for an L1 that asked and held for the request, the result of an atomic is held, and an
acknowledgement ends the write that it names (R45, R46, R403, R417). -/
def Claim.AnswersArrive : Prop :=
  ∀ s port m, (s.port port).down = false → m.dst = s.pkg →
    (∀ core id f rest, s.farByTag false m = (core, id) :: rest → (s.core core).far.get id = some f → ¬ (64 ≤ f.lane ∧ f.lane < 128) →
      ∃ t, exec (.readData port m) s = .next t ∧ (t.core core).far.get id = some { f with data := some m.payload } ∧
        (∀ x ∈ (t.core core).l1, x ∈ (s.core core).l1 ∨ (128 * f.line ≤ x.1 ∧ x.1 < 128 * f.line + 128 ∧
          x.2.val = m.payload.getD (x.1 - 128 * f.line) 0#8 ∧ x.2.dirty = false)) ∧
        (∀ x ∈ (s.core core).l1, x.2.dirty = true → x ∈ (t.core core).l1) ∧
        (∀ c, c ≠ core → t.core c = s.core c) ∧ Claim.Received s t (fun _ => False)) ∧
    (∀ core id f rest, s.farByTag true m = (core, id) :: rest → (s.core core).far.get id = some f →
      ∃ t, exec (.atomicResult port m) s = .next t ∧ (t.core core).far.get id = some { f with data := some m.payload } ∧
        (t.core core).l1 = (s.core core).l1 ∧ (∀ c, c ≠ core → t.core c = s.core c) ∧ Claim.Received s t (fun _ => False)) ∧
    ∃ t, exec (.acknowledgement port m) s = .next t ∧ (∀ x ∈ t.remoteOps, x ∈ s.remoteOps ∧ ¬ (x.2.tag = m.tag ∧ x.2.dst = m.src)) ∧
      (∀ x ∈ s.remoteOps, ¬ (x.2.tag = m.tag ∧ x.2.dst = m.src) → x ∈ t.remoteOps) ∧
      { t with remoteOps := [] } = { s with remoteOps := [] }

/-- Messages of other packages arrive (R403, R417). -/
def Obligations.MessagesArrive : Prop := Claim.RequestsServed ∧ Claim.AnswersArrive

/-- A target package that is lost: its bit is set, no request to it is left, and on no core is a translation to it or a dirty byte of it (R411, R412). -/
def Claim.Lost (s t : State) (pkg : Nat) : Prop :=
  pkg ∈ t.lost ∧ (∀ k ∈ s.lost, k ∈ t.lost) ∧ (∀ x ∈ t.remoteOps, x ∈ s.remoteOps ∧ x.2.dst ≠ pkg) ∧
    (∀ c k, s.cores.get c = some k → (∀ e ∈ (t.core c).tlb, e ∈ k.tlb ∧ remotePkg s (e.pfn * 2 ^ 16) ≠ some pkg) ∧
      ∀ x ∈ (t.core c).l1, x ∈ k.l1 ∧ (x.2.dirty = true → remotePkg s x.1 ≠ some pkg)) ∧
    t.units = s.units ∧ t.tasks = s.tasks ∧ ∀ a, t.homeByte a = s.homeByte a

/-- Ports and routes. A loss notice loses its source. An idle flit changes nothing; a port with nothing to send sends one; a failed flit is resent eight times,
and then, as after silence, the port goes down, and the targets whose only routes lead through it are lost. A request to a lost target completes so; a route
that returns brings its ports up and clears the bit (R411, R412, R417). -/
def Claim.PortsAndRoutes : Prop :=
  (∀ s port m, (s.port port).down = false → m.src ∉ s.lost → ∃ t, exec (.lossNotice port m) s = .next t ∧ Claim.Lost s t m.src ∧
    t.losses = s.losses + 1) ∧
  (∀ s port, exec (.idle port) s = .next s) ∧
  (∀ s port, (s.port port).down = false → (s.port port).sendQ = [] → ∃ t x, exec (.idleFlitTimer port) s = .next t ∧
    (t.port port).lastFlit = some (0, x) ∧ x.src = s.pkg ∧ x.dst = 0 ∧ (∀ q, q ≠ port → t.port q = s.port q) ∧
    { t with ports := [] } = { s with ports := [] }) ∧
  (∀ s port f, (s.port port).down = false → (s.port port).lastFlit = some f →
    ((s.port port).resends < 8 → ∃ t, exec (.flitCrcFailure port) s = .next t ∧
      t.port port = { s.port port with resends := (s.port port).resends + 1 } ∧ { t with ports := [] } = { s with ports := [] }) ∧
    (8 ≤ (s.port port).resends → ∃ t, exec (.flitCrcFailure port) s = .next t ∧ (t.port port).down = true ∧
      exec (.portDown port) s = .next t)) ∧
  (∀ s port pkg mask, (s.port port).down = false → s.routes = [(pkg, mask)] → mask.getLsbD port = true → pkg ∉ s.lost →
    ∃ t, exec (.portDown port) s = .next t ∧ (t.port port).down = true ∧
      ((∀ n, n < 16 → mask.getLsbD n = true → n ≠ port → (s.port n).down = true) → Claim.Lost s t pkg) ∧
      ((∃ n, n < 16 ∧ mask.getLsbD n = true ∧ n ≠ port ∧ (s.port n).down = false) → t.lost = s.lost ∧ t.cores = s.cores)) ∧
  (∀ s core id f, (s.core core).far.get id = some f → f.pkg ∈ s.lost → ∃ t, exec (.linkDownTimeout core id) s = .next t ∧
    (t.core core).far.get id = some { f with lost := true } ∧ (∀ c, c ≠ core → t.core c = s.core c) ∧ (t.core core).l1 = (s.core core).l1) ∧
  (∀ s pkg mask, s.routes.get pkg = some mask → ∃ t, exec (.routeReturn pkg) s = .next t ∧ pkg ∉ t.lost ∧
    (∀ k, k ≠ pkg → (k ∈ t.lost ↔ k ∈ s.lost)) ∧
    (∀ n p, s.ports.get n = some p → mask.getLsbD n = true → (t.port n).down = false) ∧
    (∀ n, mask.getLsbD n = false → t.port n = s.port n) ∧ t.cores = s.cores)

/-- The host reads and writes device memory at its home through BAR2, outside lines that an engine owns (R50, R415). -/
def Claim.HostAccesses : Prop :=
  (∀ s pa n, (s.ownedRange pa n = true → exec (.hostBar2Read pa n) s = .next s) ∧
    (s.ownedRange pa n = false → ∃ t, exec (.hostBar2Read pa n) s = .next t ∧
      t.reports = s.reports ++ [.hostData pa ((List.range n).map fun k => s.homeByte (pa + k))] ∧
      { t with reports := [], slices := [] } = { s with reports := [], slices := [] })) ∧
  ∀ s pa data, (s.ownedRange pa data.length = true → exec (.hostBar2Write pa data) s = .next s) ∧
    (s.ownedRange pa data.length = false → pa + data.length ≤ 2 ^ 39 → ∃ t, exec (.hostBar2Write pa data) s = .next t ∧
      (∀ k b, data[k]? = some b → t.homeByte (pa + k) = b) ∧ (∀ a, a < pa ∨ pa + data.length ≤ a → t.homeByte a = s.homeByte a) ∧
      t.cores = s.cores ∧ t.units = s.units ∧ t.tasks = s.tasks)

/-- Ports and routes go down and come back, and the host reads and writes device memory (R50, R411, R412, R415, R417). -/
def Obligations.PortsAndHost : Prop := Claim.PortsAndRoutes ∧ Claim.HostAccesses

/-- A die whose images verify has its key and both digests in its attestation log; one whose images do not holds its cores in reset, with a report. -/
def Claim.Booted (t : State) (images : List (List Byte × List Byte)) : Prop :=
  ∀ d, d < 4 → let im := images.getD d ([], [])
    if imageGood im.1 ∧ imageGood im.2 then (t.die d).key = Config.identityKey d ∧
      (t.die d).attest = [Config.shake256 114 im.1, Config.shake256 114 im.2] ∧ ∀ c, c / 64 = d → (t.core c).inReset = false
    else .imageRefused d ∈ t.reports ∧ ∀ c, c < 256 → c / 64 = d → (∃ k, State.reset.cores.get c = some k) → (t.core c).inReset = true

/-- Bring-up from power-on and from a package reset: no task and no unit is left and the images are judged die by die; a package reset counts itself in
heartwood, freezes it and writes a record of TYPE 0x0C where it was not frozen. After a loss of power nothing places until power-on. A power limit changes no
value (R401, R423, R424). What memory holds after a loss of power is the model's choice (log entries 5 and 23). -/
def Claim.PowerEvents : Prop :=
  (∀ s images pkg, ∃ t, exec (.powerOn images pkg) s = .next t ∧ t.units = [] ∧ t.tasks = [] ∧ t.parts = [] ∧ t.mem = [] ∧
    Claim.Booted t images ∧ (∀ d, d < 4 → (t.die d).heartResets = 0 ∧ (t.die d).heartFrozen = true)) ∧
  (∀ s images pkg, ∃ t, exec (.packageReset images pkg) s = .next t ∧ t.units = [] ∧ t.tasks = [] ∧ t.parts = [] ∧
    ∀ d k, d < 4 → s.dies.get d = some k → (t.die d).heartResets = k.heartResets + 1 ∧ (t.die d).heartFrozen = true ∧
      (if k.heartFrozen then (t.die d).heart = k.heart else
        ∃ r, (t.die d).heart.get k.heartHead = some r ∧ r.ty = 0x0C ∧ r.data = BitVec.ofNat 32 (k.heartResets + 1) ∧
          ∀ j, j ≠ k.heartHead → (t.die d).heart.get j = k.heart.get j)) ∧
  (∀ s, ∃ t, exec .powerLoss s = .next t ∧ t.units = [] ∧ t.tasks = [] ∧ t.mem = [] ∧ t.hostMem = s.hostMem ∧
    ∀ c k, State.reset.cores.get c = some k → t.mayPlace c = false) ∧
  ∀ s on, exec (.powerOrTemperatureLimit on) s = .next { s with powerLimit := on }

/-- PAD32 takes the selected entry past its parcel, and nothing else changes: no count, no register, no other entry (R61). -/
def Claim.PaddingPasses : Prop :=
  ∀ s uid e, s.cur = some uid → (s.unit uid).pick = some e → e.mask ≠ 0#64 →
    ∃ t, exec .pad32 s = .next t ∧ (∀ l, hasLane e.mask l = true → (t.unit uid).stands l (e.pc + 4#64) e.prio none) ∧
      (s.unit uid).othersStand (t.unit uid) e.mask ∧ { t.unit uid with frontier := [] } = { s.unit uid with frontier := [] } ∧
      (∀ k, k ≠ uid → t.unit k = s.unit k) ∧ { t with units := [] } = { s with units := [] }

/-- Power events, and PAD32 (R61, R423, R424). -/
def Obligations.PowerAndPadding : Prop := Claim.PowerEvents ∧ Claim.PaddingPasses

/-! ### The whole machine -/

/-- The encoder and the decoder agree: every well-formed instruction that issues, and PAD32, is decoded from its own bytes with every operand (R60, R64
to R70, R83). -/
def Obligations.EncodingRoundTrips : Prop :=
  ∀ i : Instr, i.issues = true ∨ i = .pad32 → i.wf = true → decode (encode i) = .ok (i, (encode i).length)

/-- The decoder answers well-formed instructions only, and each is the one reading of its bytes: encoding it gives them back, so no set bit of a word that
decodes is dropped (R60, R66, R68, R83). -/
def Obligations.DecodingIsExact : Prop :=
  ∀ bs i n, decode bs = .ok (i, n) → i.wf = true ∧ (i.issues = true ∨ i = .pad32) ∧ n ≤ bs.length ∧ encode i = bs.take n

/-- Words that the spec writes out byte by byte decode to the instructions that it gives them (R68, R140, R190, R205, R216, R229, R271, R299, R360, R366,
R314), and so does the PAD32 parcel (R60); a word of no opcode is refused (R79, R83). -/
def Obligations.SpecWordsDecode : Prop :=
  let h : Hdr := { stall := 0#4, pred := 7#3, pneg := false }
  decode [0x08, 0x81, 0x14, 0x0C, 0x10, 0x03, 0x00, 0x00] =
      .ok (.add { stall := 2#4, pred := 2#3, pneg := false } false false (.v 5) (.v 3) (.reg (.s 4)), 8) ∧
    decode [0x00, 0xE8, 0x01, 0x20, 0x27, 0x03, 0x10, 0x00] = .ok (.spawnU h (.s 8) (.s 9), 8) ∧
    decode [0x00, 0xC8, 0x05, 0x10, 0x00, 0x28, 0x90, 0x80] = .ok (.cmp h .lt true 1#3 (.v 4) (.imm8 10#8), 8) ∧
    decode [0x00, 0xDC, 0x00, 0xC0, 0xFF, 0xFF, 0x07, 0x00] = .ok (.bra { h with pred := 3#3 } 1#2 0xFFFFF0#24, 8) ∧
    decode [0x40, 0xE0, 0x15, 0x10, 0x07, 0x20, 0x80, 0x00] = .ok (.st h .b32 (.v 5) (.s 4) (some (.v 1)) (.d8 8#8), 8) ∧
    decode [0x80, 0xE1, 0x11, 0x0F, 0x03, 0x03, 0x00, 0x20] =
      .ok (.atom h .add false false true false (.s 4) (.s 3) (.s 0) (.d8 0#8), 8) ∧
    decode [0x02, 0xFC, 0x01, 0x10, 0x1B, 0x03, 0x20, 0x00, 0x00, 0x00, 0x00, 0x00, 0x00, 0x00, 0x01, 0x00] =
      .ok (.cpl h false false none (.ring 1#4) (.s 4) (.s 6), 16) ∧
    decode [0x00, 0xF0, 0x11, 0x1B, 0x03, 0x40, 0xD0, 0x20] = .ok (.ald h .b64 (.s 4) 2#4 (some (.s 6)) (.d8 0x10#8), 8) ∧
    decode [0xC2, 0xF1, 0x19, 0x0F, 0x17, 0x13, 0x03, 0x00, 0x00, 0x00, 0x00, 0x00, 0x00, 0x00, 0x00, 0x00] =
      .ok (.isct h (.s 6) 0#3 0#4 (.s 3) (.s 5) (.s 4), 16) ∧
    decode [0x82, 0xF8, 0x01, 0x00, 0x24, 0x03, 0x00, 0x00, 0x00, 0x00, 0x00, 0x00, 0x08, 0x00, 0x00, 0x0C] =
      .ok (.mma h false 2#6 3#6 0xC9#8, 16) ∧
    decode [0xC0, 0xF9, 0x01, 0x00, 0x00, 0x00, 0x00, 0x08] = .ok (.acal h false 0#6 2#6, 8) ∧
    decode [0x03, 0x00, 0x00, 0x00] = .ok (.pad32, 4) ∧
    decode [0xC0, 0xCF, 0x01, 0x00, 0x00, 0x00, 0x00, 0x00] = .error (.illegal { why := 0x01, bit := 6 })

/-- A step that lets a unit issue runs the instruction decoded from the bytes at the PC of its selected entry, where nothing comes before it and the fetch
reads it whole; and a scheduled event is performed as it stands (R62, R63, R75, R158). The schedule is the model's own field (log entry 1). -/
def Obligations.StepRunsDecoded : Prop :=
  (∀ s ms uid e i n pa, s.schedule = .issue uid :: ms →
    let s0 : State := { s with schedule := ms }
    let u : Machine.Unit := s0.unit uid
    let k : Task := s0.task u.task
    let s1 : State := s0.fillTlb u.core k.asn e.pc.toNat
    s0.mayIssue uid = true → u.pick = some e → s0.beforeIssue uid e = none → e.pc.toNat % 4 = 0 →
    s0.translate u.core k.part k.asn e.pc.toNat .x = .ok pa → remotePkg s0 pa = none →
    decode ((List.range 16).map fun j => s1.codeByte uid (pa + j)) = .ok (i, n) →
    (i ≠ .pad32 → e.pc.toNat % 32 + n ≤ 32 ∧ instrFault i u k.gang = none) →
    ∃ t, exec i { s1 with cur := some uid } = .next t ∧ step s = .next ({ t with cur := none }.dropFetch uid u.frontier)) ∧
  (∀ s ms i, s.schedule = .ev i :: ms → i.issues = false → i ≠ .pad32 → step s = exec i { s with schedule := ms })

/-- What a fetch that fails comes to: each lane of the selected entry traps at the PC, with IFETCH_SPLIT and the PC where the instruction would leave its
32-byte block or starts off a parcel, and with ILLEGAL_OP, the first parcel, WHY 0x02 and BIT 2 at a parcel of LEN 0b11 that is not PAD32; nothing is
counted (R60, R62, R83, R84). -/
def Claim.FetchFaultsTrap : Prop :=
  ∀ s ms uid e, s.schedule = .issue uid :: ms →
    let s0 : State := { s with schedule := ms }
    let u : Machine.Unit := s0.unit uid
    let k : Task := s0.task u.task
    let traps (cause : Nat) (info : W64) : Prop := ∃ t, step s = .next t ∧
      (∀ l, hasLane e.mask l = true → TookTrap u (t.unit uid) (recTrapvec k.record) l e.pc cause info) ∧
      u.othersStand (t.unit uid) e.mask ∧ NoResult u (t.unit uid) ∧ (t.unit uid).nominal = u.nominal ∧ ∀ x a, t.viewByte x a = s.viewByte x a
    s0.mayIssue uid = true → u.pick = some e → e.mask ≠ 0#64 → u.runAhead = none → u.kind ≠ .acc → s0.beforeIssue uid e = none →
    (e.pc.toNat % 4 ≠ 0 → traps 0x04 e.pc) ∧
    (∀ pa, e.pc.toNat % 4 = 0 → s0.translate u.core k.part k.asn e.pc.toNat .x = .ok pa → remotePkg s0 pa = none →
      let bs : List Byte := (List.range 16).map fun j => (s0.fillTlb u.core k.asn e.pc.toNat).codeByte uid (pa + j)
      let p0 : W32 := BitVec.ofNat 32 (bytesVal (bs.take 4))
      (p0.toNat % 4 ≠ 3 → 32 < e.pc.toNat % 32 + 8 + 4 * (p0.toNat % 4) → traps 0x04 e.pc) ∧
      (p0.toNat % 4 = 3 → p0 ≠ 3#32 → traps 0x01 (p0 ++ 0x00000202#32)))

/-- What stands before an issue's effect, outside run-ahead: a decode fault is raised on every lane of the entry's mask whatever its guard, and counts
nothing; a register that is outstanding at variable latency is waited for, the entry where it was; a read or write nearer than the latency, under the check bit,
raises STALL_SHORT on Active with the register and what is lacking, and the issue has no other effect (R76, R77, R83, R214). -/
def Claim.IssueChecksFirst : Prop :=
  ∀ i s h uid e, s.cur = some uid → (s.dueUnit uid).pick = some e → e.mask ≠ 0#64 → e.solo = false → (s.dueUnit uid).runAhead = none →
    (s.dueUnit uid).kind ≠ .acc →
    (i = .nop h ∨ (∃ z sat d a b, i = .add h z sat d a b) ∨ (∃ d a b, i = .and h d a b) ∨ (∃ rm d a b, i = .fadd h rm d a b) ∨
      (∃ size d a off disp, i = .ld h size d a off disp) ∨ (∃ size d a off disp, i = .st h size d a off disp) ∨
      (∃ bp disp, i = .bra h bp disp) ∨ i = .exit h ∨ (∃ d q tag, i = .qpop h d q tag)) →
    let u : Machine.Unit := s.dueUnit uid
    let f : Option (Cause × W64) := instrFault i u ((s.due uid).task u.task).gang
    (∀ c info, f = some (c, info) → ∃ t, exec i s = .next t ∧
      (∀ l, hasLane e.mask l = true → TookTrap u (t.unit uid) ((s.due uid).vector uid) l e.pc c info) ∧
      u.othersStand (t.unit uid) e.mask ∧ NoResult u (t.unit uid) ∧ (t.unit uid).nominal = u.nominal ∧ LeavesBut e.mask (s.due uid) t uid) ∧
    (f = none → u.interlocked i (s.activeOf h uid e) = true →
      exec i s = .next ((s.due uid).setCore u.core { s.core u.core with cyc := (s.core u.core).cyc + 1#64 })) ∧
    (∀ info, f = none → u.interlocked i (s.activeOf h uid e) = false → (s.due uid).shortOf u i (s.activeOf h uid e) = some info →
      ∃ t, exec i s = .next t ∧
        (∀ l, hasLane (s.activeOf h uid e) l = true → TookTrap u (t.unit uid) ((s.due uid).vector uid) l e.pc 0x05 info) ∧
        u.othersStand (t.unit uid) e.mask ∧ NoResult u (t.unit uid) ∧ (t.core u.core).stallShorts = (s.core u.core).stallShorts + 1 ∧
        (∀ x a, t.viewByte x a = s.viewByte x a) ∧ (∀ k a, Memory.read (t.task k).spad a = Memory.read (s.task k).spad a) ∧
        ∀ k, k ≠ uid → t.unit k = s.unit k)

/-- What a fetch that fails, and what stands before an issue's effect, come to (R62, R76, R77, R83). -/
def Obligations.IssuesAreChecked : Prop := Claim.FetchFaultsTrap ∧ Claim.IssueChecksFirst

/-- The machine never stops: every event and every issue of a selected unit answers a next state, and so does every step; an instruction that no unit is
selected for is the model's only fault. The fault is the model's choice (log entry 60). -/
def Obligations.EveryStepGoesOn : Prop :=
  (∀ i s, s.cur ≠ none → Safe (exec i s)) ∧ (∀ i s, i.issues = false → i ≠ .pad32 → Safe (exec i s)) ∧
    (∀ i s, i.issues = true ∨ i = .pad32 → s.cur = none → exec i s = .fault .noIssuer) ∧ ∀ s, Safe (step s)

/-- Every memory of the package, and of a checkpoint image that it holds, is in canonical form. -/
def Claim.MemoriesCanonical (s : State) : Prop :=
  s.memoriesWf = true ∧ ∀ m, s.image = some m → Memory.wf m.mem = true ∧ ∀ k ∈ m.tasks.vals, Memory.wf k.spad = true

/-- Every step keeps every memory in canonical form: addresses rise and no listed byte reads as an unlisted one does, so equal memories are equal data.
The form and what an unlisted byte reads as are the model's choice (log entry 5). -/
def Obligations.MemoriesStayCanonical : Prop :=
  ∀ s t, Claim.MemoriesCanonical s → step s = .next t → Claim.MemoriesCanonical t

/-- The registers of cores, partitions and images hold only values that the spec allows: L1SZ and NEXT are never 0b111 (R18), LIMIT of the hang control is 16 at
least (R253), FLUSH of the trace control 10 at least (R393), WAYS is 12 and SAMPLE 16 at most (R23). -/
def Claim.RegistersLegal (s : State) : Prop :=
  (∀ c ∈ s.cores.vals, c.fieldsOk = true) ∧ (∀ p ∈ s.parts.vals, p.fieldsOk = true) ∧
    (∀ r ∈ s.residDefault.vals, r.ways ≤ 12 ∧ r.sample ≤ 16) ∧ ∀ m, s.image = some m → ∀ p ∈ m.parts.vals, p.fieldsOk = true

/-- Every step keeps the registers at values that the spec allows. -/
def Obligations.RegistersStayLegal : Prop :=
  ∀ s t, Claim.RegistersLegal s → step s = .next t → Claim.RegistersLegal t

/-- Right after reset both invariants hold, and the registers stand at the values of their rules: the split 0b010, no swap, spill or fill, LIMIT 0b11000 with
the hang check off, PERIOD 0b1010 and FLUSH 0b1_0100 with tracing off, no comparator enabled, `%cyc` zero; heartwood frozen at slot 1; no partition, task or
unit (R18, R74, R151, R253, R393, R399, R401). -/
def Obligations.ResetStands : Prop :=
  Claim.MemoriesCanonical State.reset ∧ Claim.RegistersLegal State.reset ∧
    (∀ k, let c : Core := State.reset.core k
      c.l1sz = 0b010#3 ∧ c.l1next = 0b010#3 ∧ c.l1pend = false ∧ c.spill = false ∧ c.fill = false ∧ c.ready = false ∧ c.softSwap = false ∧
        c.hangEn = false ∧ c.hangLim = 0b11000#5 ∧ c.traceCtl = 0x000A0014#32 ∧ (∀ n x, c.comparators.get n = some x → x.en = false) ∧
        c.cyc = 0#64 ∧ c.mresetBusy = false) ∧
    (∀ d, (State.reset.die d).heartFrozen = true ∧ (State.reset.die d).heartHead = 1 ∧ (State.reset.die d).heartResets = 0) ∧
    (∀ a, State.reset.homeByte a = 0#8) ∧ State.reset.parts = [] ∧ State.reset.tasks = [] ∧ State.reset.units = []
end

