-- ==== Sys2Proof/Laws/Map.lean ====
section
/-! SUPPORT. Laws of finite maps and of byte memories: a read after a write, a write leaves every other key alone, and every operation
keeps the canonical form. -/

namespace Sys2Proof.Machine

/-! ### Reads and writes of a map -/

@[simp] theorem SMap.get_nil {α : Type} (k : Nat) : SMap.get ([] : SMap α) k = none := rfl

@[simp] theorem SMap.get_set_same {α : Type} (m : SMap α) (k : Nat) (v : α) : SMap.get (SMap.set m k v) k = some v := by
  induction m with
  | nil => simp [SMap.set, SMap.get]
  | cons p m ih =>
    obtain ⟨j, w⟩ := p
    simp only [SMap.set]
    split
    · simp [SMap.get]
    · split
      · simp [SMap.get]
      · rename_i h1 h2
        simp only [SMap.get]
        rw [if_neg (fun h => h2 h.symm)]
        exact ih

theorem SMap.get_set_other {α : Type} (m : SMap α) (k j : Nat) (v : α) (h : j ≠ k) :
    SMap.get (SMap.set m k v) j = SMap.get m j := by
  induction m with
  | nil => simp [SMap.set, SMap.get, h.symm]
  | cons p m ih =>
    obtain ⟨i, w⟩ := p
    simp only [SMap.set]
    split
    · simp [SMap.get, h.symm]
    · split
      · rename_i h2
        subst h2
        simp [SMap.get, h.symm]
      · simp only [SMap.get]
        split
        · rfl
        · exact ih

/-- A second write of a key replaces the first. -/
theorem SMap.set_set {α : Type} (m : SMap α) (k : Nat) (v w : α) : SMap.set (SMap.set m k v) k w = SMap.set m k w := by
  induction m with
  | nil => simp [SMap.set]
  | cons p m ih =>
    obtain ⟨j, x⟩ := p
    by_cases h1 : k < j
    · simp [SMap.set, h1]
    · by_cases h2 : k = j
      · subst h2; simp [SMap.set]
      · simp [SMap.set, h1, h2, ih]

theorem SMap.get_del_other {α : Type} (m : SMap α) (k j : Nat) (h : j ≠ k) : SMap.get (SMap.del m k) j = SMap.get m j := by
  unfold SMap.del
  induction m with
  | nil => rfl
  | cons p m ih =>
    obtain ⟨i, w⟩ := p
    by_cases e : i = k
    · subst e
      rw [List.filter_cons_of_neg (by simp), ih]
      simp [SMap.get, h.symm]
    · rw [List.filter_cons_of_pos (by simpa using e)]
      simp only [SMap.get, ih]

/-- A key that was taken out reads as nothing. -/
@[simp] theorem SMap.get_del_same {α : Type} (m : SMap α) (k : Nat) : SMap.get (SMap.del m k) k = none := by
  unfold SMap.del
  induction m with
  | nil => rfl
  | cons p m ih =>
    obtain ⟨i, w⟩ := p
    by_cases e : i = k
    · rw [List.filter_cons_of_neg (by simpa using e)]; exact ih
    · rw [List.filter_cons_of_pos (by simpa using e)]
      simp only [SMap.get, if_neg e]; exact ih

/-! ### Canonical form of a map -/

theorem SMap.rising_mono {α : Type} (m : SMap α) (lo hi : Nat) (h : lo ≤ hi) (r : SMap.rising hi m = true) :
    SMap.rising lo m = true := by
  cases m with
  | nil => rfl
  | cons p m =>
    obtain ⟨j, w⟩ := p
    simp only [SMap.rising, Bool.and_eq_true, decide_eq_true_eq] at r ⊢
    exact ⟨by omega, r.2⟩

theorem SMap.rising_set {α : Type} (m : SMap α) (lo k : Nat) (v : α) (hk : lo ≤ k) (r : SMap.rising lo m = true) :
    SMap.rising lo (SMap.set m k v) = true := by
  induction m generalizing lo with
  | nil => simp [SMap.set, SMap.rising, hk]
  | cons p m ih =>
    obtain ⟨j, w⟩ := p
    simp only [SMap.rising, Bool.and_eq_true, decide_eq_true_eq] at r
    simp only [SMap.set]
    split
    · rename_i h
      simp only [SMap.rising, Bool.and_eq_true, decide_eq_true_eq]
      exact ⟨hk, by omega, r.2⟩
    · split
      · rename_i h
        subst h
        simp only [SMap.rising, Bool.and_eq_true, decide_eq_true_eq]
        exact r
      · simp only [SMap.rising, Bool.and_eq_true, decide_eq_true_eq]
        exact ⟨r.1, ih (j + 1) (by omega) r.2⟩

theorem SMap.wf_set {α : Type} (m : SMap α) (k : Nat) (v : α) (r : SMap.wf m = true) : SMap.wf (SMap.set m k v) = true :=
  SMap.rising_set m 0 k v (Nat.zero_le k) r

theorem SMap.rising_filter {α : Type} (m : SMap α) (f : Nat × α → Bool) (lo : Nat) (r : SMap.rising lo m = true) :
    SMap.rising lo (m.filter f) = true := by
  induction m generalizing lo with
  | nil => rfl
  | cons p m ih =>
    obtain ⟨j, w⟩ := p
    simp only [SMap.rising, Bool.and_eq_true, decide_eq_true_eq] at r
    by_cases h : f (j, w)
    · simp only [List.filter_cons_of_pos h, SMap.rising, Bool.and_eq_true, decide_eq_true_eq]
      exact ⟨r.1, ih (j + 1) r.2⟩
    · rw [List.filter_cons_of_neg h]
      exact SMap.rising_mono _ lo (j + 1) (by omega) (ih (j + 1) r.2)

/-- A selection of a map keeps the canonical form. -/
theorem SMap.wf_filter {α : Type} (m : SMap α) (f : Nat × α → Bool) (r : SMap.wf m = true) : SMap.wf (m.filter f) = true :=
  SMap.rising_filter m f 0 r

theorem SMap.wf_del {α : Type} (m : SMap α) (k : Nat) (r : SMap.wf m = true) : SMap.wf (SMap.del m k) = true :=
  SMap.wf_filter m _ r

/-! ### Byte memories -/

/-- A read after a write to the same address gives the byte written. -/
theorem Memory.read_write_same (m : Memory) (a : Nat) (b : Byte) : Memory.read (Memory.write m a b) a = b := by
  simp only [Memory.read, Memory.write]
  split
  · rename_i hb
    rw [SMap.get_del_same m a, hb]
    rfl
  · rw [SMap.get_set_same]
    rfl

/-- A write leaves every other address alone. -/
theorem Memory.read_write_other (m : Memory) (a x : Nat) (b : Byte) (h : x ≠ a) :
    Memory.read (Memory.write m a b) x = Memory.read m x := by
  simp only [Memory.read, Memory.write]
  split
  · rw [SMap.get_del_other m a x h]
  · rw [SMap.get_set_other m a x b h]

theorem SMap.all_set {α : Type} (m : SMap α) (k : Nat) (v : α) (f : Nat × α → Bool) (h : m.all f = true) (hv : f (k, v) = true) :
    (SMap.set m k v).all f = true := by
  induction m with
  | nil => simp [SMap.set, hv]
  | cons p m ih =>
    obtain ⟨j, w⟩ := p
    simp only [List.all_cons, Bool.and_eq_true] at h
    simp only [SMap.set]
    split
    · simp [List.all_cons, hv, h.1, h.2]
    · split
      · simp [List.all_cons, hv, h.2]
      · simp [List.all_cons, h.1, ih h.2]

theorem SMap.all_del {α : Type} (m : SMap α) (k : Nat) (f : Nat × α → Bool) (h : m.all f = true) :
    (SMap.del m k).all f = true := by
  simp only [SMap.del, List.all_eq_true, List.mem_filter] at *
  exact fun x hx => h x hx.1

theorem Memory.wf_write (m : Memory) (a : Nat) (b : Byte) (h : Memory.wf m = true) : Memory.wf (Memory.write m a b) = true := by
  simp only [Memory.wf, Bool.and_eq_true] at h ⊢
  simp only [Memory.write]
  split
  · exact ⟨SMap.wf_del m a h.1, SMap.all_del m a _ h.2⟩
  · rename_i hb
    refine ⟨SMap.wf_set m a b h.1, SMap.all_set m a b _ h.2 ?_⟩
    simpa [bne_iff_ne] using hb

/-- Writing bytes from an address upward keeps the canonical form. -/
theorem Memory.wf_writeN (bs : List Byte) (m : Memory) (a : Nat) (h : Memory.wf m = true) :
    Memory.wf (Memory.writeN m a bs) = true := by
  induction bs generalizing m a with
  | nil => exact h
  | cons b bs ih => exact ih _ _ (Memory.wf_write m a b h)

/-- Writing bytes leaves every address outside them alone. -/
theorem Memory.read_writeN_other (bs : List Byte) (m : Memory) (a x : Nat) (h : x < a ∨ a + bs.length ≤ x) :
    Memory.read (Memory.writeN m a bs) x = Memory.read m x := by
  induction bs generalizing m a with
  | nil => rfl
  | cons b bs ih =>
    simp only [List.length_cons] at h
    simp only [Memory.writeN]
    rw [ih _ _ (by omega), Memory.read_write_other m a x b (by omega)]

/-- Clearing a part of a memory keeps the canonical form. -/
theorem Memory.wf_filter (m : Memory) (f : Nat × Byte → Bool) (h : Memory.wf m = true) : Memory.wf (m.filter f) = true := by
  simp only [Memory.wf, Bool.and_eq_true] at h ⊢
  refine ⟨SMap.wf_filter m f h.1, ?_⟩
  rw [List.all_eq_true] at h ⊢
  intro p hp
  exact h.2 p (List.mem_of_mem_filter hp)

end Sys2Proof.Machine
end

