-- ==== Sys2Proof/Laws/Late.lean ====
section
/-! SUPPORT. Laws of registers, predicates and the completion buffer: what a register reads as after results are written, put into the
buffer, or retired (R65, R76 to R78). -/

namespace Sys2Proof.Machine

/-! ### One write -/

theorem Unit.v_putV (u : Unit) (n l m k : Nat) (v : W32) :
    (u.putV n l v).v m k = if m = n ∧ k = l ∧ l < 64 then v else u.v m k := by
  unfold Unit.putV Unit.v
  by_cases hl : l < 64
  · by_cases hk : k < 64
    · by_cases e : m = n ∧ k = l
      · obtain ⟨rfl, rfl⟩ := e; simp [hl]
      · have : 64 * m + k ≠ 64 * n + l := by omega
        have e' : ¬ (m = n ∧ k = l ∧ l < 64) := fun h => e ⟨h.1, h.2.1⟩
        rw [if_neg e']; simp [hl, hk, SMap.get_set_other _ _ _ _ this]
    · have : ¬ (m = n ∧ k = l ∧ l < 64) := by omega
      simp [hk, this]
  · simp [hl]

@[simp] theorem Unit.s_putV (u : Unit) (n l m : Nat) (v : W32) : (u.putV n l v).s m = u.s m := by unfold Unit.putV; split <;> rfl
@[simp] theorem Unit.p_putV (u : Unit) (n l : Nat) (q : Pred) (v : W32) : (u.putV n l v).p q = u.p q := by
  unfold Unit.putV; split <;> rfl
@[simp] theorem Unit.v_putS (u : Unit) (n m k : Nat) (v : W64) : (u.putS n v).v m k = u.v m k := rfl
@[simp] theorem Unit.p_putS (u : Unit) (n : Nat) (q : Pred) (v : W64) : (u.putS n v).p q = u.p q := rfl

theorem Unit.s_putS_same (u : Unit) (n : Nat) (v : W64) : (u.putS n v).s n = v := by simp [Unit.s, Unit.putS]

theorem Unit.s_putS_other (u : Unit) (n m : Nat) (v : W64) (h : m ≠ n) : (u.putS n v).s m = u.s m := by
  simp [Unit.s, Unit.putS, SMap.get_set_other _ _ _ _ h]

@[simp] theorem Unit.v_putP (u : Unit) (p : Pred) (l m k : Nat) (b : Bool) : (u.putP p l b).v m k = u.v m k := by
  unfold Unit.putP; split <;> rfl

@[simp] theorem Unit.s_putP (u : Unit) (p : Pred) (l m : Nat) (b : Bool) : (u.putP p l b).s m = u.s m := by
  unfold Unit.putP; split <;> rfl

theorem Unit.p_seven (u : Unit) : u.p 7#3 = BitVec.allOnes 64 := by simp [Unit.p]

theorem Unit.p_putP_other (u : Unit) (p q : Pred) (l : Nat) (b : Bool) (h : q ≠ p) : (u.putP p l b).p q = u.p q := by
  have hn : q.toNat ≠ p.toNat := fun e => h (BitVec.eq_of_toNat_eq e)
  by_cases h7 : p = 7#3
  · simp [Unit.putP, h7]
  · simp [Unit.putP, h7, Unit.p, SMap.get_set_other _ _ _ _ hn]

theorem Unit.p_putP_same (u : Unit) (p : Pred) (l : Nat) (b : Bool) (h : p ≠ 7#3) :
    (u.putP p l b).p p = if b then u.p p ||| laneBit l else u.p p &&& ~~~laneBit l := by
  simp [Unit.putP, Unit.p, h]

theorem hasLane_laneBit (l k : Nat) : hasLane (laneBit l) k = (decide (k < 64) && (l == k)) := by
  unfold hasLane laneBit
  rw [BitVec.getLsbD_twoPow]
  by_cases h : k < 64 <;> by_cases e : l = k <;> simp_all

theorem hasLane_putP (u : Unit) (p : Pred) (l k : Nat) (b : Bool) (h : p ≠ 7#3) (hk : k < 64) :
    hasLane ((u.putP p l b).p p) k = if l = k then b else hasLane (u.p p) k := by
  rw [Unit.p_putP_same _ _ _ _ h]
  have e := hasLane_laneBit l k
  unfold hasLane at *
  by_cases hl : l = k <;> cases b <;> simp_all

/-! ### What a list of results leaves in a register -/

/-- The last value of a list of lane values for a lane. -/
def valFor (vals : List (Nat × W64)) (l : Nat) : Option W64 :=
  vals.foldl (fun acc x => if x.1 = l then some x.2 else acc) none

/-- The value that a result gives register `r` in lane `l`. -/
def Late.regVal (x : Late) (r : Reg) (l : Nat) : Option W64 :=
  match x.dst, r with
  | .r (.v n), .v m => if n = m ∧ l < 64 then (valFor x.vals l).map fun v => zx (lo32 v) else none
  | .r (.s n), .s m => if n = m then x.vals.head?.map Prod.snd else none
  | _, _ => none

/-- The value that a result gives predicate `p` in lane `l`. -/
def Late.predVal (x : Late) (p : Pred) (l : Nat) : Option Bool :=
  if x.dst = .p p ∧ p ≠ 7#3 then (valFor x.vals l).map fun v => v != 0#64 else none

/-- The last of a list of values that a function of results gives. -/
def lastVal {α : Type} (f : Late → Option α) (xs : List Late) : Option α :=
  xs.foldl (fun acc x => (f x).or acc) none

theorem valFor_aux (vals : List (Nat × W64)) (l : Nat) (a : Option W64) :
    vals.foldl (fun acc x => if x.1 = l then some x.2 else acc) a = (valFor vals l).or a := by
  unfold valFor
  induction vals generalizing a with
  | nil => simp
  | cons x xs ih =>
    simp only [List.foldl_cons]
    rw [ih, ih (if x.1 = l then some x.2 else none)]
    split <;> cases List.foldl _ none xs <;> simp

theorem valFor_cons (x : Nat × W64) (xs : List (Nat × W64)) (l : Nat) :
    valFor (x :: xs) l = (valFor xs l).or (if x.1 = l then some x.2 else none) := by
  rw [valFor, List.foldl_cons, valFor_aux]

theorem valFor_none (vals : List (Nat × W64)) (l : Nat) (h : ∀ x ∈ vals, x.1 ≠ l) : valFor vals l = none := by
  induction vals with
  | nil => rfl
  | cons x xs ih => simp_all [valFor_cons]

theorem valFor_filter (vals : List (Nat × W64)) (l : Nat) (f : Nat × W64 → Bool) (h : ∀ x ∈ vals, x.1 = l → f x = true) :
    valFor (vals.filter f) l = valFor vals l := by
  induction vals with
  | nil => rfl
  | cons x xs ih =>
    have hx := ih fun y hy => h y (List.mem_cons_of_mem _ hy)
    by_cases e : x.1 = l
    · have := h x List.mem_cons_self e
      simp [this, valFor_cons, hx]
    · by_cases fx : f x <;> simp [fx, valFor_cons, hx, e]

theorem valFor_map (ls : List Nat) (f : Nat → W64) (l : Nat) :
    valFor (ls.map fun k => (k, f k)) l = if l ∈ ls then some (f l) else none := by
  induction ls with
  | nil => rfl
  | cons k ks ih =>
    rw [List.map_cons, valFor_cons, ih]
    by_cases e : k = l
    · by_cases m : l ∈ ks <;> simp_all
    · have : l ≠ k := fun h => e h.symm
      by_cases m : l ∈ ks <;> simp_all

theorem Unit.v_foldV (n m l : Nat) (vals : List (Nat × W64)) (u : Unit) :
    (vals.foldl (fun a x => a.putV n x.1 (lo32 x.2)) u).v m l =
      if m = n ∧ l < 64 then ((valFor vals l).map lo32).getD (u.v m l) else u.v m l := by
  induction vals generalizing u with
  | nil => simp [valFor]
  | cons x xs ih =>
    rw [List.foldl_cons, ih, valFor_cons, Unit.v_putV]
    by_cases hm : m = n ∧ l < 64
    · obtain ⟨rfl, hl⟩ := hm
      by_cases e : x.1 = l
      · subst e; cases valFor xs x.1 <;> simp [hl]
      · have e' : ¬ l = x.1 := fun h => e h.symm
        cases valFor xs l <;> simp [hl, e, e']
    · have : ¬ (m = n ∧ l = x.1 ∧ x.1 < 64) := by omega
      simp [hm, this]

theorem Unit.s_foldV (n m : Nat) (vals : List (Nat × W64)) (u : Unit) :
    (vals.foldl (fun a x => a.putV n x.1 (lo32 x.2)) u).s m = u.s m := by
  induction vals generalizing u with
  | nil => rfl
  | cons x xs ih => rw [List.foldl_cons, ih]; simp

theorem Unit.p_foldV (n : Nat) (q : Pred) (vals : List (Nat × W64)) (u : Unit) :
    (vals.foldl (fun a x => a.putV n x.1 (lo32 x.2)) u).p q = u.p q := by
  induction vals generalizing u with
  | nil => rfl
  | cons x xs ih => rw [List.foldl_cons, ih]; simp

theorem Unit.regs_foldP (p : Pred) (vals : List (Nat × W64)) (u : Unit) (r : Reg) (l : Nat) :
    (vals.foldl (fun a x => a.putP p x.1 (x.2 != 0#64)) u).src64 r l = u.src64 r l := by
  induction vals generalizing u with
  | nil => rfl
  | cons x xs ih => rw [List.foldl_cons, ih]; cases r <;> simp [Unit.src64]

theorem Unit.p_foldP_other (p q : Pred) (h : q ≠ p) (vals : List (Nat × W64)) (u : Unit) :
    (vals.foldl (fun a x => a.putP p x.1 (x.2 != 0#64)) u).p q = u.p q := by
  induction vals generalizing u with
  | nil => rfl
  | cons x xs ih => rw [List.foldl_cons, ih, Unit.p_putP_other _ _ _ _ _ h]

theorem Unit.p_foldP_same (p : Pred) (h : p ≠ 7#3) (vals : List (Nat × W64)) (l : Nat) (hl : l < 64) (u : Unit) :
    hasLane ((vals.foldl (fun a x => a.putP p x.1 (x.2 != 0#64)) u).p p) l =
      ((valFor vals l).map fun v => v != 0#64).getD (hasLane (u.p p) l) := by
  induction vals generalizing u with
  | nil => simp [valFor]
  | cons x xs ih =>
    rw [List.foldl_cons, ih, valFor_cons, hasLane_putP _ _ _ _ _ h hl]
    by_cases e : x.1 = l <;> cases valFor xs l <;> simp [e]

theorem Unit.src64_writeDst (u : Unit) (x : Late) (r : Reg) (l : Nat) :
    (u.writeDst x.dst x.vals).src64 r l = (x.regVal r l).getD (u.src64 r l) := by
  obtain ⟨due, dst, vals⟩ := x
  cases dst with
  | p p => simp [Unit.writeDst, Unit.regs_foldP, Late.regVal]
  | r d =>
    cases d with
    | v n =>
      cases r with
      | v m =>
        simp only [Unit.writeDst, Unit.src64, Unit.v_foldV, Late.regVal]
        by_cases e : n = m
        · subst e
          by_cases hl : l < 64
          · cases valFor vals l <;> simp [hl]
          · simp [hl]
        · have e' : ¬ m.val = n.val := fun h => e (Fin.ext h.symm)
          simp [e, e']
      | s m => simp [Unit.writeDst, Unit.src64, Unit.s_foldV, Late.regVal]
    | s n =>
      cases vals with
      | nil =>
        cases r with
        | v m => simp [Unit.writeDst, Late.regVal]
        | s m => by_cases e : n = m <;> simp [Unit.writeDst, Late.regVal]
      | cons y ys =>
        cases r with
        | v m => simp [Unit.writeDst, Unit.src64, Late.regVal]
        | s m =>
          by_cases e : n = m
          · subst e; simp [Unit.writeDst, Unit.src64, Late.regVal, Unit.s_putS_same]
          · have e' : m.val ≠ n.val := fun h => e (Fin.ext h.symm)
            simp [Unit.writeDst, Unit.src64, Late.regVal, Unit.s_putS_other _ _ _ _ e', e]

theorem Unit.p_writeDst (u : Unit) (x : Late) (p : Pred) (l : Nat) (hl : l < 64) :
    hasLane ((u.writeDst x.dst x.vals).p p) l = (x.predVal p l).getD (hasLane (u.p p) l) := by
  obtain ⟨due, dst, vals⟩ := x
  cases dst with
  | r d =>
    cases d with
    | v n => simp [Unit.writeDst, Unit.p_foldV, Late.predVal]
    | s n => cases vals <;> simp [Unit.writeDst, Late.predVal]
  | p q =>
    by_cases e : p = q
    · subst e
      by_cases h7 : p = 7#3
      · simp [h7, Late.predVal, Unit.p_seven]
      · simp only [Unit.writeDst, Unit.p_foldP_same _ h7 _ _ hl, Late.predVal]; simp [h7]
    · have e' : ¬ (q = p) := fun h => e h.symm
      simp [Unit.writeDst, Unit.p_foldP_other _ _ e, Late.predVal, e']

theorem lastVal_aux {α : Type} (f : Late → Option α) (xs : List Late) (a : Option α) :
    xs.foldl (fun acc x => (f x).or acc) a = (lastVal f xs).or a := by
  unfold lastVal
  induction xs generalizing a with
  | nil => simp
  | cons x xs ih =>
    simp only [List.foldl_cons]
    rw [ih, ih ((f x).or none)]
    cases List.foldl _ none xs <;> cases f x <;> simp

theorem lastVal_cons {α : Type} (f : Late → Option α) (x : Late) (xs : List Late) :
    lastVal f (x :: xs) = (lastVal f xs).or (f x) := by
  rw [lastVal, List.foldl_cons, lastVal_aux]; cases f x <;> rfl

theorem lastVal_append {α : Type} (f : Late → Option α) (xs ys : List Late) :
    lastVal f (xs ++ ys) = (lastVal f ys).or (lastVal f xs) := by
  rw [lastVal, List.foldl_append, lastVal_aux]; rfl

theorem Unit.src64_foldLate (xs : List Late) (u : Unit) (r : Reg) (l : Nat) :
    (xs.foldl (fun a x => a.writeDst x.dst x.vals) u).src64 r l = (lastVal (Late.regVal · r l) xs).getD (u.src64 r l) := by
  induction xs generalizing u with
  | nil => rfl
  | cons x xs ih =>
    rw [List.foldl_cons, ih, lastVal_cons, Unit.src64_writeDst]
    cases lastVal (Late.regVal · r l) xs <;> simp

theorem Unit.p_foldLate (xs : List Late) (u : Unit) (p : Pred) (l : Nat) (hl : l < 64) :
    hasLane ((xs.foldl (fun a x => a.writeDst x.dst x.vals) u).p p) l =
      (lastVal (Late.predVal · p l) xs).getD (hasLane (u.p p) l) := by
  induction xs generalizing u with
  | nil => rfl
  | cons x xs ih =>
    rw [List.foldl_cons, ih, lastVal_cons, Unit.p_writeDst _ _ _ _ hl]
    cases lastVal (Late.predVal · p l) xs <;> simp

/-! ### The buffer -/

/-- What a register holds at a count: the last result due by then, else what the unit holds (R78). -/
theorem Unit.regAt_eq (u : Unit) (n : Nat) (r : Reg) (l : Nat) :
    u.regAt n r l = (lastVal (Late.regVal · r l) (u.late.filter fun x => decide (x.due ≤ n))).getD (u.src64 r l) := by
  simp only [Unit.regAt, Unit.after, Unit.retire, Unit.src64_foldLate]
  cases r <;> rfl

/-- What a predicate holds at a count (R78). -/
theorem Unit.predAt_eq (u : Unit) (n : Nat) (p : Pred) (l : Nat) (hl : l < 64) :
    u.predAt n p l = (lastVal (Late.predVal · p l) (u.late.filter fun x => decide (x.due ≤ n))).getD (hasLane (u.p p) l) := by
  simp only [Unit.predAt, Unit.after, Unit.retire, Unit.p_foldLate _ _ _ _ hl]
  rfl

/-- A destination's lanes dropped from a buffer change no value that a function of results gives where it gives none to what is
dropped (R77). -/
theorem lastVal_dropLate {α : Type} (f : Late → Option α) (ls : List Late) (d : Dst) (lanes : List Nat) (n : Nat)
    (hsame : ∀ x ∈ ls, f (x.without d lanes) = f x) (hnil : ∀ x : Late, x.vals = [] → f x = none) :
    lastVal f ((dropLate ls d lanes).filter fun x => decide (x.due ≤ n)) =
      lastVal f (ls.filter fun x => decide (x.due ≤ n)) := by
  have hdue (x : Late) : (x.without d lanes).due = x.due := by
    unfold Late.without; split
    · split <;> rfl
    · rfl
  induction ls with
  | nil => rfl
  | cons x xs ih =>
    have hx := hsame x List.mem_cons_self
    have ihx := ih fun y hy => hsame y (List.mem_cons_of_mem _ hy)
    simp only [dropLate, List.filter_filter] at ihx
    by_cases e : (x.without d lanes).vals = []
    · have fx : f x = none := by rw [← hx]; exact hnil _ e
      by_cases hn : x.due ≤ n
      · simp [dropLate, e, hn, lastVal_cons, fx, ihx]
      · simp [dropLate, e, hn, ihx]
    · by_cases hn : x.due ≤ n
      · simp [dropLate, e, hn, lastVal_cons, ihx, hdue, hx]
      · simp [dropLate, e, hn, ihx, hdue]

theorem lanesOf_lt {m : LMask} {l : Nat} (h : l ∈ lanesOf m) : l < 64 := by
  simp only [lanesOf, List.mem_filter, List.mem_range] at h; exact h.1

theorem mem_lanesOf {m : LMask} {l : Nat} (h : l < 64) : l ∈ lanesOf m ↔ hasLane m l = true := by
  simp [lanesOf, hasLane, h]

/-- Registers read alike where the buffer and the registers are alike. -/
theorem Unit.regAt_congr {u v : Unit} (hl : v.late = u.late) (hv : v.vregs = u.vregs) (hs : v.sregs = u.sregs) (n : Nat) (r : Reg)
    (l : Nat) : v.regAt n r l = u.regAt n r l := by
  rw [Unit.regAt_eq, Unit.regAt_eq, hl]
  cases r <;> simp [Unit.src64, Unit.v, Unit.s, hv, hs]

/-- Predicates read alike where the buffer and the predicates are alike. -/
theorem Unit.predAt_congr {u v : Unit} (hl : v.late = u.late) (hp : v.preds = u.preds) (n : Nat) (p : Pred) (l : Nat) :
    v.predAt n p l = u.predAt n p l := by
  by_cases h : l < 64
  · rw [Unit.predAt_eq _ _ _ _ h, Unit.predAt_eq _ _ _ _ h, hl]; simp [Unit.p, hp]
  · simp [Unit.predAt, hasLane, BitVec.getLsbD_of_ge, Nat.le_of_not_lt h]

theorem head_lanesOf (m : LMask) : (lanesOf m).head? = if m = 0#64 then none else some (lowest m) := by
  by_cases h : m = 0#64
  · subst h; decide
  · rw [if_neg h]
    cases e : lanesOf m with
    | nil =>
      exfalso; apply h
      apply BitVec.eq_of_getLsbD_eq
      intro i hi
      have : ¬ (i ∈ lanesOf m) := by rw [e]; simp
      rw [mem_lanesOf hi] at this
      simpa [hasLane] using this
    | cons a as => simp [lowest, e]

theorem Late.without_other (x : Late) (d : Dst) (lanes : List Nat) (h : x.dst ≠ d) : x.without d lanes = x := by
  simp [Late.without, h]

theorem regVal_nil (r : Reg) (l : Nat) (x : Late) (hx : x.vals = []) : x.regVal r l = none := by
  obtain ⟨due, dst, xv⟩ := x
  simp only at hx; subst hx
  rcases dst with (a | a) | a <;> cases r <;> simp [Late.regVal, valFor]

theorem predVal_nil (p : Pred) (l : Nat) (x : Late) (hx : x.vals = []) : x.predVal p l = none := by
  simp [Late.predVal, hx, valFor]

/-- A fixed-latency result of an instruction: the destination receives it `lat` issues on, and nothing else changes (R76, R78). -/
theorem Unit.writeLate_reg (u : Unit) (lat : Nat) (d : Reg) (act : LMask) (f : Nat → W64) :
    RegResult u (u.writeLate lat (.r d) (resultVals d act f)) lat d act f := by
  set vals := resultVals d act f with hvals
  by_cases hemp : vals.isEmpty
  · have hv : u.writeLate lat (.r d) vals = u := by simp [Unit.writeLate, hemp]
    have hact : ∀ l, l < 64 → resultAt d act f l = none := by
      intro l hl
      simp only [resultAt]
      cases d with
      | v n =>
        simp only [resultVals, isVec, if_true, List.isEmpty_iff] at hvals hemp
        rw [hvals, List.map_eq_nil_iff] at hemp
        have : ¬ l ∈ lanesOf act := by rw [hemp]; simp
        rw [mem_lanesOf hl] at this
        simp [isVec, this]
      | s n =>
        simp only [resultVals, isVec, head_lanesOf] at hvals
        by_cases h0 : act = 0#64
        · simp [isVec, h0]
        · rw [hvals] at hemp; simp [h0] at hemp
    rw [hv]
    exact ⟨fun n l r _ hl h => by rw [hact l hl] at h; simp at h, fun _ _ _ _ => rfl, fun _ _ _ _ _ => rfl,
      fun _ _ _ => rfl⟩
  · have hlate : (u.writeLate lat (.r d) vals).late =
        dropLate u.late (.r d) (vals.map Prod.fst) ++ [{ due := u.nominal + lat, dst := .r d, vals := vals }] := by
      simp [Unit.writeLate, hemp]
    have hreg (r : Reg) (l : Nat) : (u.writeLate lat (.r d) vals).src64 r l = u.src64 r l := by
      unfold Unit.writeLate; split <;> cases r <;> rfl
    have hp (p : Pred) : (u.writeLate lat (.r d) vals).p p = u.p p := by
      unfold Unit.writeLate; split <;> rfl
    set new : Late := { due := u.nominal + lat, dst := .r d, vals := vals } with hnew
    -- what the new result gives
    have hres (l : Nat) (hl : l < 64) : new.regVal d l = resultAt d act f l := by
      cases d with
      | v n =>
        simp only [hnew, Late.regVal, hvals, resultVals, isVec, if_true, resultAt]
        rw [valFor_map]
        by_cases m : hasLane act l = true <;> simp [mem_lanesOf hl, hl, m]
      | s n =>
        simp only [hnew, Late.regVal, hvals, resultVals, isVec, resultAt, head_lanesOf]
        by_cases h0 : act = 0#64 <;> simp [h0]
    have hother (r : Reg) (l : Nat) (hl : l < 64) (hr : r ≠ d) : new.regVal r l = none := by
      cases d with
      | v n =>
        cases r with
        | v m =>
          have hnm : ¬ n = m := fun h => hr (by rw [h])
          simp [hnew, Late.regVal, hnm]
        | s m => rfl
      | s n =>
        cases r with
        | v m => rfl
        | s m =>
          have : ¬ n = m := fun h => hr (by rw [h])
          simp [hnew, Late.regVal, this]
    have hnil := regVal_nil
    -- what the buffer's other results give after lanes are dropped
    have hdrop (r : Reg) (l : Nat) (hl : l < 64) (h : r ≠ d ∨ resultAt d act f l = none) (x : Late) :
        (x.without (.r d) (vals.map Prod.fst)).regVal r l = x.regVal r l := by
      by_cases hd : x.dst = .r d
      · obtain ⟨due, dst, xv⟩ := x
        simp only at hd; subst hd
        cases d with
        | s n =>
          rcases h with h | h
          · cases r with
            | v m => simp [Late.without, Late.regVal]
            | s m =>
              have : ¬ n = m := fun e => h (by rw [e])
              simp [Late.without, Late.regVal, this]
          · exfalso
            simp only [resultVals, isVec, head_lanesOf] at hvals
            simp only [resultAt, isVec] at h
            by_cases h0 : act = 0#64
            · rw [hvals] at hemp; simp [h0] at hemp
            · simp [h0] at h
        | v n =>
          cases r with
          | s m => simp [Late.without, Late.regVal]
          | v m =>
            simp only [Late.without, beq_self_eq_true, if_true, Late.regVal]
            by_cases hnm : n = m ∧ l < 64
            · rw [if_pos hnm, if_pos hnm]
              congr 1
              refine valFor_filter _ _ _ fun p _ hp => ?_
              have hm : ¬ hasLane act l = true := by
                rcases h with h | h
                · exact absurd (by rw [hnm.1]) h
                · intro hl'; simp [resultAt, isVec, hl'] at h
              simp only [Bool.not_eq_true', List.contains_eq_mem, decide_eq_false_iff_not]
              intro hk
              have : p.1 ∈ lanesOf act := by simpa [hvals, resultVals, isVec] using hk
              exact hm (hp ▸ (mem_lanesOf (lanesOf_lt this)).1 this)
            · rw [if_neg hnm, if_neg hnm]
      · rw [Late.without_other _ _ _ hd]
    refine ⟨fun n l r hn hl h => ?_, fun n l hl h => ?_, fun n r l hl hr => ?_, fun n p l => ?_⟩
    · rw [Unit.regAt_eq, hlate, List.filter_append, lastVal_append]
      have : decide (new.due ≤ n) = true := by simpa [hnew] using hn
      simp [this, lastVal, hres l hl, h]
    · rw [Unit.regAt_eq, Unit.regAt_eq, hlate, List.filter_append, lastVal_append, hreg,
        lastVal_dropLate _ _ _ _ _ (fun x _ => hdrop d l hl (.inr h) x) (hnil d l)]
      by_cases hn : new.due ≤ n <;> simp [hn, lastVal, hres l hl, h]
    · rw [Unit.regAt_eq, Unit.regAt_eq, hlate, List.filter_append, lastVal_append, hreg,
        lastVal_dropLate _ _ _ _ _ (fun x _ => hdrop r l hl (.inl hr) x) (hnil r l)]
      by_cases hn : new.due ≤ n <;> simp [hn, lastVal, hother r l hl hr]
    · have hnew' : new.predVal p l = none := by simp [hnew, Late.predVal]
      have hsame (x : Late) : (x.without (.r d) (vals.map Prod.fst)).predVal p l = x.predVal p l := by
        by_cases hd : x.dst = .r d
        · have hd' : (x.without (.r d) (vals.map Prod.fst)).dst = .r d := by
            rw [← hd]; unfold Late.without; split
            · split <;> rfl
            · rfl
          simp [Late.predVal, hd, hd']
        · rw [Late.without_other _ _ _ hd]
      by_cases hl : l < 64
      · rw [Unit.predAt_eq _ _ _ _ hl, Unit.predAt_eq _ _ _ _ hl, hlate, List.filter_append, lastVal_append, hp,
          lastVal_dropLate _ _ _ _ _ (fun x _ => hsame x) (predVal_nil p l)]
        by_cases hn : new.due ≤ n <;> simp [hn, lastVal, hnew']
      · simp [Unit.predAt, hasLane, BitVec.getLsbD_of_ge, Nat.le_of_not_lt hl]

theorem mem_predVals {act : LMask} {f : Nat → Bool} {l : Nat} (hl : l < 64) :
    valFor (predVals act f) l = if hasLane act l then some (if f l then 1#64 else 0#64) else none := by
  have := valFor_map (lanesOf act) (fun l => if f l then 1#64 else 0#64) l
  rw [predVals, this]
  by_cases h : hasLane act l = true <;> simp [mem_lanesOf hl, h]

/-- A fixed-latency result in a predicate (R65, R76, R78). -/
theorem Unit.writeLate_pred (u : Unit) (lat : Nat) (p : Pred) (act : LMask) (f : Nat → Bool) :
    PredResult u (u.writeLate lat (.p p) (predVals act f)) lat p act f := by
  set vals := predVals act f with hvals
  have hseven (v : Unit) (n l : Nat) (hl : l < 64) : v.predAt n 7#3 l = true := by
    rw [Unit.predAt, Unit.p_seven, hasLane, BitVec.getLsbD_allOnes]; simpa using hl
  by_cases hemp : vals.isEmpty
  · have hv : u.writeLate lat (.p p) vals = u := by simp [Unit.writeLate, hemp]
    have hact (l : Nat) (hl : hasLane act l = true) : False := by
      have h64 : l < 64 := BitVec.lt_of_getLsbD hl
      have := mem_predVals (act := act) (f := f) h64
      rw [← hvals, List.isEmpty_iff.1 hemp] at this
      simp [valFor, hl] at this
    rw [hv]
    exact ⟨fun n l _ _ h => (hact l h).elim, hseven u, fun _ _ _ _ _ => rfl, fun _ _ _ => rfl⟩
  · have hlate : (u.writeLate lat (.p p) vals).late =
        dropLate u.late (.p p) (vals.map Prod.fst) ++ [{ due := u.nominal + lat, dst := .p p, vals := vals }] := by
      simp [Unit.writeLate, hemp]
    have hreg (r : Reg) (l : Nat) : (u.writeLate lat (.p p) vals).src64 r l = u.src64 r l := by
      unfold Unit.writeLate; split <;> cases r <;> rfl
    have hp (q : Pred) : (u.writeLate lat (.p p) vals).p q = u.p q := by
      unfold Unit.writeLate; split <;> rfl
    set new : Late := { due := u.nominal + lat, dst := .p p, vals := vals } with hnew
    have hdst (x : Late) : (x.without (.p p) (vals.map Prod.fst)).dst = x.dst := by
      unfold Late.without; split
      · rfl
      · rfl
    refine ⟨fun n l hn h7 hl => ?_, hseven _, fun n q l hl h => ?_, fun n r l => ?_⟩
    · have h64 : l < 64 := BitVec.lt_of_getLsbD hl
      rw [Unit.predAt_eq _ _ _ _ h64, hlate, List.filter_append, lastVal_append]
      have hd : decide (new.due ≤ n) = true := by simpa [hnew] using hn
      have hv : new.predVal p l = some (f l) := by
        have := mem_predVals (act := act) (f := f) h64
        by_cases hf : f l <;> simp [hnew, Late.predVal, hvals, this, hl, h7, hf]
      simp [hd, lastVal, hv]
    · rw [Unit.predAt_eq _ _ _ _ hl, Unit.predAt_eq _ _ _ _ hl, hlate, List.filter_append, lastVal_append, hp]
      have hnone : new.predVal q l = none := by
        rcases h with h | h
        · have : ¬ p = q := fun e => h e.symm
          simp [hnew, Late.predVal, this]
        · simp [hnew, Late.predVal, hvals, mem_predVals hl, h]
      have hsame (x : Late) : (x.without (.p p) (vals.map Prod.fst)).predVal q l = x.predVal q l := by
        by_cases hd : x.dst = .p p
        · rcases h with h | h
          · have : ¬ p = q := fun e => h e.symm
            simp [Late.predVal, hdst, hd, this]
          · simp only [Late.predVal, hdst]
            congr 2
            simp only [Late.without, hd, beq_self_eq_true, if_true]
            refine valFor_filter _ _ _ fun y _ hy => ?_
            simp only [Bool.not_eq_true', List.contains_eq_mem, decide_eq_false_iff_not]
            intro hk
            have : y.1 ∈ lanesOf act := by simpa [hvals, predVals] using hk
            rw [mem_lanesOf (lanesOf_lt this), hy, h] at this
            simp at this
        · rw [Late.without_other _ _ _ hd]
      rw [lastVal_dropLate _ _ _ _ _ (fun x _ => hsame x) (predVal_nil q l)]
      by_cases hn : new.due ≤ n <;> simp [hn, lastVal, hnone]
    · have hnone : new.regVal r l = none := by cases r <;> rfl
      have hsame (x : Late) : (x.without (.p p) (vals.map Prod.fst)).regVal r l = x.regVal r l := by
        by_cases hd : x.dst = .p p
        · have hd' := (hdst x).trans hd
          cases r <;> simp [Late.regVal, hd, hd']
        · rw [Late.without_other _ _ _ hd]
      rw [Unit.regAt_eq, Unit.regAt_eq, hlate, List.filter_append, lastVal_append, hreg,
        lastVal_dropLate _ _ _ _ _ (fun x _ => hsame x) (regVal_nil r l)]
      by_cases hn : new.due ≤ n <;> simp [hn, lastVal, hnone]

end Sys2Proof.Machine
end

