-- ==== Sys2Proof/Laws/State.lean ====
section
/-! SUPPORT. Laws of the state's updates: one lemma per field per update, and what a part reads as after it is replaced or changed. -/

namespace Sys2Proof.Machine

/-! ### Parts read after an update -/

@[simp] theorem State.unit_setUnit_same (s : State) (k : Nat) (x : Unit) : (s.setUnit k x).unit k = x := by
  simp [State.unit, State.setUnit]

theorem State.unit_setUnit_other (s : State) (k j : Nat) (x : Unit) (h : j ≠ k) : (s.setUnit k x).unit j = s.unit j := by
  simp [State.unit, State.setUnit, SMap.get_set_other _ _ _ _ h]

@[simp] theorem State.unit_modUnit_same (s : State) (k : Nat) (f : Unit → Unit) : (s.modUnit k f).unit k = f (s.unit k) := by
  simp [State.modUnit]

theorem State.unit_modUnit_other (s : State) (k j : Nat) (f : Unit → Unit) (h : j ≠ k) : (s.modUnit k f).unit j = s.unit j := by
  simp [State.modUnit, State.unit_setUnit_other _ _ _ _ h]

@[simp] theorem State.task_setTask_same (s : State) (k : Nat) (x : Task) : (s.setTask k x).task k = x := by
  simp [State.task, State.setTask]

theorem State.task_setTask_other (s : State) (k j : Nat) (x : Task) (h : j ≠ k) : (s.setTask k x).task j = s.task j := by
  simp [State.task, State.setTask, SMap.get_set_other _ _ _ _ h]

@[simp] theorem State.task_modTask_same (s : State) (k : Nat) (f : Task → Task) : (s.modTask k f).task k = f (s.task k) := by
  simp [State.modTask]

theorem State.task_modTask_other (s : State) (k j : Nat) (f : Task → Task) (h : j ≠ k) : (s.modTask k f).task j = s.task j := by
  simp [State.modTask, State.task_setTask_other _ _ _ _ h]

@[simp] theorem State.core_setCore_same (s : State) (k : Nat) (x : Core) : (s.setCore k x).core k = x := by
  simp [State.core, State.setCore]

theorem State.core_setCore_other (s : State) (k j : Nat) (x : Core) (h : j ≠ k) : (s.setCore k x).core j = s.core j := by
  simp [State.core, State.setCore, SMap.get_set_other _ _ _ _ h]

@[simp] theorem State.core_modCore_same (s : State) (k : Nat) (f : Core → Core) : (s.modCore k f).core k = f (s.core k) := by
  simp [State.modCore]

theorem State.core_modCore_other (s : State) (k j : Nat) (f : Core → Core) (h : j ≠ k) : (s.modCore k f).core j = s.core j := by
  simp [State.modCore, State.core_setCore_other _ _ _ _ h]

@[simp] theorem State.die_setDie_same (s : State) (k : Nat) (x : Die) : (s.setDie k x).die k = x := by
  simp [State.die, State.setDie]

theorem State.die_setDie_other (s : State) (k j : Nat) (x : Die) (h : j ≠ k) : (s.setDie k x).die j = s.die j := by
  simp [State.die, State.setDie, SMap.get_set_other _ _ _ _ h]

@[simp] theorem State.die_modDie_same (s : State) (k : Nat) (f : Die → Die) : (s.modDie k f).die k = f (s.die k) := by
  simp [State.modDie]

theorem State.die_modDie_other (s : State) (k j : Nat) (f : Die → Die) (h : j ≠ k) : (s.modDie k f).die j = s.die j := by
  simp [State.modDie, State.die_setDie_other _ _ _ _ h]

@[simp] theorem State.part_setPart_same (s : State) (k : Nat) (x : Part) : (s.setPart k x).part k = x := by
  simp [State.part, State.setPart]

theorem State.part_setPart_other (s : State) (k j : Nat) (x : Part) (h : j ≠ k) : (s.setPart k x).part j = s.part j := by
  simp [State.part, State.setPart, SMap.get_set_other _ _ _ _ h]

@[simp] theorem State.part_modPart_same (s : State) (k : Nat) (f : Part → Part) : (s.modPart k f).part k = f (s.part k) := by
  simp [State.modPart]

theorem State.part_modPart_other (s : State) (k j : Nat) (f : Part → Part) (h : j ≠ k) : (s.modPart k f).part j = s.part j := by
  simp [State.modPart, State.part_setPart_other _ _ _ _ h]

/-! ### Fields after an update -/

/-! #### setUnit -/

@[simp] theorem State.mem_setUnit (s : State) (u : Nat) (x : Unit) : (s.setUnit u x).mem = s.mem := rfl
@[simp] theorem State.hostMem_setUnit (s : State) (u : Nat) (x : Unit) : (s.setUnit u x).hostMem = s.hostMem := rfl
@[simp] theorem State.lines_setUnit (s : State) (u : Nat) (x : Unit) : (s.setUnit u x).lines = s.lines := rfl
@[simp] theorem State.cores_setUnit (s : State) (u : Nat) (x : Unit) : (s.setUnit u x).cores = s.cores := rfl
@[simp] theorem State.copse_setUnit (s : State) (u : Nat) (x : Unit) : (s.setUnit u x).copse = s.copse := rfl
@[simp] theorem State.dies_setUnit (s : State) (u : Nat) (x : Unit) : (s.setUnit u x).dies = s.dies := rfl
@[simp] theorem State.slices_setUnit (s : State) (u : Nat) (x : Unit) : (s.setUnit u x).slices = s.slices := rfl
@[simp] theorem State.parts_setUnit (s : State) (u : Nat) (x : Unit) : (s.setUnit u x).parts = s.parts := rfl
@[simp] theorem State.tasks_setUnit (s : State) (u : Nat) (x : Unit) : (s.setUnit u x).tasks = s.tasks := rfl
@[simp] theorem State.frames_setUnit (s : State) (u : Nat) (x : Unit) : (s.setUnit u x).frames = s.frames := rfl
@[simp] theorem State.launches_setUnit (s : State) (u : Nat) (x : Unit) : (s.setUnit u x).launches = s.launches := rfl
@[simp] theorem State.ptDesc_setUnit (s : State) (u : Nat) (x : Unit) : (s.setUnit u x).ptDesc = s.ptDesc := rfl
@[simp] theorem State.residDefault_setUnit (s : State) (u : Nat) (x : Unit) : (s.setUnit u x).residDefault = s.residDefault := rfl
@[simp] theorem State.undeliverable_setUnit (s : State) (u : Nat) (x : Unit) : (s.setUnit u x).undeliverable = s.undeliverable := rfl
@[simp] theorem State.ports_setUnit (s : State) (u : Nat) (x : Unit) : (s.setUnit u x).ports = s.ports := rfl
@[simp] theorem State.routes_setUnit (s : State) (u : Nat) (x : Unit) : (s.setUnit u x).routes = s.routes := rfl
@[simp] theorem State.lost_setUnit (s : State) (u : Nat) (x : Unit) : (s.setUnit u x).lost = s.lost := rfl
@[simp] theorem State.losses_setUnit (s : State) (u : Nat) (x : Unit) : (s.setUnit u x).losses = s.losses := rfl
@[simp] theorem State.pkg_setUnit (s : State) (u : Nat) (x : Unit) : (s.setUnit u x).pkg = s.pkg := rfl
@[simp] theorem State.migration_setUnit (s : State) (u : Nat) (x : Unit) : (s.setUnit u x).migration = s.migration := rfl
@[simp] theorem State.deadProcs_setUnit (s : State) (u : Nat) (x : Unit) : (s.setUnit u x).deadProcs = s.deadProcs := rfl
@[simp] theorem State.reports_setUnit (s : State) (u : Nat) (x : Unit) : (s.setUnit u x).reports = s.reports := rfl
@[simp] theorem State.image_setUnit (s : State) (u : Nat) (x : Unit) : (s.setUnit u x).image = s.image := rfl
@[simp] theorem State.counters_setUnit (s : State) (u : Nat) (x : Unit) : (s.setUnit u x).counters = s.counters := rfl
@[simp] theorem State.powerLimit_setUnit (s : State) (u : Nat) (x : Unit) : (s.setUnit u x).powerLimit = s.powerLimit := rfl
@[simp] theorem State.remoteOps_setUnit (s : State) (u : Nat) (x : Unit) : (s.setUnit u x).remoteOps = s.remoteOps := rfl
@[simp] theorem State.schedule_setUnit (s : State) (u : Nat) (x : Unit) : (s.setUnit u x).schedule = s.schedule := rfl
@[simp] theorem State.freeCtr_setUnit (s : State) (u : Nat) (x : Unit) : (s.setUnit u x).freeCtr = s.freeCtr := rfl
@[simp] theorem State.nextId_setUnit (s : State) (u : Nat) (x : Unit) : (s.setUnit u x).nextId = s.nextId := rfl
@[simp] theorem State.clock_setUnit (s : State) (u : Nat) (x : Unit) : (s.setUnit u x).clock = s.clock := rfl
@[simp] theorem State.cur_setUnit (s : State) (u : Nat) (x : Unit) : (s.setUnit u x).cur = s.cur := rfl
@[simp] theorem State.task_setUnit (s : State) (u : Nat) (x : Unit) (j : Nat) : (s.setUnit u x).task j = s.task j := rfl
@[simp] theorem State.core_setUnit (s : State) (u : Nat) (x : Unit) (j : Nat) : (s.setUnit u x).core j = s.core j := rfl
@[simp] theorem State.die_setUnit (s : State) (u : Nat) (x : Unit) (j : Nat) : (s.setUnit u x).die j = s.die j := rfl
@[simp] theorem State.part_setUnit (s : State) (u : Nat) (x : Unit) (j : Nat) : (s.setUnit u x).part j = s.part j := rfl

/-! #### setTask -/

@[simp] theorem State.mem_setTask (s : State) (t : Nat) (x : Task) : (s.setTask t x).mem = s.mem := rfl
@[simp] theorem State.hostMem_setTask (s : State) (t : Nat) (x : Task) : (s.setTask t x).hostMem = s.hostMem := rfl
@[simp] theorem State.lines_setTask (s : State) (t : Nat) (x : Task) : (s.setTask t x).lines = s.lines := rfl
@[simp] theorem State.cores_setTask (s : State) (t : Nat) (x : Task) : (s.setTask t x).cores = s.cores := rfl
@[simp] theorem State.copse_setTask (s : State) (t : Nat) (x : Task) : (s.setTask t x).copse = s.copse := rfl
@[simp] theorem State.dies_setTask (s : State) (t : Nat) (x : Task) : (s.setTask t x).dies = s.dies := rfl
@[simp] theorem State.slices_setTask (s : State) (t : Nat) (x : Task) : (s.setTask t x).slices = s.slices := rfl
@[simp] theorem State.parts_setTask (s : State) (t : Nat) (x : Task) : (s.setTask t x).parts = s.parts := rfl
@[simp] theorem State.units_setTask (s : State) (t : Nat) (x : Task) : (s.setTask t x).units = s.units := rfl
@[simp] theorem State.frames_setTask (s : State) (t : Nat) (x : Task) : (s.setTask t x).frames = s.frames := rfl
@[simp] theorem State.launches_setTask (s : State) (t : Nat) (x : Task) : (s.setTask t x).launches = s.launches := rfl
@[simp] theorem State.ptDesc_setTask (s : State) (t : Nat) (x : Task) : (s.setTask t x).ptDesc = s.ptDesc := rfl
@[simp] theorem State.residDefault_setTask (s : State) (t : Nat) (x : Task) : (s.setTask t x).residDefault = s.residDefault := rfl
@[simp] theorem State.undeliverable_setTask (s : State) (t : Nat) (x : Task) : (s.setTask t x).undeliverable = s.undeliverable := rfl
@[simp] theorem State.ports_setTask (s : State) (t : Nat) (x : Task) : (s.setTask t x).ports = s.ports := rfl
@[simp] theorem State.routes_setTask (s : State) (t : Nat) (x : Task) : (s.setTask t x).routes = s.routes := rfl
@[simp] theorem State.lost_setTask (s : State) (t : Nat) (x : Task) : (s.setTask t x).lost = s.lost := rfl
@[simp] theorem State.losses_setTask (s : State) (t : Nat) (x : Task) : (s.setTask t x).losses = s.losses := rfl
@[simp] theorem State.pkg_setTask (s : State) (t : Nat) (x : Task) : (s.setTask t x).pkg = s.pkg := rfl
@[simp] theorem State.migration_setTask (s : State) (t : Nat) (x : Task) : (s.setTask t x).migration = s.migration := rfl
@[simp] theorem State.deadProcs_setTask (s : State) (t : Nat) (x : Task) : (s.setTask t x).deadProcs = s.deadProcs := rfl
@[simp] theorem State.reports_setTask (s : State) (t : Nat) (x : Task) : (s.setTask t x).reports = s.reports := rfl
@[simp] theorem State.image_setTask (s : State) (t : Nat) (x : Task) : (s.setTask t x).image = s.image := rfl
@[simp] theorem State.counters_setTask (s : State) (t : Nat) (x : Task) : (s.setTask t x).counters = s.counters := rfl
@[simp] theorem State.powerLimit_setTask (s : State) (t : Nat) (x : Task) : (s.setTask t x).powerLimit = s.powerLimit := rfl
@[simp] theorem State.remoteOps_setTask (s : State) (t : Nat) (x : Task) : (s.setTask t x).remoteOps = s.remoteOps := rfl
@[simp] theorem State.schedule_setTask (s : State) (t : Nat) (x : Task) : (s.setTask t x).schedule = s.schedule := rfl
@[simp] theorem State.freeCtr_setTask (s : State) (t : Nat) (x : Task) : (s.setTask t x).freeCtr = s.freeCtr := rfl
@[simp] theorem State.nextId_setTask (s : State) (t : Nat) (x : Task) : (s.setTask t x).nextId = s.nextId := rfl
@[simp] theorem State.clock_setTask (s : State) (t : Nat) (x : Task) : (s.setTask t x).clock = s.clock := rfl
@[simp] theorem State.cur_setTask (s : State) (t : Nat) (x : Task) : (s.setTask t x).cur = s.cur := rfl
@[simp] theorem State.unit_setTask (s : State) (t : Nat) (x : Task) (j : Nat) : (s.setTask t x).unit j = s.unit j := rfl
@[simp] theorem State.core_setTask (s : State) (t : Nat) (x : Task) (j : Nat) : (s.setTask t x).core j = s.core j := rfl
@[simp] theorem State.die_setTask (s : State) (t : Nat) (x : Task) (j : Nat) : (s.setTask t x).die j = s.die j := rfl
@[simp] theorem State.part_setTask (s : State) (t : Nat) (x : Task) (j : Nat) : (s.setTask t x).part j = s.part j := rfl

/-! #### setCore -/

@[simp] theorem State.mem_setCore (s : State) (c : Nat) (x : Core) : (s.setCore c x).mem = s.mem := rfl
@[simp] theorem State.hostMem_setCore (s : State) (c : Nat) (x : Core) : (s.setCore c x).hostMem = s.hostMem := rfl
@[simp] theorem State.lines_setCore (s : State) (c : Nat) (x : Core) : (s.setCore c x).lines = s.lines := rfl
@[simp] theorem State.copse_setCore (s : State) (c : Nat) (x : Core) : (s.setCore c x).copse = s.copse := rfl
@[simp] theorem State.dies_setCore (s : State) (c : Nat) (x : Core) : (s.setCore c x).dies = s.dies := rfl
@[simp] theorem State.slices_setCore (s : State) (c : Nat) (x : Core) : (s.setCore c x).slices = s.slices := rfl
@[simp] theorem State.parts_setCore (s : State) (c : Nat) (x : Core) : (s.setCore c x).parts = s.parts := rfl
@[simp] theorem State.tasks_setCore (s : State) (c : Nat) (x : Core) : (s.setCore c x).tasks = s.tasks := rfl
@[simp] theorem State.units_setCore (s : State) (c : Nat) (x : Core) : (s.setCore c x).units = s.units := rfl
@[simp] theorem State.frames_setCore (s : State) (c : Nat) (x : Core) : (s.setCore c x).frames = s.frames := rfl
@[simp] theorem State.launches_setCore (s : State) (c : Nat) (x : Core) : (s.setCore c x).launches = s.launches := rfl
@[simp] theorem State.ptDesc_setCore (s : State) (c : Nat) (x : Core) : (s.setCore c x).ptDesc = s.ptDesc := rfl
@[simp] theorem State.residDefault_setCore (s : State) (c : Nat) (x : Core) : (s.setCore c x).residDefault = s.residDefault := rfl
@[simp] theorem State.undeliverable_setCore (s : State) (c : Nat) (x : Core) : (s.setCore c x).undeliverable = s.undeliverable := rfl
@[simp] theorem State.ports_setCore (s : State) (c : Nat) (x : Core) : (s.setCore c x).ports = s.ports := rfl
@[simp] theorem State.routes_setCore (s : State) (c : Nat) (x : Core) : (s.setCore c x).routes = s.routes := rfl
@[simp] theorem State.lost_setCore (s : State) (c : Nat) (x : Core) : (s.setCore c x).lost = s.lost := rfl
@[simp] theorem State.losses_setCore (s : State) (c : Nat) (x : Core) : (s.setCore c x).losses = s.losses := rfl
@[simp] theorem State.pkg_setCore (s : State) (c : Nat) (x : Core) : (s.setCore c x).pkg = s.pkg := rfl
@[simp] theorem State.migration_setCore (s : State) (c : Nat) (x : Core) : (s.setCore c x).migration = s.migration := rfl
@[simp] theorem State.deadProcs_setCore (s : State) (c : Nat) (x : Core) : (s.setCore c x).deadProcs = s.deadProcs := rfl
@[simp] theorem State.reports_setCore (s : State) (c : Nat) (x : Core) : (s.setCore c x).reports = s.reports := rfl
@[simp] theorem State.image_setCore (s : State) (c : Nat) (x : Core) : (s.setCore c x).image = s.image := rfl
@[simp] theorem State.counters_setCore (s : State) (c : Nat) (x : Core) : (s.setCore c x).counters = s.counters := rfl
@[simp] theorem State.powerLimit_setCore (s : State) (c : Nat) (x : Core) : (s.setCore c x).powerLimit = s.powerLimit := rfl
@[simp] theorem State.remoteOps_setCore (s : State) (c : Nat) (x : Core) : (s.setCore c x).remoteOps = s.remoteOps := rfl
@[simp] theorem State.schedule_setCore (s : State) (c : Nat) (x : Core) : (s.setCore c x).schedule = s.schedule := rfl
@[simp] theorem State.freeCtr_setCore (s : State) (c : Nat) (x : Core) : (s.setCore c x).freeCtr = s.freeCtr := rfl
@[simp] theorem State.nextId_setCore (s : State) (c : Nat) (x : Core) : (s.setCore c x).nextId = s.nextId := rfl
@[simp] theorem State.clock_setCore (s : State) (c : Nat) (x : Core) : (s.setCore c x).clock = s.clock := rfl
@[simp] theorem State.cur_setCore (s : State) (c : Nat) (x : Core) : (s.setCore c x).cur = s.cur := rfl
@[simp] theorem State.unit_setCore (s : State) (c : Nat) (x : Core) (j : Nat) : (s.setCore c x).unit j = s.unit j := rfl
@[simp] theorem State.task_setCore (s : State) (c : Nat) (x : Core) (j : Nat) : (s.setCore c x).task j = s.task j := rfl
@[simp] theorem State.die_setCore (s : State) (c : Nat) (x : Core) (j : Nat) : (s.setCore c x).die j = s.die j := rfl
@[simp] theorem State.part_setCore (s : State) (c : Nat) (x : Core) (j : Nat) : (s.setCore c x).part j = s.part j := rfl

/-! #### setDie -/

@[simp] theorem State.mem_setDie (s : State) (d : Nat) (x : Die) : (s.setDie d x).mem = s.mem := rfl
@[simp] theorem State.hostMem_setDie (s : State) (d : Nat) (x : Die) : (s.setDie d x).hostMem = s.hostMem := rfl
@[simp] theorem State.lines_setDie (s : State) (d : Nat) (x : Die) : (s.setDie d x).lines = s.lines := rfl
@[simp] theorem State.cores_setDie (s : State) (d : Nat) (x : Die) : (s.setDie d x).cores = s.cores := rfl
@[simp] theorem State.copse_setDie (s : State) (d : Nat) (x : Die) : (s.setDie d x).copse = s.copse := rfl
@[simp] theorem State.slices_setDie (s : State) (d : Nat) (x : Die) : (s.setDie d x).slices = s.slices := rfl
@[simp] theorem State.parts_setDie (s : State) (d : Nat) (x : Die) : (s.setDie d x).parts = s.parts := rfl
@[simp] theorem State.tasks_setDie (s : State) (d : Nat) (x : Die) : (s.setDie d x).tasks = s.tasks := rfl
@[simp] theorem State.units_setDie (s : State) (d : Nat) (x : Die) : (s.setDie d x).units = s.units := rfl
@[simp] theorem State.frames_setDie (s : State) (d : Nat) (x : Die) : (s.setDie d x).frames = s.frames := rfl
@[simp] theorem State.launches_setDie (s : State) (d : Nat) (x : Die) : (s.setDie d x).launches = s.launches := rfl
@[simp] theorem State.ptDesc_setDie (s : State) (d : Nat) (x : Die) : (s.setDie d x).ptDesc = s.ptDesc := rfl
@[simp] theorem State.residDefault_setDie (s : State) (d : Nat) (x : Die) : (s.setDie d x).residDefault = s.residDefault := rfl
@[simp] theorem State.undeliverable_setDie (s : State) (d : Nat) (x : Die) : (s.setDie d x).undeliverable = s.undeliverable := rfl
@[simp] theorem State.ports_setDie (s : State) (d : Nat) (x : Die) : (s.setDie d x).ports = s.ports := rfl
@[simp] theorem State.routes_setDie (s : State) (d : Nat) (x : Die) : (s.setDie d x).routes = s.routes := rfl
@[simp] theorem State.lost_setDie (s : State) (d : Nat) (x : Die) : (s.setDie d x).lost = s.lost := rfl
@[simp] theorem State.losses_setDie (s : State) (d : Nat) (x : Die) : (s.setDie d x).losses = s.losses := rfl
@[simp] theorem State.pkg_setDie (s : State) (d : Nat) (x : Die) : (s.setDie d x).pkg = s.pkg := rfl
@[simp] theorem State.migration_setDie (s : State) (d : Nat) (x : Die) : (s.setDie d x).migration = s.migration := rfl
@[simp] theorem State.deadProcs_setDie (s : State) (d : Nat) (x : Die) : (s.setDie d x).deadProcs = s.deadProcs := rfl
@[simp] theorem State.reports_setDie (s : State) (d : Nat) (x : Die) : (s.setDie d x).reports = s.reports := rfl
@[simp] theorem State.image_setDie (s : State) (d : Nat) (x : Die) : (s.setDie d x).image = s.image := rfl
@[simp] theorem State.counters_setDie (s : State) (d : Nat) (x : Die) : (s.setDie d x).counters = s.counters := rfl
@[simp] theorem State.powerLimit_setDie (s : State) (d : Nat) (x : Die) : (s.setDie d x).powerLimit = s.powerLimit := rfl
@[simp] theorem State.remoteOps_setDie (s : State) (d : Nat) (x : Die) : (s.setDie d x).remoteOps = s.remoteOps := rfl
@[simp] theorem State.schedule_setDie (s : State) (d : Nat) (x : Die) : (s.setDie d x).schedule = s.schedule := rfl
@[simp] theorem State.freeCtr_setDie (s : State) (d : Nat) (x : Die) : (s.setDie d x).freeCtr = s.freeCtr := rfl
@[simp] theorem State.nextId_setDie (s : State) (d : Nat) (x : Die) : (s.setDie d x).nextId = s.nextId := rfl
@[simp] theorem State.clock_setDie (s : State) (d : Nat) (x : Die) : (s.setDie d x).clock = s.clock := rfl
@[simp] theorem State.cur_setDie (s : State) (d : Nat) (x : Die) : (s.setDie d x).cur = s.cur := rfl
@[simp] theorem State.unit_setDie (s : State) (d : Nat) (x : Die) (j : Nat) : (s.setDie d x).unit j = s.unit j := rfl
@[simp] theorem State.task_setDie (s : State) (d : Nat) (x : Die) (j : Nat) : (s.setDie d x).task j = s.task j := rfl
@[simp] theorem State.core_setDie (s : State) (d : Nat) (x : Die) (j : Nat) : (s.setDie d x).core j = s.core j := rfl
@[simp] theorem State.part_setDie (s : State) (d : Nat) (x : Die) (j : Nat) : (s.setDie d x).part j = s.part j := rfl

/-! #### setPart -/

@[simp] theorem State.mem_setPart (s : State) (p : Nat) (x : Part) : (s.setPart p x).mem = s.mem := rfl
@[simp] theorem State.hostMem_setPart (s : State) (p : Nat) (x : Part) : (s.setPart p x).hostMem = s.hostMem := rfl
@[simp] theorem State.lines_setPart (s : State) (p : Nat) (x : Part) : (s.setPart p x).lines = s.lines := rfl
@[simp] theorem State.cores_setPart (s : State) (p : Nat) (x : Part) : (s.setPart p x).cores = s.cores := rfl
@[simp] theorem State.copse_setPart (s : State) (p : Nat) (x : Part) : (s.setPart p x).copse = s.copse := rfl
@[simp] theorem State.dies_setPart (s : State) (p : Nat) (x : Part) : (s.setPart p x).dies = s.dies := rfl
@[simp] theorem State.slices_setPart (s : State) (p : Nat) (x : Part) : (s.setPart p x).slices = s.slices := rfl
@[simp] theorem State.tasks_setPart (s : State) (p : Nat) (x : Part) : (s.setPart p x).tasks = s.tasks := rfl
@[simp] theorem State.units_setPart (s : State) (p : Nat) (x : Part) : (s.setPart p x).units = s.units := rfl
@[simp] theorem State.frames_setPart (s : State) (p : Nat) (x : Part) : (s.setPart p x).frames = s.frames := rfl
@[simp] theorem State.launches_setPart (s : State) (p : Nat) (x : Part) : (s.setPart p x).launches = s.launches := rfl
@[simp] theorem State.ptDesc_setPart (s : State) (p : Nat) (x : Part) : (s.setPart p x).ptDesc = s.ptDesc := rfl
@[simp] theorem State.residDefault_setPart (s : State) (p : Nat) (x : Part) : (s.setPart p x).residDefault = s.residDefault := rfl
@[simp] theorem State.undeliverable_setPart (s : State) (p : Nat) (x : Part) : (s.setPart p x).undeliverable = s.undeliverable := rfl
@[simp] theorem State.ports_setPart (s : State) (p : Nat) (x : Part) : (s.setPart p x).ports = s.ports := rfl
@[simp] theorem State.routes_setPart (s : State) (p : Nat) (x : Part) : (s.setPart p x).routes = s.routes := rfl
@[simp] theorem State.lost_setPart (s : State) (p : Nat) (x : Part) : (s.setPart p x).lost = s.lost := rfl
@[simp] theorem State.losses_setPart (s : State) (p : Nat) (x : Part) : (s.setPart p x).losses = s.losses := rfl
@[simp] theorem State.pkg_setPart (s : State) (p : Nat) (x : Part) : (s.setPart p x).pkg = s.pkg := rfl
@[simp] theorem State.migration_setPart (s : State) (p : Nat) (x : Part) : (s.setPart p x).migration = s.migration := rfl
@[simp] theorem State.deadProcs_setPart (s : State) (p : Nat) (x : Part) : (s.setPart p x).deadProcs = s.deadProcs := rfl
@[simp] theorem State.reports_setPart (s : State) (p : Nat) (x : Part) : (s.setPart p x).reports = s.reports := rfl
@[simp] theorem State.image_setPart (s : State) (p : Nat) (x : Part) : (s.setPart p x).image = s.image := rfl
@[simp] theorem State.counters_setPart (s : State) (p : Nat) (x : Part) : (s.setPart p x).counters = s.counters := rfl
@[simp] theorem State.powerLimit_setPart (s : State) (p : Nat) (x : Part) : (s.setPart p x).powerLimit = s.powerLimit := rfl
@[simp] theorem State.remoteOps_setPart (s : State) (p : Nat) (x : Part) : (s.setPart p x).remoteOps = s.remoteOps := rfl
@[simp] theorem State.schedule_setPart (s : State) (p : Nat) (x : Part) : (s.setPart p x).schedule = s.schedule := rfl
@[simp] theorem State.freeCtr_setPart (s : State) (p : Nat) (x : Part) : (s.setPart p x).freeCtr = s.freeCtr := rfl
@[simp] theorem State.nextId_setPart (s : State) (p : Nat) (x : Part) : (s.setPart p x).nextId = s.nextId := rfl
@[simp] theorem State.clock_setPart (s : State) (p : Nat) (x : Part) : (s.setPart p x).clock = s.clock := rfl
@[simp] theorem State.cur_setPart (s : State) (p : Nat) (x : Part) : (s.setPart p x).cur = s.cur := rfl
@[simp] theorem State.unit_setPart (s : State) (p : Nat) (x : Part) (j : Nat) : (s.setPart p x).unit j = s.unit j := rfl
@[simp] theorem State.task_setPart (s : State) (p : Nat) (x : Part) (j : Nat) : (s.setPart p x).task j = s.task j := rfl
@[simp] theorem State.core_setPart (s : State) (p : Nat) (x : Part) (j : Nat) : (s.setPart p x).core j = s.core j := rfl
@[simp] theorem State.die_setPart (s : State) (p : Nat) (x : Part) (j : Nat) : (s.setPart p x).die j = s.die j := rfl

/-! #### modUnit -/

@[simp] theorem State.mem_modUnit (s : State) (u : Nat) (f : Unit → Unit) : (s.modUnit u f).mem = s.mem := rfl
@[simp] theorem State.hostMem_modUnit (s : State) (u : Nat) (f : Unit → Unit) : (s.modUnit u f).hostMem = s.hostMem := rfl
@[simp] theorem State.lines_modUnit (s : State) (u : Nat) (f : Unit → Unit) : (s.modUnit u f).lines = s.lines := rfl
@[simp] theorem State.cores_modUnit (s : State) (u : Nat) (f : Unit → Unit) : (s.modUnit u f).cores = s.cores := rfl
@[simp] theorem State.copse_modUnit (s : State) (u : Nat) (f : Unit → Unit) : (s.modUnit u f).copse = s.copse := rfl
@[simp] theorem State.dies_modUnit (s : State) (u : Nat) (f : Unit → Unit) : (s.modUnit u f).dies = s.dies := rfl
@[simp] theorem State.slices_modUnit (s : State) (u : Nat) (f : Unit → Unit) : (s.modUnit u f).slices = s.slices := rfl
@[simp] theorem State.parts_modUnit (s : State) (u : Nat) (f : Unit → Unit) : (s.modUnit u f).parts = s.parts := rfl
@[simp] theorem State.tasks_modUnit (s : State) (u : Nat) (f : Unit → Unit) : (s.modUnit u f).tasks = s.tasks := rfl
@[simp] theorem State.frames_modUnit (s : State) (u : Nat) (f : Unit → Unit) : (s.modUnit u f).frames = s.frames := rfl
@[simp] theorem State.launches_modUnit (s : State) (u : Nat) (f : Unit → Unit) : (s.modUnit u f).launches = s.launches := rfl
@[simp] theorem State.ptDesc_modUnit (s : State) (u : Nat) (f : Unit → Unit) : (s.modUnit u f).ptDesc = s.ptDesc := rfl
@[simp] theorem State.residDefault_modUnit (s : State) (u : Nat) (f : Unit → Unit) : (s.modUnit u f).residDefault = s.residDefault := rfl
@[simp] theorem State.undeliverable_modUnit (s : State) (u : Nat) (f : Unit → Unit) : (s.modUnit u f).undeliverable = s.undeliverable := rfl
@[simp] theorem State.ports_modUnit (s : State) (u : Nat) (f : Unit → Unit) : (s.modUnit u f).ports = s.ports := rfl
@[simp] theorem State.routes_modUnit (s : State) (u : Nat) (f : Unit → Unit) : (s.modUnit u f).routes = s.routes := rfl
@[simp] theorem State.lost_modUnit (s : State) (u : Nat) (f : Unit → Unit) : (s.modUnit u f).lost = s.lost := rfl
@[simp] theorem State.losses_modUnit (s : State) (u : Nat) (f : Unit → Unit) : (s.modUnit u f).losses = s.losses := rfl
@[simp] theorem State.pkg_modUnit (s : State) (u : Nat) (f : Unit → Unit) : (s.modUnit u f).pkg = s.pkg := rfl
@[simp] theorem State.migration_modUnit (s : State) (u : Nat) (f : Unit → Unit) : (s.modUnit u f).migration = s.migration := rfl
@[simp] theorem State.deadProcs_modUnit (s : State) (u : Nat) (f : Unit → Unit) : (s.modUnit u f).deadProcs = s.deadProcs := rfl
@[simp] theorem State.reports_modUnit (s : State) (u : Nat) (f : Unit → Unit) : (s.modUnit u f).reports = s.reports := rfl
@[simp] theorem State.image_modUnit (s : State) (u : Nat) (f : Unit → Unit) : (s.modUnit u f).image = s.image := rfl
@[simp] theorem State.counters_modUnit (s : State) (u : Nat) (f : Unit → Unit) : (s.modUnit u f).counters = s.counters := rfl
@[simp] theorem State.powerLimit_modUnit (s : State) (u : Nat) (f : Unit → Unit) : (s.modUnit u f).powerLimit = s.powerLimit := rfl
@[simp] theorem State.remoteOps_modUnit (s : State) (u : Nat) (f : Unit → Unit) : (s.modUnit u f).remoteOps = s.remoteOps := rfl
@[simp] theorem State.schedule_modUnit (s : State) (u : Nat) (f : Unit → Unit) : (s.modUnit u f).schedule = s.schedule := rfl
@[simp] theorem State.freeCtr_modUnit (s : State) (u : Nat) (f : Unit → Unit) : (s.modUnit u f).freeCtr = s.freeCtr := rfl
@[simp] theorem State.nextId_modUnit (s : State) (u : Nat) (f : Unit → Unit) : (s.modUnit u f).nextId = s.nextId := rfl
@[simp] theorem State.clock_modUnit (s : State) (u : Nat) (f : Unit → Unit) : (s.modUnit u f).clock = s.clock := rfl
@[simp] theorem State.cur_modUnit (s : State) (u : Nat) (f : Unit → Unit) : (s.modUnit u f).cur = s.cur := rfl
@[simp] theorem State.task_modUnit (s : State) (u : Nat) (f : Unit → Unit) (j : Nat) : (s.modUnit u f).task j = s.task j := rfl
@[simp] theorem State.core_modUnit (s : State) (u : Nat) (f : Unit → Unit) (j : Nat) : (s.modUnit u f).core j = s.core j := rfl
@[simp] theorem State.die_modUnit (s : State) (u : Nat) (f : Unit → Unit) (j : Nat) : (s.modUnit u f).die j = s.die j := rfl
@[simp] theorem State.part_modUnit (s : State) (u : Nat) (f : Unit → Unit) (j : Nat) : (s.modUnit u f).part j = s.part j := rfl

/-! #### modTask -/

@[simp] theorem State.mem_modTask (s : State) (t : Nat) (f : Task → Task) : (s.modTask t f).mem = s.mem := rfl
@[simp] theorem State.hostMem_modTask (s : State) (t : Nat) (f : Task → Task) : (s.modTask t f).hostMem = s.hostMem := rfl
@[simp] theorem State.lines_modTask (s : State) (t : Nat) (f : Task → Task) : (s.modTask t f).lines = s.lines := rfl
@[simp] theorem State.cores_modTask (s : State) (t : Nat) (f : Task → Task) : (s.modTask t f).cores = s.cores := rfl
@[simp] theorem State.copse_modTask (s : State) (t : Nat) (f : Task → Task) : (s.modTask t f).copse = s.copse := rfl
@[simp] theorem State.dies_modTask (s : State) (t : Nat) (f : Task → Task) : (s.modTask t f).dies = s.dies := rfl
@[simp] theorem State.slices_modTask (s : State) (t : Nat) (f : Task → Task) : (s.modTask t f).slices = s.slices := rfl
@[simp] theorem State.parts_modTask (s : State) (t : Nat) (f : Task → Task) : (s.modTask t f).parts = s.parts := rfl
@[simp] theorem State.units_modTask (s : State) (t : Nat) (f : Task → Task) : (s.modTask t f).units = s.units := rfl
@[simp] theorem State.frames_modTask (s : State) (t : Nat) (f : Task → Task) : (s.modTask t f).frames = s.frames := rfl
@[simp] theorem State.launches_modTask (s : State) (t : Nat) (f : Task → Task) : (s.modTask t f).launches = s.launches := rfl
@[simp] theorem State.ptDesc_modTask (s : State) (t : Nat) (f : Task → Task) : (s.modTask t f).ptDesc = s.ptDesc := rfl
@[simp] theorem State.residDefault_modTask (s : State) (t : Nat) (f : Task → Task) : (s.modTask t f).residDefault = s.residDefault := rfl
@[simp] theorem State.undeliverable_modTask (s : State) (t : Nat) (f : Task → Task) : (s.modTask t f).undeliverable = s.undeliverable := rfl
@[simp] theorem State.ports_modTask (s : State) (t : Nat) (f : Task → Task) : (s.modTask t f).ports = s.ports := rfl
@[simp] theorem State.routes_modTask (s : State) (t : Nat) (f : Task → Task) : (s.modTask t f).routes = s.routes := rfl
@[simp] theorem State.lost_modTask (s : State) (t : Nat) (f : Task → Task) : (s.modTask t f).lost = s.lost := rfl
@[simp] theorem State.losses_modTask (s : State) (t : Nat) (f : Task → Task) : (s.modTask t f).losses = s.losses := rfl
@[simp] theorem State.pkg_modTask (s : State) (t : Nat) (f : Task → Task) : (s.modTask t f).pkg = s.pkg := rfl
@[simp] theorem State.migration_modTask (s : State) (t : Nat) (f : Task → Task) : (s.modTask t f).migration = s.migration := rfl
@[simp] theorem State.deadProcs_modTask (s : State) (t : Nat) (f : Task → Task) : (s.modTask t f).deadProcs = s.deadProcs := rfl
@[simp] theorem State.reports_modTask (s : State) (t : Nat) (f : Task → Task) : (s.modTask t f).reports = s.reports := rfl
@[simp] theorem State.image_modTask (s : State) (t : Nat) (f : Task → Task) : (s.modTask t f).image = s.image := rfl
@[simp] theorem State.counters_modTask (s : State) (t : Nat) (f : Task → Task) : (s.modTask t f).counters = s.counters := rfl
@[simp] theorem State.powerLimit_modTask (s : State) (t : Nat) (f : Task → Task) : (s.modTask t f).powerLimit = s.powerLimit := rfl
@[simp] theorem State.remoteOps_modTask (s : State) (t : Nat) (f : Task → Task) : (s.modTask t f).remoteOps = s.remoteOps := rfl
@[simp] theorem State.schedule_modTask (s : State) (t : Nat) (f : Task → Task) : (s.modTask t f).schedule = s.schedule := rfl
@[simp] theorem State.freeCtr_modTask (s : State) (t : Nat) (f : Task → Task) : (s.modTask t f).freeCtr = s.freeCtr := rfl
@[simp] theorem State.nextId_modTask (s : State) (t : Nat) (f : Task → Task) : (s.modTask t f).nextId = s.nextId := rfl
@[simp] theorem State.clock_modTask (s : State) (t : Nat) (f : Task → Task) : (s.modTask t f).clock = s.clock := rfl
@[simp] theorem State.cur_modTask (s : State) (t : Nat) (f : Task → Task) : (s.modTask t f).cur = s.cur := rfl
@[simp] theorem State.unit_modTask (s : State) (t : Nat) (f : Task → Task) (j : Nat) : (s.modTask t f).unit j = s.unit j := rfl
@[simp] theorem State.core_modTask (s : State) (t : Nat) (f : Task → Task) (j : Nat) : (s.modTask t f).core j = s.core j := rfl
@[simp] theorem State.die_modTask (s : State) (t : Nat) (f : Task → Task) (j : Nat) : (s.modTask t f).die j = s.die j := rfl
@[simp] theorem State.part_modTask (s : State) (t : Nat) (f : Task → Task) (j : Nat) : (s.modTask t f).part j = s.part j := rfl

/-! #### modCore -/

@[simp] theorem State.mem_modCore (s : State) (c : Nat) (f : Core → Core) : (s.modCore c f).mem = s.mem := rfl
@[simp] theorem State.hostMem_modCore (s : State) (c : Nat) (f : Core → Core) : (s.modCore c f).hostMem = s.hostMem := rfl
@[simp] theorem State.lines_modCore (s : State) (c : Nat) (f : Core → Core) : (s.modCore c f).lines = s.lines := rfl
@[simp] theorem State.copse_modCore (s : State) (c : Nat) (f : Core → Core) : (s.modCore c f).copse = s.copse := rfl
@[simp] theorem State.dies_modCore (s : State) (c : Nat) (f : Core → Core) : (s.modCore c f).dies = s.dies := rfl
@[simp] theorem State.slices_modCore (s : State) (c : Nat) (f : Core → Core) : (s.modCore c f).slices = s.slices := rfl
@[simp] theorem State.parts_modCore (s : State) (c : Nat) (f : Core → Core) : (s.modCore c f).parts = s.parts := rfl
@[simp] theorem State.tasks_modCore (s : State) (c : Nat) (f : Core → Core) : (s.modCore c f).tasks = s.tasks := rfl
@[simp] theorem State.units_modCore (s : State) (c : Nat) (f : Core → Core) : (s.modCore c f).units = s.units := rfl
@[simp] theorem State.frames_modCore (s : State) (c : Nat) (f : Core → Core) : (s.modCore c f).frames = s.frames := rfl
@[simp] theorem State.launches_modCore (s : State) (c : Nat) (f : Core → Core) : (s.modCore c f).launches = s.launches := rfl
@[simp] theorem State.ptDesc_modCore (s : State) (c : Nat) (f : Core → Core) : (s.modCore c f).ptDesc = s.ptDesc := rfl
@[simp] theorem State.residDefault_modCore (s : State) (c : Nat) (f : Core → Core) : (s.modCore c f).residDefault = s.residDefault := rfl
@[simp] theorem State.undeliverable_modCore (s : State) (c : Nat) (f : Core → Core) : (s.modCore c f).undeliverable = s.undeliverable := rfl
@[simp] theorem State.ports_modCore (s : State) (c : Nat) (f : Core → Core) : (s.modCore c f).ports = s.ports := rfl
@[simp] theorem State.routes_modCore (s : State) (c : Nat) (f : Core → Core) : (s.modCore c f).routes = s.routes := rfl
@[simp] theorem State.lost_modCore (s : State) (c : Nat) (f : Core → Core) : (s.modCore c f).lost = s.lost := rfl
@[simp] theorem State.losses_modCore (s : State) (c : Nat) (f : Core → Core) : (s.modCore c f).losses = s.losses := rfl
@[simp] theorem State.pkg_modCore (s : State) (c : Nat) (f : Core → Core) : (s.modCore c f).pkg = s.pkg := rfl
@[simp] theorem State.migration_modCore (s : State) (c : Nat) (f : Core → Core) : (s.modCore c f).migration = s.migration := rfl
@[simp] theorem State.deadProcs_modCore (s : State) (c : Nat) (f : Core → Core) : (s.modCore c f).deadProcs = s.deadProcs := rfl
@[simp] theorem State.reports_modCore (s : State) (c : Nat) (f : Core → Core) : (s.modCore c f).reports = s.reports := rfl
@[simp] theorem State.image_modCore (s : State) (c : Nat) (f : Core → Core) : (s.modCore c f).image = s.image := rfl
@[simp] theorem State.counters_modCore (s : State) (c : Nat) (f : Core → Core) : (s.modCore c f).counters = s.counters := rfl
@[simp] theorem State.powerLimit_modCore (s : State) (c : Nat) (f : Core → Core) : (s.modCore c f).powerLimit = s.powerLimit := rfl
@[simp] theorem State.remoteOps_modCore (s : State) (c : Nat) (f : Core → Core) : (s.modCore c f).remoteOps = s.remoteOps := rfl
@[simp] theorem State.schedule_modCore (s : State) (c : Nat) (f : Core → Core) : (s.modCore c f).schedule = s.schedule := rfl
@[simp] theorem State.freeCtr_modCore (s : State) (c : Nat) (f : Core → Core) : (s.modCore c f).freeCtr = s.freeCtr := rfl
@[simp] theorem State.nextId_modCore (s : State) (c : Nat) (f : Core → Core) : (s.modCore c f).nextId = s.nextId := rfl
@[simp] theorem State.clock_modCore (s : State) (c : Nat) (f : Core → Core) : (s.modCore c f).clock = s.clock := rfl
@[simp] theorem State.cur_modCore (s : State) (c : Nat) (f : Core → Core) : (s.modCore c f).cur = s.cur := rfl
@[simp] theorem State.unit_modCore (s : State) (c : Nat) (f : Core → Core) (j : Nat) : (s.modCore c f).unit j = s.unit j := rfl
@[simp] theorem State.task_modCore (s : State) (c : Nat) (f : Core → Core) (j : Nat) : (s.modCore c f).task j = s.task j := rfl
@[simp] theorem State.die_modCore (s : State) (c : Nat) (f : Core → Core) (j : Nat) : (s.modCore c f).die j = s.die j := rfl
@[simp] theorem State.part_modCore (s : State) (c : Nat) (f : Core → Core) (j : Nat) : (s.modCore c f).part j = s.part j := rfl

/-! #### modDie -/

@[simp] theorem State.mem_modDie (s : State) (d : Nat) (f : Die → Die) : (s.modDie d f).mem = s.mem := rfl
@[simp] theorem State.hostMem_modDie (s : State) (d : Nat) (f : Die → Die) : (s.modDie d f).hostMem = s.hostMem := rfl
@[simp] theorem State.lines_modDie (s : State) (d : Nat) (f : Die → Die) : (s.modDie d f).lines = s.lines := rfl
@[simp] theorem State.cores_modDie (s : State) (d : Nat) (f : Die → Die) : (s.modDie d f).cores = s.cores := rfl
@[simp] theorem State.copse_modDie (s : State) (d : Nat) (f : Die → Die) : (s.modDie d f).copse = s.copse := rfl
@[simp] theorem State.slices_modDie (s : State) (d : Nat) (f : Die → Die) : (s.modDie d f).slices = s.slices := rfl
@[simp] theorem State.parts_modDie (s : State) (d : Nat) (f : Die → Die) : (s.modDie d f).parts = s.parts := rfl
@[simp] theorem State.tasks_modDie (s : State) (d : Nat) (f : Die → Die) : (s.modDie d f).tasks = s.tasks := rfl
@[simp] theorem State.units_modDie (s : State) (d : Nat) (f : Die → Die) : (s.modDie d f).units = s.units := rfl
@[simp] theorem State.frames_modDie (s : State) (d : Nat) (f : Die → Die) : (s.modDie d f).frames = s.frames := rfl
@[simp] theorem State.launches_modDie (s : State) (d : Nat) (f : Die → Die) : (s.modDie d f).launches = s.launches := rfl
@[simp] theorem State.ptDesc_modDie (s : State) (d : Nat) (f : Die → Die) : (s.modDie d f).ptDesc = s.ptDesc := rfl
@[simp] theorem State.residDefault_modDie (s : State) (d : Nat) (f : Die → Die) : (s.modDie d f).residDefault = s.residDefault := rfl
@[simp] theorem State.undeliverable_modDie (s : State) (d : Nat) (f : Die → Die) : (s.modDie d f).undeliverable = s.undeliverable := rfl
@[simp] theorem State.ports_modDie (s : State) (d : Nat) (f : Die → Die) : (s.modDie d f).ports = s.ports := rfl
@[simp] theorem State.routes_modDie (s : State) (d : Nat) (f : Die → Die) : (s.modDie d f).routes = s.routes := rfl
@[simp] theorem State.lost_modDie (s : State) (d : Nat) (f : Die → Die) : (s.modDie d f).lost = s.lost := rfl
@[simp] theorem State.losses_modDie (s : State) (d : Nat) (f : Die → Die) : (s.modDie d f).losses = s.losses := rfl
@[simp] theorem State.pkg_modDie (s : State) (d : Nat) (f : Die → Die) : (s.modDie d f).pkg = s.pkg := rfl
@[simp] theorem State.migration_modDie (s : State) (d : Nat) (f : Die → Die) : (s.modDie d f).migration = s.migration := rfl
@[simp] theorem State.deadProcs_modDie (s : State) (d : Nat) (f : Die → Die) : (s.modDie d f).deadProcs = s.deadProcs := rfl
@[simp] theorem State.reports_modDie (s : State) (d : Nat) (f : Die → Die) : (s.modDie d f).reports = s.reports := rfl
@[simp] theorem State.image_modDie (s : State) (d : Nat) (f : Die → Die) : (s.modDie d f).image = s.image := rfl
@[simp] theorem State.counters_modDie (s : State) (d : Nat) (f : Die → Die) : (s.modDie d f).counters = s.counters := rfl
@[simp] theorem State.powerLimit_modDie (s : State) (d : Nat) (f : Die → Die) : (s.modDie d f).powerLimit = s.powerLimit := rfl
@[simp] theorem State.remoteOps_modDie (s : State) (d : Nat) (f : Die → Die) : (s.modDie d f).remoteOps = s.remoteOps := rfl
@[simp] theorem State.schedule_modDie (s : State) (d : Nat) (f : Die → Die) : (s.modDie d f).schedule = s.schedule := rfl
@[simp] theorem State.freeCtr_modDie (s : State) (d : Nat) (f : Die → Die) : (s.modDie d f).freeCtr = s.freeCtr := rfl
@[simp] theorem State.nextId_modDie (s : State) (d : Nat) (f : Die → Die) : (s.modDie d f).nextId = s.nextId := rfl
@[simp] theorem State.clock_modDie (s : State) (d : Nat) (f : Die → Die) : (s.modDie d f).clock = s.clock := rfl
@[simp] theorem State.cur_modDie (s : State) (d : Nat) (f : Die → Die) : (s.modDie d f).cur = s.cur := rfl
@[simp] theorem State.unit_modDie (s : State) (d : Nat) (f : Die → Die) (j : Nat) : (s.modDie d f).unit j = s.unit j := rfl
@[simp] theorem State.task_modDie (s : State) (d : Nat) (f : Die → Die) (j : Nat) : (s.modDie d f).task j = s.task j := rfl
@[simp] theorem State.core_modDie (s : State) (d : Nat) (f : Die → Die) (j : Nat) : (s.modDie d f).core j = s.core j := rfl
@[simp] theorem State.part_modDie (s : State) (d : Nat) (f : Die → Die) (j : Nat) : (s.modDie d f).part j = s.part j := rfl

/-! #### modPart -/

@[simp] theorem State.mem_modPart (s : State) (p : Nat) (f : Part → Part) : (s.modPart p f).mem = s.mem := rfl
@[simp] theorem State.hostMem_modPart (s : State) (p : Nat) (f : Part → Part) : (s.modPart p f).hostMem = s.hostMem := rfl
@[simp] theorem State.lines_modPart (s : State) (p : Nat) (f : Part → Part) : (s.modPart p f).lines = s.lines := rfl
@[simp] theorem State.cores_modPart (s : State) (p : Nat) (f : Part → Part) : (s.modPart p f).cores = s.cores := rfl
@[simp] theorem State.copse_modPart (s : State) (p : Nat) (f : Part → Part) : (s.modPart p f).copse = s.copse := rfl
@[simp] theorem State.dies_modPart (s : State) (p : Nat) (f : Part → Part) : (s.modPart p f).dies = s.dies := rfl
@[simp] theorem State.slices_modPart (s : State) (p : Nat) (f : Part → Part) : (s.modPart p f).slices = s.slices := rfl
@[simp] theorem State.tasks_modPart (s : State) (p : Nat) (f : Part → Part) : (s.modPart p f).tasks = s.tasks := rfl
@[simp] theorem State.units_modPart (s : State) (p : Nat) (f : Part → Part) : (s.modPart p f).units = s.units := rfl
@[simp] theorem State.frames_modPart (s : State) (p : Nat) (f : Part → Part) : (s.modPart p f).frames = s.frames := rfl
@[simp] theorem State.launches_modPart (s : State) (p : Nat) (f : Part → Part) : (s.modPart p f).launches = s.launches := rfl
@[simp] theorem State.ptDesc_modPart (s : State) (p : Nat) (f : Part → Part) : (s.modPart p f).ptDesc = s.ptDesc := rfl
@[simp] theorem State.residDefault_modPart (s : State) (p : Nat) (f : Part → Part) : (s.modPart p f).residDefault = s.residDefault := rfl
@[simp] theorem State.undeliverable_modPart (s : State) (p : Nat) (f : Part → Part) : (s.modPart p f).undeliverable = s.undeliverable := rfl
@[simp] theorem State.ports_modPart (s : State) (p : Nat) (f : Part → Part) : (s.modPart p f).ports = s.ports := rfl
@[simp] theorem State.routes_modPart (s : State) (p : Nat) (f : Part → Part) : (s.modPart p f).routes = s.routes := rfl
@[simp] theorem State.lost_modPart (s : State) (p : Nat) (f : Part → Part) : (s.modPart p f).lost = s.lost := rfl
@[simp] theorem State.losses_modPart (s : State) (p : Nat) (f : Part → Part) : (s.modPart p f).losses = s.losses := rfl
@[simp] theorem State.pkg_modPart (s : State) (p : Nat) (f : Part → Part) : (s.modPart p f).pkg = s.pkg := rfl
@[simp] theorem State.migration_modPart (s : State) (p : Nat) (f : Part → Part) : (s.modPart p f).migration = s.migration := rfl
@[simp] theorem State.deadProcs_modPart (s : State) (p : Nat) (f : Part → Part) : (s.modPart p f).deadProcs = s.deadProcs := rfl
@[simp] theorem State.reports_modPart (s : State) (p : Nat) (f : Part → Part) : (s.modPart p f).reports = s.reports := rfl
@[simp] theorem State.image_modPart (s : State) (p : Nat) (f : Part → Part) : (s.modPart p f).image = s.image := rfl
@[simp] theorem State.counters_modPart (s : State) (p : Nat) (f : Part → Part) : (s.modPart p f).counters = s.counters := rfl
@[simp] theorem State.powerLimit_modPart (s : State) (p : Nat) (f : Part → Part) : (s.modPart p f).powerLimit = s.powerLimit := rfl
@[simp] theorem State.remoteOps_modPart (s : State) (p : Nat) (f : Part → Part) : (s.modPart p f).remoteOps = s.remoteOps := rfl
@[simp] theorem State.schedule_modPart (s : State) (p : Nat) (f : Part → Part) : (s.modPart p f).schedule = s.schedule := rfl
@[simp] theorem State.freeCtr_modPart (s : State) (p : Nat) (f : Part → Part) : (s.modPart p f).freeCtr = s.freeCtr := rfl
@[simp] theorem State.nextId_modPart (s : State) (p : Nat) (f : Part → Part) : (s.modPart p f).nextId = s.nextId := rfl
@[simp] theorem State.clock_modPart (s : State) (p : Nat) (f : Part → Part) : (s.modPart p f).clock = s.clock := rfl
@[simp] theorem State.cur_modPart (s : State) (p : Nat) (f : Part → Part) : (s.modPart p f).cur = s.cur := rfl
@[simp] theorem State.unit_modPart (s : State) (p : Nat) (f : Part → Part) (j : Nat) : (s.modPart p f).unit j = s.unit j := rfl
@[simp] theorem State.task_modPart (s : State) (p : Nat) (f : Part → Part) (j : Nat) : (s.modPart p f).task j = s.task j := rfl
@[simp] theorem State.core_modPart (s : State) (p : Nat) (f : Part → Part) (j : Nat) : (s.modPart p f).core j = s.core j := rfl
@[simp] theorem State.die_modPart (s : State) (p : Nat) (f : Part → Part) (j : Nat) : (s.modPart p f).die j = s.die j := rfl

/-! #### modCtx -/

@[simp] theorem State.mem_modCtx (s : State) (c : Nat) (f : CoreCtx → CoreCtx) : (s.modCtx c f).mem = s.mem := rfl
@[simp] theorem State.hostMem_modCtx (s : State) (c : Nat) (f : CoreCtx → CoreCtx) : (s.modCtx c f).hostMem = s.hostMem := rfl
@[simp] theorem State.lines_modCtx (s : State) (c : Nat) (f : CoreCtx → CoreCtx) : (s.modCtx c f).lines = s.lines := rfl
@[simp] theorem State.copse_modCtx (s : State) (c : Nat) (f : CoreCtx → CoreCtx) : (s.modCtx c f).copse = s.copse := rfl
@[simp] theorem State.dies_modCtx (s : State) (c : Nat) (f : CoreCtx → CoreCtx) : (s.modCtx c f).dies = s.dies := rfl
@[simp] theorem State.slices_modCtx (s : State) (c : Nat) (f : CoreCtx → CoreCtx) : (s.modCtx c f).slices = s.slices := rfl
@[simp] theorem State.parts_modCtx (s : State) (c : Nat) (f : CoreCtx → CoreCtx) : (s.modCtx c f).parts = s.parts := rfl
@[simp] theorem State.tasks_modCtx (s : State) (c : Nat) (f : CoreCtx → CoreCtx) : (s.modCtx c f).tasks = s.tasks := rfl
@[simp] theorem State.units_modCtx (s : State) (c : Nat) (f : CoreCtx → CoreCtx) : (s.modCtx c f).units = s.units := rfl
@[simp] theorem State.frames_modCtx (s : State) (c : Nat) (f : CoreCtx → CoreCtx) : (s.modCtx c f).frames = s.frames := rfl
@[simp] theorem State.launches_modCtx (s : State) (c : Nat) (f : CoreCtx → CoreCtx) : (s.modCtx c f).launches = s.launches := rfl
@[simp] theorem State.ptDesc_modCtx (s : State) (c : Nat) (f : CoreCtx → CoreCtx) : (s.modCtx c f).ptDesc = s.ptDesc := rfl
@[simp] theorem State.residDefault_modCtx (s : State) (c : Nat) (f : CoreCtx → CoreCtx) : (s.modCtx c f).residDefault = s.residDefault := rfl
@[simp] theorem State.undeliverable_modCtx (s : State) (c : Nat) (f : CoreCtx → CoreCtx) : (s.modCtx c f).undeliverable = s.undeliverable := rfl
@[simp] theorem State.ports_modCtx (s : State) (c : Nat) (f : CoreCtx → CoreCtx) : (s.modCtx c f).ports = s.ports := rfl
@[simp] theorem State.routes_modCtx (s : State) (c : Nat) (f : CoreCtx → CoreCtx) : (s.modCtx c f).routes = s.routes := rfl
@[simp] theorem State.lost_modCtx (s : State) (c : Nat) (f : CoreCtx → CoreCtx) : (s.modCtx c f).lost = s.lost := rfl
@[simp] theorem State.losses_modCtx (s : State) (c : Nat) (f : CoreCtx → CoreCtx) : (s.modCtx c f).losses = s.losses := rfl
@[simp] theorem State.pkg_modCtx (s : State) (c : Nat) (f : CoreCtx → CoreCtx) : (s.modCtx c f).pkg = s.pkg := rfl
@[simp] theorem State.migration_modCtx (s : State) (c : Nat) (f : CoreCtx → CoreCtx) : (s.modCtx c f).migration = s.migration := rfl
@[simp] theorem State.deadProcs_modCtx (s : State) (c : Nat) (f : CoreCtx → CoreCtx) : (s.modCtx c f).deadProcs = s.deadProcs := rfl
@[simp] theorem State.reports_modCtx (s : State) (c : Nat) (f : CoreCtx → CoreCtx) : (s.modCtx c f).reports = s.reports := rfl
@[simp] theorem State.image_modCtx (s : State) (c : Nat) (f : CoreCtx → CoreCtx) : (s.modCtx c f).image = s.image := rfl
@[simp] theorem State.counters_modCtx (s : State) (c : Nat) (f : CoreCtx → CoreCtx) : (s.modCtx c f).counters = s.counters := rfl
@[simp] theorem State.powerLimit_modCtx (s : State) (c : Nat) (f : CoreCtx → CoreCtx) : (s.modCtx c f).powerLimit = s.powerLimit := rfl
@[simp] theorem State.remoteOps_modCtx (s : State) (c : Nat) (f : CoreCtx → CoreCtx) : (s.modCtx c f).remoteOps = s.remoteOps := rfl
@[simp] theorem State.schedule_modCtx (s : State) (c : Nat) (f : CoreCtx → CoreCtx) : (s.modCtx c f).schedule = s.schedule := rfl
@[simp] theorem State.freeCtr_modCtx (s : State) (c : Nat) (f : CoreCtx → CoreCtx) : (s.modCtx c f).freeCtr = s.freeCtr := rfl
@[simp] theorem State.nextId_modCtx (s : State) (c : Nat) (f : CoreCtx → CoreCtx) : (s.modCtx c f).nextId = s.nextId := rfl
@[simp] theorem State.clock_modCtx (s : State) (c : Nat) (f : CoreCtx → CoreCtx) : (s.modCtx c f).clock = s.clock := rfl
@[simp] theorem State.cur_modCtx (s : State) (c : Nat) (f : CoreCtx → CoreCtx) : (s.modCtx c f).cur = s.cur := rfl
@[simp] theorem State.unit_modCtx (s : State) (c : Nat) (f : CoreCtx → CoreCtx) (j : Nat) : (s.modCtx c f).unit j = s.unit j := rfl
@[simp] theorem State.task_modCtx (s : State) (c : Nat) (f : CoreCtx → CoreCtx) (j : Nat) : (s.modCtx c f).task j = s.task j := rfl
@[simp] theorem State.die_modCtx (s : State) (c : Nat) (f : CoreCtx → CoreCtx) (j : Nat) : (s.modCtx c f).die j = s.die j := rfl
@[simp] theorem State.part_modCtx (s : State) (c : Nat) (f : CoreCtx → CoreCtx) (j : Nat) : (s.modCtx c f).part j = s.part j := rfl

/-! #### pass -/

@[simp] theorem State.mem_pass (s : State) (c n : Nat) : (s.pass c n).mem = s.mem := rfl
@[simp] theorem State.hostMem_pass (s : State) (c n : Nat) : (s.pass c n).hostMem = s.hostMem := rfl
@[simp] theorem State.lines_pass (s : State) (c n : Nat) : (s.pass c n).lines = s.lines := rfl
@[simp] theorem State.copse_pass (s : State) (c n : Nat) : (s.pass c n).copse = s.copse := rfl
@[simp] theorem State.dies_pass (s : State) (c n : Nat) : (s.pass c n).dies = s.dies := rfl
@[simp] theorem State.slices_pass (s : State) (c n : Nat) : (s.pass c n).slices = s.slices := rfl
@[simp] theorem State.parts_pass (s : State) (c n : Nat) : (s.pass c n).parts = s.parts := rfl
@[simp] theorem State.tasks_pass (s : State) (c n : Nat) : (s.pass c n).tasks = s.tasks := rfl
@[simp] theorem State.units_pass (s : State) (c n : Nat) : (s.pass c n).units = s.units := rfl
@[simp] theorem State.frames_pass (s : State) (c n : Nat) : (s.pass c n).frames = s.frames := rfl
@[simp] theorem State.launches_pass (s : State) (c n : Nat) : (s.pass c n).launches = s.launches := rfl
@[simp] theorem State.ptDesc_pass (s : State) (c n : Nat) : (s.pass c n).ptDesc = s.ptDesc := rfl
@[simp] theorem State.residDefault_pass (s : State) (c n : Nat) : (s.pass c n).residDefault = s.residDefault := rfl
@[simp] theorem State.undeliverable_pass (s : State) (c n : Nat) : (s.pass c n).undeliverable = s.undeliverable := rfl
@[simp] theorem State.ports_pass (s : State) (c n : Nat) : (s.pass c n).ports = s.ports := rfl
@[simp] theorem State.routes_pass (s : State) (c n : Nat) : (s.pass c n).routes = s.routes := rfl
@[simp] theorem State.lost_pass (s : State) (c n : Nat) : (s.pass c n).lost = s.lost := rfl
@[simp] theorem State.losses_pass (s : State) (c n : Nat) : (s.pass c n).losses = s.losses := rfl
@[simp] theorem State.pkg_pass (s : State) (c n : Nat) : (s.pass c n).pkg = s.pkg := rfl
@[simp] theorem State.migration_pass (s : State) (c n : Nat) : (s.pass c n).migration = s.migration := rfl
@[simp] theorem State.deadProcs_pass (s : State) (c n : Nat) : (s.pass c n).deadProcs = s.deadProcs := rfl
@[simp] theorem State.reports_pass (s : State) (c n : Nat) : (s.pass c n).reports = s.reports := rfl
@[simp] theorem State.image_pass (s : State) (c n : Nat) : (s.pass c n).image = s.image := rfl
@[simp] theorem State.counters_pass (s : State) (c n : Nat) : (s.pass c n).counters = s.counters := rfl
@[simp] theorem State.powerLimit_pass (s : State) (c n : Nat) : (s.pass c n).powerLimit = s.powerLimit := rfl
@[simp] theorem State.remoteOps_pass (s : State) (c n : Nat) : (s.pass c n).remoteOps = s.remoteOps := rfl
@[simp] theorem State.schedule_pass (s : State) (c n : Nat) : (s.pass c n).schedule = s.schedule := rfl
@[simp] theorem State.freeCtr_pass (s : State) (c n : Nat) : (s.pass c n).freeCtr = s.freeCtr := rfl
@[simp] theorem State.nextId_pass (s : State) (c n : Nat) : (s.pass c n).nextId = s.nextId := rfl
@[simp] theorem State.clock_pass (s : State) (c n : Nat) : (s.pass c n).clock = s.clock := rfl
@[simp] theorem State.cur_pass (s : State) (c n : Nat) : (s.pass c n).cur = s.cur := rfl
@[simp] theorem State.unit_pass (s : State) (c n : Nat) (j : Nat) : (s.pass c n).unit j = s.unit j := rfl
@[simp] theorem State.task_pass (s : State) (c n : Nat) (j : Nat) : (s.pass c n).task j = s.task j := rfl
@[simp] theorem State.die_pass (s : State) (c n : Nat) (j : Nat) : (s.pass c n).die j = s.die j := rfl
@[simp] theorem State.part_pass (s : State) (c n : Nat) (j : Nat) : (s.pass c n).part j = s.part j := rfl

end Sys2Proof.Machine
end

