-- ==== Sys2Proof/Laws/Frontier.lean ====
section
/-! SUPPORT. Laws of the frontier: where lanes stand after lanes are taken out, entries added, and an issue settled (R157, R160). -/

namespace Sys2Proof.Machine

/-- Lane `l` of a frontier is first found in an entry with this PC, priority and blocked state. -/
def standsIn (fr : List Entry) (l : Nat) (pc : W64) (prio : BitVec 2) (blk : Option Wait) : Prop :=
  ∃ e, fr.find? (fun e => hasLane e.mask l) = some e ∧ e.pc = pc ∧ e.prio = prio ∧ e.blk = blk

theorem Unit.stands_iff (u : Unit) (l : Nat) (pc : W64) (prio : BitVec 2) (blk : Option Wait) :
    u.stands l pc prio blk ↔ standsIn u.frontier l pc prio blk := Iff.rfl

/-- No entry holds a lane. -/
def absent (fr : List Entry) (l : Nat) : Prop := ∀ e ∈ fr, hasLane e.mask l = false

theorem hasLane_or (a b : LMask) (l : Nat) : hasLane (a ||| b) l = (hasLane a l || hasLane b l) := by simp [hasLane]

theorem hasLane_lt {m : LMask} {l : Nat} (h : hasLane m l = true) : l < 64 := BitVec.lt_of_getLsbD h

theorem hasLane_diff (a b : LMask) (l : Nat) : hasLane (a &&& ~~~b) l = (hasLane a l && !hasLane b l) := by
  unfold hasLane
  rw [BitVec.getLsbD_and, BitVec.getLsbD_not]
  by_cases h : l < 64
  · simp [h]
  · simp [h, BitVec.getLsbD_of_ge, Nat.le_of_not_lt h]

theorem hasLane_zero (l : Nat) : hasLane 0#64 l = false := by simp [hasLane]

theorem absent_takeLanes (fr : List Entry) (m : LMask) (l : Nat) (h : hasLane m l = true) : absent (takeLanes fr m) l := by
  intro e he
  simp only [takeLanes, List.mem_filter, List.mem_map] at he
  obtain ⟨⟨x, _, rfl⟩, _⟩ := he
  simp [hasLane_diff, h]

theorem standsIn_takeLanes {fr : List Entry} {m : LMask} {l : Nat} {pc : W64} {prio : BitVec 2} {blk : Option Wait}
    (h : hasLane m l = false) (hs : standsIn fr l pc prio blk) : standsIn (takeLanes fr m) l pc prio blk := by
  induction fr with
  | nil => obtain ⟨e, he, _⟩ := hs; simp at he
  | cons x xs ih =>
    obtain ⟨e, he, hpc⟩ := hs
    by_cases hx : hasLane x.mask l = true
    · rw [List.find?_cons_of_pos (by simpa using hx)] at he
      obtain rfl : x = e := by simpa using he
      have hm : hasLane (x.mask &&& ~~~m) l = true := by simp [hasLane_diff, hx, h]
      have hne : x.mask &&& ~~~m ≠ 0#64 := by intro e; rw [e, hasLane_zero] at hm; simp at hm
      refine ⟨{ x with mask := x.mask &&& ~~~m }, ?_, hpc⟩
      simp only [takeLanes, List.map_cons]
      rw [List.filter_cons_of_pos (by simpa using hne), List.find?_cons_of_pos (by simpa using hm)]
    · rw [List.find?_cons_of_neg (by simpa using hx)] at he
      obtain ⟨e', he', hpc'⟩ := ih ⟨e, he, hpc⟩
      refine ⟨e', ?_, hpc'⟩
      have hm : ¬ hasLane (x.mask &&& ~~~m) l = true := by simp [hasLane_diff, hx]
      simp only [takeLanes, List.map_cons]
      by_cases hz : x.mask &&& ~~~m = 0#64
      · rw [List.filter_cons_of_neg (by simpa using hz)]; exact he'
      · rw [List.filter_cons_of_pos (by simpa using hz), List.find?_cons_of_neg (by simpa using hm)]; exact he'

theorem merges_eq {a b : Entry} (h : a.merges b = true) : a.pc = b.pc ∧ a.prio = b.prio ∧ a.blk = none ∧ b.blk = none := by
  simp only [Entry.merges, Bool.and_eq_true, beq_iff_eq, Option.isNone_iff_eq_none] at h
  exact ⟨h.1.2, h.2, h.1.1.1.1.1, h.1.1.1.1.2⟩

/-- An added entry's lane stands with it, where no entry held the lane. -/
theorem standsIn_addEntry_new {fr : List Entry} {e : Entry} {l : Nat} (hl : hasLane e.mask l = true) (ha : absent fr l) :
    standsIn (addEntry fr e) l e.pc e.prio e.blk := by
  have hne : (e.mask == 0#64) = false := by
    simp only [beq_eq_false_iff_ne]; intro z; rw [z, hasLane_zero] at hl; simp at hl
  induction fr with
  | nil => simp only [addEntry, hne]; exact ⟨e, by simp [hl], rfl, rfl, rfl⟩
  | cons x xs ih =>
    have hx := ha x List.mem_cons_self
    simp only [addEntry, hne, Bool.false_eq_true, if_false]
    by_cases hm : x.merges e = true
    · obtain ⟨h1, h2, h3, h4⟩ := merges_eq hm
      rw [if_pos hm]
      refine ⟨_, List.find?_cons_of_pos (by simp [hasLane_or, hl]), h1, h2, h3.trans h4.symm⟩
    · rw [if_neg hm]
      obtain ⟨y, hy, hr⟩ := ih fun z hz => ha z (List.mem_cons_of_mem _ hz)
      refine ⟨y, ?_, hr⟩
      rw [List.find?_cons_of_neg (by simp [hx])]
      simpa [addEntry, hne] using hy

/-- An entry added without a lane leaves where that lane stands. -/
theorem standsIn_addEntry_old {fr : List Entry} {e : Entry} {l : Nat} {pc : W64} {prio : BitVec 2} {blk : Option Wait}
    (hl : hasLane e.mask l = false) (hs : standsIn fr l pc prio blk) : standsIn (addEntry fr e) l pc prio blk := by
  by_cases hz : (e.mask == 0#64) = true
  · unfold addEntry; rw [if_pos hz]; exact hs
  induction fr with
  | nil => obtain ⟨x, hx, _⟩ := hs; simp at hx
  | cons x xs ih =>
    unfold addEntry
    rw [if_neg hz]
    obtain ⟨y, hy, hr⟩ := hs
    by_cases hx : hasLane x.mask l = true
    · rw [List.find?_cons_of_pos (by simpa using hx)] at hy
      obtain rfl : x = y := by simpa using hy
      by_cases hm : x.merges e = true
      · refine ⟨{ x with mask := x.mask ||| e.mask, cnt := Nat.max x.cnt e.cnt, aged := x.aged || e.aged }, ?_, hr⟩
        simp only [hm, if_true]
        rw [List.find?_cons_of_pos (by simp [hasLane_or, hx])]
      · exact ⟨x, by simp only [hm]; exact List.find?_cons_of_pos (by simpa using hx), hr⟩
    · rw [List.find?_cons_of_neg (by simpa using hx)] at hy
      by_cases hm : x.merges e = true
      · refine ⟨y, ?_, hr⟩
        simp only [hm, if_true]
        rw [List.find?_cons_of_neg (by simp [hasLane_or, hx, hl])]; exact hy
      · obtain ⟨z, hz', hr'⟩ := ih ⟨y, hy, hr⟩
        refine ⟨z, ?_, hr'⟩
        simp only [hm, Bool.false_eq_true, if_false]
        rw [List.find?_cons_of_neg (by simpa using hx)]; exact hz'

theorem absent_addEntry {fr : List Entry} {e : Entry} {l : Nat} (hl : hasLane e.mask l = false) (ha : absent fr l) :
    absent (addEntry fr e) l := by
  by_cases hz : (e.mask == 0#64) = true
  · unfold addEntry; rw [if_pos hz]; exact ha
  induction fr with
  | nil => intro x hx; unfold addEntry at hx; rw [if_neg hz] at hx; simp at hx; rw [hx]; exact hl
  | cons x xs ih =>
    intro y hy
    unfold addEntry at hy
    rw [if_neg hz] at hy
    have hx := ha x List.mem_cons_self
    have hxs := fun z hz' => ha z (List.mem_cons_of_mem x hz')
    simp only at hy
    split at hy
    · rcases List.mem_cons.1 hy with rfl | h
      · simp [hasLane_or, hx, hl]
      · exact hxs y h
    · rcases List.mem_cons.1 hy with rfl | h
      · exact hx
      · exact ih hxs y h

/-- Entries added that do not hold a lane. -/
theorem standsIn_foldl_old {es fr : List Entry} {l : Nat} {pc : W64} {prio : BitVec 2} {blk : Option Wait}
    (he : absent es l) (hs : standsIn fr l pc prio blk) : standsIn (es.foldl addEntry fr) l pc prio blk := by
  induction es generalizing fr with
  | nil => exact hs
  | cons x xs ih =>
    exact ih (fun z hz => he z (List.mem_cons_of_mem _ hz)) (standsIn_addEntry_old (he x List.mem_cons_self) hs)

theorem absent_foldl {es fr : List Entry} {l : Nat} (he : absent es l) (ha : absent fr l) :
    absent (es.foldl addEntry fr) l := by
  induction es generalizing fr with
  | nil => exact ha
  | cons x xs ih =>
    exact ih (fun z hz => he z (List.mem_cons_of_mem _ hz)) (absent_addEntry (he x List.mem_cons_self) ha)

/-- Every entry of a list that holds a lane has this PC, priority and blocked state. -/
def allAt (fr : List Entry) (l : Nat) (pc : W64) (prio : BitVec 2) (blk : Option Wait) : Prop :=
  ∀ e ∈ fr, hasLane e.mask l = true → e.pc = pc ∧ e.prio = prio ∧ e.blk = blk

theorem allAt_of_absent {fr : List Entry} {l : Nat} {pc : W64} {prio : BitVec 2} {blk : Option Wait} (h : absent fr l) :
    allAt fr l pc prio blk := fun e he hl => by rw [h e he] at hl; simp at hl

/-- A lane that some entry holds stands where every entry that holds it does. -/
theorem standsIn_of_allAt {fr : List Entry} {l : Nat} {pc : W64} {prio : BitVec 2} {blk : Option Wait}
    (h : allAt fr l pc prio blk) (hl : ∃ e ∈ fr, hasLane e.mask l = true) : standsIn fr l pc prio blk := by
  obtain ⟨e, he, hm⟩ := hl
  cases hf : fr.find? fun e => hasLane e.mask l with
  | none => exact absurd hm (by simpa using List.find?_eq_none.1 hf e he)
  | some x => exact ⟨x, hf, h x (List.mem_of_find?_eq_some hf) (by simpa using List.find?_some hf)⟩

theorem allAt_addEntry {fr : List Entry} {e : Entry} {l : Nat} {pc : W64} {prio : BitVec 2} {blk : Option Wait}
    (h : allAt fr l pc prio blk) (he : hasLane e.mask l = true → e.pc = pc ∧ e.prio = prio ∧ e.blk = blk) :
    allAt (addEntry fr e) l pc prio blk := by
  by_cases hz : (e.mask == 0#64) = true
  · unfold addEntry; rw [if_pos hz]; exact h
  induction fr with
  | nil => intro x hx; unfold addEntry at hx; rw [if_neg hz] at hx; simp at hx; rw [hx]; exact he
  | cons x xs ih =>
    have hx := h x List.mem_cons_self
    have hxs : allAt xs l pc prio blk := fun y hy => h y (List.mem_cons_of_mem _ hy)
    intro y hy
    unfold addEntry at hy
    rw [if_neg hz] at hy
    simp only at hy
    split at hy
    · rename_i hm
      obtain ⟨h1, h2, h3, h4⟩ := merges_eq hm
      rcases List.mem_cons.1 hy with rfl | hy'
      · intro hl
        simp only [hasLane_or, Bool.or_eq_true] at hl
        rcases hl with hl | hl
        · exact hx hl
        · obtain ⟨a, b, c⟩ := he hl
          exact ⟨h1.trans a, h2.trans b, (h3.trans h4.symm).trans c⟩
      · exact hxs y hy'
    · rcases List.mem_cons.1 hy with rfl | hy'
      · exact hx
      · exact ih hxs y hy'

theorem holds_addEntry_new {fr : List Entry} {e : Entry} {l : Nat} (hl : hasLane e.mask l = true) :
    ∃ x ∈ addEntry fr e, hasLane x.mask l = true := by
  have hz : ¬ (e.mask == 0#64) = true := by
    intro z; rw [beq_iff_eq.1 z, hasLane_zero] at hl; simp at hl
  induction fr with
  | nil => unfold addEntry; rw [if_neg hz]; exact ⟨e, by simp, hl⟩
  | cons x xs ih =>
    unfold addEntry
    rw [if_neg hz]
    simp only
    split
    · exact ⟨_, List.mem_cons_self, by simp [hasLane_or, hl]⟩
    · obtain ⟨y, hy, h⟩ := ih
      exact ⟨y, List.mem_cons_of_mem _ hy, h⟩

theorem holds_addEntry_old {fr : List Entry} {e : Entry} {l : Nat} (h : ∃ x ∈ fr, hasLane x.mask l = true) :
    ∃ x ∈ addEntry fr e, hasLane x.mask l = true := by
  by_cases hz : (e.mask == 0#64) = true
  · unfold addEntry; rw [if_pos hz]; exact h
  induction fr with
  | nil => obtain ⟨x, hx, _⟩ := h; simp at hx
  | cons x xs ih =>
    unfold addEntry
    rw [if_neg hz]
    obtain ⟨y, hy, hl⟩ := h
    simp only
    split
    · rcases List.mem_cons.1 hy with rfl | hy'
      · exact ⟨_, List.mem_cons_self, by simp [hasLane_or, hl]⟩
      · exact ⟨y, List.mem_cons_of_mem _ hy', hl⟩
    · rcases List.mem_cons.1 hy with rfl | hy'
      · exact ⟨_, List.mem_cons_self, hl⟩
      · obtain ⟨z, hz', h⟩ := ih ⟨y, hy', hl⟩
        exact ⟨z, List.mem_cons_of_mem _ hz', h⟩

/-- Entries added, one of which holds a lane and which all agree on it, to a frontier that does not hold it. -/
theorem standsIn_foldl_new {es fr : List Entry} {l : Nat} {pc : W64} {prio : BitVec 2} {blk : Option Wait}
    (hall : allAt es l pc prio blk) (hex : ∃ e ∈ es, hasLane e.mask l = true) (ha : absent fr l) :
    standsIn (es.foldl addEntry fr) l pc prio blk := by
  have key (es fr : List Entry) (hall : allAt es l pc prio blk) (hfr : allAt fr l pc prio blk)
      (hex : (∃ e ∈ es, hasLane e.mask l = true) ∨ ∃ e ∈ fr, hasLane e.mask l = true) :
      allAt (es.foldl addEntry fr) l pc prio blk ∧ ∃ e ∈ es.foldl addEntry fr, hasLane e.mask l = true := by
    induction es generalizing fr with
    | nil => rcases hex with ⟨e, he, _⟩ | h
             · simp at he
             · exact ⟨hfr, h⟩
    | cons x xs ih =>
      refine ih _ (fun y hy => hall y (List.mem_cons_of_mem _ hy)) (allAt_addEntry hfr (hall x List.mem_cons_self)) ?_
      rcases hex with ⟨e, he, hl⟩ | h
      · rcases List.mem_cons.1 he with rfl | he'
        · exact .inr (holds_addEntry_new hl)
        · exact .inl ⟨e, he', hl⟩
      · exact .inr (holds_addEntry_old h)
  obtain ⟨h1, h2⟩ := key es fr hall (allAt_of_absent ha) (.inl hex)
  exact standsIn_of_allAt h1 h2

/-! ### Ageing -/

theorem standsIn_ageOthers {fr : List Entry} {m : LMask} {l : Nat} {pc : W64} {prio : BitVec 2} {blk : Option Wait}
    (hs : standsIn fr l pc prio blk) : standsIn (ageOthers fr m) l pc prio blk := by
  induction fr with
  | nil => obtain ⟨x, hx, _⟩ := hs; simp at hx
  | cons x xs ih =>
    obtain ⟨y, hy, hr⟩ := hs
    by_cases hx : hasLane x.mask l = true
    · rw [List.find?_cons_of_pos (by simpa using hx)] at hy
      obtain rfl : x = y := by simpa using hy
      simp only [ageOthers, List.map_cons]
      by_cases hc : (x.blk.isSome || x.mask &&& m != 0#64) = true
      · rw [if_pos hc]; exact ⟨x, List.find?_cons_of_pos (by simpa using hx), hr⟩
      · rw [if_neg hc]; exact ⟨_, List.find?_cons_of_pos (by simpa using hx), hr⟩
    · rw [List.find?_cons_of_neg (by simpa using hx)] at hy
      obtain ⟨z, hz, hr'⟩ := ih ⟨y, hy, hr⟩
      refine ⟨z, ?_, hr'⟩
      simp only [ageOthers, List.map_cons]
      rw [List.find?_cons_of_neg]
      · exact hz
      · split <;> simpa using hx

/-! ### The entries of an issue -/

/-- Where an outcome sends a lane, if it goes on in the frontier. -/
def LaneOut.target (x : Issue) : LaneOut → Option (W64 × BitVec 2 × Option Wait)
  | .next => some (x.pc + BitVec.ofNat 64 x.len, x.prio, none)
  | .jump pc prio => some (pc, prio, none)
  | .block w => some (x.pc, x.prio, some w)
  | _ => none

/-- The step by which an issue's entries gather one lane. -/
theorem issueEntries_step (x : Issue) (outs : List (Nat × LaneOut)) (ls : List Nat) :
    issueEntries x outs ls = ls.foldl (fun es l => match (outOf outs l).target x with
      | some (pc, prio, blk) => groupEntry es pc prio blk l
      | none => es) [] := by
  unfold issueEntries
  congr 1
  funext es l
  cases outOf outs l <;> rfl

theorem allAt_groupEntry {es : List Entry} {pc : W64} {prio : BitVec 2} {blk : Option Wait} {k l : Nat}
    {pc' : W64} {prio' : BitVec 2} {blk' : Option Wait} (h : allAt es l pc' prio' blk')
    (hk : k = l → pc = pc' ∧ prio = prio' ∧ blk = blk') : allAt (groupEntry es pc prio blk k) l pc' prio' blk' := by
  have hbit (hl : hasLane (laneBit k) l = true) : k = l := by
    rw [hasLane_laneBit] at hl; simp at hl; exact hl.2
  induction es with
  | nil =>
    intro e he hl
    simp only [groupEntry, List.mem_singleton] at he
    subst he
    exact hk (hbit hl)
  | cons x xs ih =>
    intro e he hl
    unfold groupEntry at he
    split at he
    · rename_i hc
      simp only [Bool.and_eq_true, beq_iff_eq] at hc
      rcases List.mem_cons.1 he with rfl | he'
      · simp only [hasLane_or, Bool.or_eq_true] at hl
        rcases hl with hl | hl
        · exact h x List.mem_cons_self hl
        · obtain ⟨a, b, c⟩ := hk (hbit hl)
          exact ⟨hc.1.1.trans a, hc.1.2.trans b, hc.2.trans c⟩
      · exact h e (List.mem_cons_of_mem _ he') hl
    · rcases List.mem_cons.1 he with rfl | he'
      · exact h e List.mem_cons_self hl
      · exact ih (fun y hy => h y (List.mem_cons_of_mem _ hy)) e he' hl

theorem holds_groupEntry_new (es : List Entry) (pc : W64) (prio : BitVec 2) (blk : Option Wait) (l : Nat) (hl : l < 64) :
    ∃ e ∈ groupEntry es pc prio blk l, hasLane e.mask l = true := by
  have hb : hasLane (laneBit l) l = true := by simp [hasLane_laneBit, hl]
  induction es with
  | nil => exact ⟨_, List.mem_singleton_self _, hb⟩
  | cons x xs ih =>
    unfold groupEntry
    split
    · exact ⟨_, List.mem_cons_self, by simp [hasLane_or, hb]⟩
    · obtain ⟨e, he, h⟩ := ih
      exact ⟨e, List.mem_cons_of_mem _ he, h⟩

theorem holds_groupEntry_old {es : List Entry} {pc : W64} {prio : BitVec 2} {blk : Option Wait} {k l : Nat}
    (h : ∃ e ∈ es, hasLane e.mask l = true) : ∃ e ∈ groupEntry es pc prio blk k, hasLane e.mask l = true := by
  induction es with
  | nil => obtain ⟨e, he, _⟩ := h; simp at he
  | cons x xs ih =>
    obtain ⟨e, he, hl⟩ := h
    unfold groupEntry
    split
    · rcases List.mem_cons.1 he with rfl | he'
      · exact ⟨_, List.mem_cons_self, by simp [hasLane_or, hl]⟩
      · exact ⟨e, List.mem_cons_of_mem _ he', hl⟩
    · rcases List.mem_cons.1 he with rfl | he'
      · exact ⟨e, List.mem_cons_self, hl⟩
      · obtain ⟨y, hy, hr⟩ := ih ⟨e, he', hl⟩
        exact ⟨y, List.mem_cons_of_mem _ hy, hr⟩

theorem absent_groupEntry {es : List Entry} {pc : W64} {prio : BitVec 2} {blk : Option Wait} {k l : Nat} (h : absent es l)
    (hk : k ≠ l) : absent (groupEntry es pc prio blk k) l := by
  have hb : hasLane (laneBit k) l = false := by rw [hasLane_laneBit]; simp [hk]
  induction es with
  | nil => intro e he; simp only [groupEntry, List.mem_singleton] at he; subst he; exact hb
  | cons x xs ih =>
    intro e he
    unfold groupEntry at he
    split at he
    · rcases List.mem_cons.1 he with rfl | he'
      · simp [hasLane_or, hb, h x List.mem_cons_self]
      · exact h e (List.mem_cons_of_mem _ he')
    · rcases List.mem_cons.1 he with rfl | he'
      · exact h e List.mem_cons_self
      · exact ih (fun y hy => h y (List.mem_cons_of_mem _ hy)) e he'

/-- The entries of an issue hold its lanes where their outcomes send them, and no other lane. -/
theorem issueEntries_spec (x : Issue) (outs : List (Nat × LaneOut)) (ls : List Nat) (l : Nat) :
    (∀ pc prio blk, l ∈ ls → l < 64 → (outOf outs l).target x = some (pc, prio, blk) →
      allAt (issueEntries x outs ls) l pc prio blk ∧ ∃ e ∈ issueEntries x outs ls, hasLane e.mask l = true) ∧
    (l ∉ ls ∨ (outOf outs l).target x = none → absent (issueEntries x outs ls) l) := by
  rw [issueEntries_step]
  have key (ls : List Nat) (es : List Entry) :
      (∀ pc prio blk, l < 64 → (outOf outs l).target x = some (pc, prio, blk) →
        allAt es l pc prio blk → (l ∈ ls ∨ ∃ e ∈ es, hasLane e.mask l = true) →
        allAt (ls.foldl (fun es l => match (outOf outs l).target x with
          | some (pc, prio, blk) => groupEntry es pc prio blk l
          | none => es) es) l pc prio blk ∧
        ∃ e ∈ ls.foldl (fun es l => match (outOf outs l).target x with
          | some (pc, prio, blk) => groupEntry es pc prio blk l
          | none => es) es, hasLane e.mask l = true) ∧
      (l ∉ ls ∨ (outOf outs l).target x = none → absent es l → absent (ls.foldl (fun es l =>
        match (outOf outs l).target x with
          | some (pc, prio, blk) => groupEntry es pc prio blk l
          | none => es) es) l) := by
    induction ls generalizing es with
    | nil =>
      refine ⟨fun pc prio blk _ _ ha h => ⟨ha, ?_⟩, fun _ h => h⟩
      rcases h with h | h
      · simp at h
      · exact h
    | cons k ks ih =>
      simp only [List.foldl_cons]
      refine ⟨fun pc prio blk hl ht ha h => ?_, fun h ha => ?_⟩
      · refine (ih _).1 pc prio blk hl ht ?_ ?_
        · split
          · rename_i p q b hk
            refine allAt_groupEntry ha fun e => ?_
            subst e; rw [ht] at hk; simp only [Option.some.injEq, Prod.mk.injEq] at hk
            exact ⟨hk.1.symm, hk.2.1.symm, hk.2.2.symm⟩
          · exact ha
        · by_cases e : k = l
          · subst e
            simp only [ht]
            exact .inr (holds_groupEntry_new _ _ _ _ _ hl)
          · rcases h with h | h
            · rcases List.mem_cons.1 h with h' | h'
              · exact absurd h'.symm e
              · exact .inl h'
            · split
              · exact .inr (holds_groupEntry_old h)
              · exact .inr h
      · have hk : k = l → (outOf outs l).target x = none := by
          intro e; rcases h with h | h
          · simp [e] at h
          · exact h
        refine (ih _).2 ?_ ?_
        · rcases h with h | h
          · exact .inl fun hm => h (List.mem_cons_of_mem _ hm)
          · exact .inr h
        · by_cases e : k = l
          · have := hk e; subst e; simp only [this]; exact ha
          · split
            · exact absent_groupEntry ha e
            · exact ha
  refine ⟨fun pc prio blk hm hl ht => (key ls []).1 pc prio blk hl ht (fun e he => by simp at he) (.inl hm), fun h =>
    (key ls []).2 h fun e he => by simp at he⟩

end Sys2Proof.Machine
end

