-- ==== Sys2Proof/Laws/Issue.lean ====
section
/-! SUPPORT. Laws of an issue: what an issue that goes ahead answers, what settling and counting it change, and what it leaves alone
(R65, R75 to R78, R157, R160). -/

namespace Sys2Proof.Machine

@[simp] theorem State.issueAt_uid (s : State) (h : Hdr) (i : Instr) (uid : Nat) (e : Entry) : (s.issueAt h i uid e).uid = uid := rfl
@[simp] theorem State.issueAt_pc (s : State) (h : Hdr) (i : Instr) (uid : Nat) (e : Entry) : (s.issueAt h i uid e).pc = e.pc := rfl
@[simp] theorem State.issueAt_mask (s : State) (h : Hdr) (i : Instr) (uid : Nat) (e : Entry) : (s.issueAt h i uid e).mask = e.mask := rfl
@[simp] theorem State.issueAt_prio (s : State) (h : Hdr) (i : Instr) (uid : Nat) (e : Entry) : (s.issueAt h i uid e).prio = e.prio := rfl
@[simp] theorem State.issueAt_len (s : State) (h : Hdr) (i : Instr) (uid : Nat) (e : Entry) :
    (s.issueAt h i uid e).len = lenBytes i.toRaw.len := rfl
@[simp] theorem State.issueAt_act (s : State) (h : Hdr) (i : Instr) (uid : Nat) (e : Entry) :
    (s.issueAt h i uid e).act = s.activeOf h uid e := rfl

theorem State.due_unit (s : State) (uid : Nat) : (s.due uid).unit uid = s.dueUnit uid := rfl

/-! ### What an issue answers -/

/-- An issue that goes ahead and whose body is done. -/
theorem runIssueThen_done {s : State} {h : Hdr} {i : Instr} {uid : Nat} {e : Entry} (hi : Issues s h i uid e)
    (body : Issue → State → Res) (post : Nat → State → State) {s1 : State} {outs : List (Nat × LaneOut)}
    (hb : body (s.issueAt h i uid e) (s.due uid) = .done s1 outs) :
    runIssueThen h i body post s =
      .next (post uid ((s1.settle (s.issueAt h i uid e) false outs).counted (s.issueAt h i uid e) h.stall)) := by
  obtain ⟨h1, h2, -, h3, h4, h5, h6, h7⟩ := hi
  have e1 : s.modUnit uid Unit.retire = s.due uid := rfl
  have e2 : (s.due uid).unit uid = s.dueUnit uid := rfl
  have e3 : issueOf h i uid (s.dueUnit uid) e = s.issueAt h i uid e := rfl
  have e4 : (s.issueAt h i uid e).act = s.activeOf h uid e := rfl
  unfold runIssueThen
  simp only [h1, e1, e2, h2, h4, h5, e3, e4, h6, h7, h3, hb, Option.isSome_none, Bool.not_false, Bool.and_false,
    Bool.false_eq_true, if_false]

/-- An issue that goes ahead and whose body waits: a cycle passes on the core (R53, R159). -/
theorem runIssueThen_wait {s : State} {h : Hdr} {i : Instr} {uid : Nat} {e : Entry} (hi : Issues s h i uid e)
    (body : Issue → State → Res) (post : Nat → State → State) {s1 : State}
    (hb : body (s.issueAt h i uid e) (s.due uid) = .wait s1) :
    runIssueThen h i body post s = .next (s1.pass (s.dueUnit uid).core 1) := by
  obtain ⟨h1, h2, -, h3, h4, h5, h6, h7⟩ := hi
  have e1 : s.modUnit uid Unit.retire = s.due uid := rfl
  have e2 : (s.due uid).unit uid = s.dueUnit uid := rfl
  have e3 : issueOf h i uid (s.dueUnit uid) e = s.issueAt h i uid e := rfl
  have e4 : (s.issueAt h i uid e).act = s.activeOf h uid e := rfl
  unfold runIssueThen
  simp only [h1, e1, e2, h2, h4, h5, e3, e4, h6, h7, hb, Option.isSome_none, Bool.not_false, Bool.and_false,
    Bool.false_eq_true, if_false]

/-- With a unit selected every issue answers a next state. -/
theorem runIssueThen_safe (h : Hdr) (i : Instr) (body : Issue → State → Res) (post : Nat → State → State) {s : State}
    (hc : s.cur ≠ none) : Safe (runIssueThen h i body post s) := by
  unfold runIssueThen
  cases hs : s.cur with
  | none => exact absurd hs hc
  | some uid =>
    simp only
    split
    · exact ⟨_, rfl⟩
    · split
      · split <;> exact ⟨_, rfl⟩
      · split
        · exact ⟨_, rfl⟩
        · split
          · split <;> exact ⟨_, rfl⟩
          · split
            · exact ⟨_, rfl⟩
            · split <;> exact ⟨_, rfl⟩

/-- The unit of an issue written back as it stands. -/
theorem State.due_id (s : State) (uid : Nat) : (s.due uid).modUnit uid id = s.due uid := by
  unfold State.due State.modUnit State.setUnit
  have : ((s.units.set uid (Unit.retire (s.unit uid))).set uid (Unit.retire (s.unit uid))) =
      s.units.set uid (Unit.retire (s.unit uid)) := SMap.set_set _ _ _ _
  simp only [id, State.unit, SMap.get_set_same, Option.getD_some]
  congr 1

/-! ### Settling -/

/-- The frontier after an issue of which no lane faults. -/
def settledFrontier (u : Unit) (x : Issue) (outs : List (Nat × LaneOut)) : List Entry :=
  (issueEntries x outs (lanesOf x.mask)).foldl addEntry (takeLanes u.frontier (x.mask &&& ~~~maskOf []))

/-- Settling an issue of which no lane faults changes its unit alone. -/
theorem State.settle_eq {s : State} {x : Issue} {outs : List (Nat × LaneOut)}
    (hf : ∀ l ∈ lanesOf x.mask, (outOf outs l).faults = false) :
    s.settle x false outs =
      s.setUnit x.uid { idleLanes (s.unit x.uid) outs (lanesOf x.mask) with
        frontier := settledFrontier (s.unit x.uid) x outs } := by
  have ht : ((lanesOf x.mask).filter fun l => (outOf outs l).faults) = [] := by
    rw [List.filter_eq_nil_iff]
    intro l hl
    simp [hf l hl]
  unfold State.settle settledFrontier
  simp only [ht, List.foldl_nil, Bool.false_eq_true, if_false]

theorem outOf_nil (l : Nat) : outOf [] l = .next := rfl

theorem idleLanes_none {outs : List (Nat × LaneOut)} (ls : List Nat) (u : Unit)
    (hi : ∀ l ∈ ls, ∀ st, outOf outs l ≠ .idle st) : idleLanes u outs ls = u := by
  unfold idleLanes
  induction ls generalizing u with
  | nil => rfl
  | cons k ks ih =>
    rw [List.foldl_cons]
    have hk := hi k List.mem_cons_self
    have : idleLane outs u k = u := by
      unfold idleLane
      cases h : outOf outs k <;> simp_all
    rw [this]
    exact ih u fun l hl => hi l (List.mem_cons_of_mem _ hl)

/-- Settling an issue whose lanes all go on. -/
theorem State.settle_next (s : State) (x : Issue) :
    s.settle x false [] = s.setUnit x.uid { s.unit x.uid with frontier := settledFrontier (s.unit x.uid) x [] } := by
  rw [State.settle_eq fun l _ => rfl, idleLanes_none _ _ fun l _ st => by simp [outOf_nil]]

theorem hasLane_maskNil (m : LMask) (l : Nat) : hasLane (m &&& ~~~maskOf []) l = hasLane m l := by
  rw [hasLane_diff]; simp [maskOf, hasLane_zero]

/-- Where an issue's lanes stand once it is settled. -/
theorem standsIn_settled (u : Unit) (x : Issue) (outs : List (Nat × LaneOut)) (l : Nat) (hl : hasLane x.mask l = true)
    {pc : W64} {prio : BitVec 2} {blk : Option Wait} (ht : (outOf outs l).target x = some (pc, prio, blk)) :
    standsIn (settledFrontier u x outs) l pc prio blk := by
  have h64 := hasLane_lt hl
  obtain ⟨h1, h2⟩ := (issueEntries_spec x outs (lanesOf x.mask) l).1 pc prio blk ((mem_lanesOf h64).2 hl) h64 ht
  exact standsIn_foldl_new h1 h2 (absent_takeLanes _ _ _ (by rw [hasLane_maskNil]; exact hl))

/-- Where the other lanes stand once an issue is settled. -/
theorem standsIn_settled_other (u : Unit) (x : Issue) (outs : List (Nat × LaneOut)) (l : Nat) (hl : hasLane x.mask l = false)
    {pc : W64} {prio : BitVec 2} {blk : Option Wait} (hs : u.stands l pc prio blk) :
    standsIn (settledFrontier u x outs) l pc prio blk := by
  refine standsIn_foldl_old ((issueEntries_spec x outs (lanesOf x.mask) l).2 (.inl ?_))
    (standsIn_takeLanes (by rw [hasLane_maskNil]; exact hl) hs)
  intro hm
  rw [mem_lanesOf (lanesOf_lt hm), hl] at hm
  simp at hm

/-- A lane that leaves the frontier is in no entry once its issue is settled. -/
theorem absent_settled (u : Unit) (x : Issue) (outs : List (Nat × LaneOut)) (l : Nat) (hl : hasLane x.mask l = true)
    (ht : (outOf outs l).target x = none) : absent (settledFrontier u x outs) l :=
  absent_foldl ((issueEntries_spec x outs (lanesOf x.mask) l).2 (.inr ht))
    (absent_takeLanes _ _ _ (by rw [hasLane_maskNil]; exact hl))

/-! ### Counting -/

@[simp] theorem State.shared_setUnit (s : State) (k : Nat) (u : Unit) : (s.setUnit k u).shared = s.shared := rfl
@[simp] theorem State.shared_modUnit (s : State) (k : Nat) (f : Unit → Unit) : (s.modUnit k f).shared = s.shared := rfl
@[simp] theorem State.shared_modCore (s : State) (k : Nat) (f : Core → Core) : (s.modCore k f).shared = s.shared := rfl
@[simp] theorem State.shared_modTask (s : State) (k : Nat) (f : Task → Task) : (s.modTask k f).shared = s.shared := rfl

theorem State.shared_counted (s : State) (x : Issue) (n : BitVec 4) : (s.counted x n).shared = s.shared := rfl

theorem State.unit_counted_other (s : State) (x : Issue) (n : BitVec 4) (k : Nat) (h : k ≠ x.uid) :
    (s.counted x n).unit k = s.unit k := by
  unfold State.counted
  exact State.unit_setUnit_other s x.uid k _ h

/-- The unit of an issue once it is counted. -/
theorem State.unit_counted (s : State) (x : Issue) (n : BitVec 4) :
    (s.counted x n).unit x.uid =
      { s.unit x.uid with
        nominal := (s.unit x.uid).nominal + 1 + n.toNat, frontier := ageOthers (s.unit x.uid).frontier x.mask,
        lastIssue := s.clock, replays := 0, lastRelease := some (s.core (s.unit x.uid).core).cyc } := by
  unfold State.counted
  exact State.unit_setUnit_same s x.uid _

theorem State.core_counted (s : State) (x : Issue) (n : BitVec 4) (c : Nat) :
    ((s.counted x n).core c).still = (s.core c).still := by
  unfold State.counted
  by_cases h : c = (s.unit x.uid).core
  · subst h; simp [State.core, State.modTask, State.setTask, State.modCore, State.setCore, State.setUnit, Core.still]
  · simp [State.core, State.modTask, State.setTask, State.modCore, State.setCore, State.setUnit, Core.still,
      SMap.get_set_other _ _ _ _ h]

theorem State.task_counted (s : State) (x : Issue) (n : BitVec 4) (k : Nat) :
    ((s.counted x n).task k).still = (s.task k).still := by
  unfold State.counted
  by_cases h : k = (s.unit x.uid).task
  · subst h; simp [State.task, State.modTask, State.setTask, State.modCore, State.setCore, State.setUnit, Task.still]
  · simp [State.task, State.modTask, State.setTask, State.modCore, State.setCore, State.setUnit, Task.still,
      SMap.get_set_other _ _ _ _ h]

/-! ### Bytes -/

/-- A core reads its bytes of memory from its L1, DRAM and the host's memory. -/
theorem State.viewByte_congr {s t : State} (hm : t.shared = s.shared) (core a : Nat)
    (hc : (t.core core).still = (s.core core).still) : t.viewByte core a = s.viewByte core a := by
  have h1 : (t.core core).l1 = (s.core core).l1 := by
    have := congrArg Core.l1 hc; exact this
  have h2 : t.homeByte a = s.homeByte a := by
    have e1 : t.mem = s.mem := (congrArg State.mem hm :)
    have e2 : t.hostMem = s.hostMem := (congrArg State.hostMem hm :)
    simp [State.homeByte, e1, e2]
  simp [State.viewByte, h1, h2]

/-- The frame of an issue whose body leaves everything but its unit alone. -/
theorem frame_of_still {s t : State} {uid : Nat} (hsh : t.shared = s.shared) (hu : ∀ k, k ≠ uid → t.unit k = s.unit k)
    (hus : (t.unit uid).still = (s.unit uid).still) (hc : ∀ c, (t.core c).still = (s.core c).still)
    (ht : ∀ k, (t.task k).still = (s.task k).still) : Leaves s t uid where
  bytes core a := State.viewByte_congr hsh core a (hc core)
  spads k a := by
    have : (t.task k).spad = (s.task k).spad := (congrArg Task.spad (ht k) :)
    rw [this]
  shared := hsh
  units := hu
  unit := hus
  cores := hc
  tasks := ht

/-! ### Computing instructions -/

/-- An issue that goes ahead, whose body only changes the buffer and the registers of its unit and sends no lane elsewhere: its lanes
go on, and nothing else happens. -/
theorem runIssue_unit {s : State} {h : Hdr} {i : Instr} {uid : Nat} {e : Entry} (hi : Issues s h i uid e)
    (body : Issue → State → Res) (f : Unit → Unit)
    (hb : body (s.issueAt h i uid e) (s.due uid) = .done ((s.due uid).modUnit uid f) [])
    (hfr : (f (s.dueUnit uid)).frontier = (s.dueUnit uid).frontier) :
    ∃ t, runIssue h i body s = .next t ∧ GoesOn (s.dueUnit uid) (t.unit uid) e (lenBytes i.toRaw.len) ∧
      (t.unit uid).late = (f (s.dueUnit uid)).late ∧ (t.unit uid).vregs = (f (s.dueUnit uid)).vregs ∧
      (t.unit uid).sregs = (f (s.dueUnit uid)).sregs ∧ (t.unit uid).preds = (f (s.dueUnit uid)).preds ∧
      (t.unit uid).still = (f (s.dueUnit uid)).still ∧
      ((f (s.dueUnit uid)).still = (s.dueUnit uid).still → Leaves (s.due uid) t uid) := by
  have hrun := runIssueThen_done hi body (fun _ t => t) hb
  set x := s.issueAt h i uid e with hx
  have hxu : x.uid = uid := rfl
  set s1 := (s.due uid).modUnit uid f with hs1
  have hs1u : s1.unit uid = f (s.dueUnit uid) := by rw [hs1, State.unit_modUnit_same]; rfl
  have hset := State.settle_next s1 x
  rw [hxu, hs1u] at hset
  set u2 : Unit := { f (s.dueUnit uid) with frontier := settledFrontier (f (s.dueUnit uid)) x [] } with hu2
  have hsu : (s1.settle x false []).unit uid = u2 := by rw [hset, State.unit_setUnit_same]
  refine ⟨_, hrun, ?_, ?_, ?_, ?_, ?_, ?_, fun hst => ?_⟩
  · refine ⟨fun l hl => ?_, fun l pc prio blk hl hs => ?_⟩
    · rw [Unit.stands_iff]
      have := State.unit_counted (s1.settle x false []) x h.stall
      rw [hxu, hsu] at this
      rw [this]
      refine standsIn_ageOthers ?_
      exact standsIn_settled _ x [] l hl rfl
    · rw [Unit.stands_iff]
      have := State.unit_counted (s1.settle x false []) x h.stall
      rw [hxu, hsu] at this
      rw [this]
      refine standsIn_ageOthers (standsIn_settled_other _ x [] l hl ?_)
      rw [Unit.stands_iff, hfr]; exact hs
  all_goals
    have hcu := State.unit_counted (s1.settle x false []) x h.stall
    rw [hxu, hsu] at hcu
  · rw [hcu]
  · rw [hcu]
  · rw [hcu]
  · rw [hcu]
  · rw [hcu]; rfl
  · refine frame_of_still ?_ ?_ ?_ ?_ ?_
    · rw [State.shared_counted, hset, State.shared_setUnit, hs1, State.shared_modUnit]
    · intro k hk
      rw [State.unit_counted_other _ _ _ _ (by rw [hxu]; exact hk), hset, State.unit_setUnit_other _ _ _ _ hk, hs1,
        State.unit_modUnit_other _ _ _ _ hk]
    · rw [hcu, State.due_unit, ← hst]; rfl
    · intro c
      rw [State.core_counted, hset, hs1]; rfl
    · intro k
      rw [State.task_counted, hset, hs1]; rfl

/-- A computing instruction: it completes, its destination receives its result, and nothing else changes (R65, R76, R178, R180). -/
theorem runIssue_compute {s : State} {h : Hdr} {i : Instr} {uid : Nat} {e : Entry} (hi : Issues s h i uid e)
    (body : Issue → State → Res) (lat : Nat) (d : Reg) (f : Unit → Nat → W64)
    (hb : body (s.issueAt h i uid e) (s.due uid) = compute lat d f (s.issueAt h i uid e) (s.due uid)) :
    ∃ t, runIssue h i body s = .next t ∧ RegResult (s.dueUnit uid) (t.unit uid) lat d (s.activeOf h uid e) (f (s.dueUnit uid)) ∧
      GoesOn (s.dueUnit uid) (t.unit uid) e (lenBytes i.toRaw.len) ∧ Leaves (s.due uid) t uid := by
  have hw (u : Unit) (vs : List (Nat × W64)) : (u.writeLate lat (.r d) vs).still = u.still ∧
      (u.writeLate lat (.r d) vs).frontier = u.frontier := by
    unfold Unit.writeLate; split <;> exact ⟨rfl, rfl⟩
  obtain ⟨t, h1, h2, h3, h4, h5, h6, -, h8⟩ := runIssue_unit hi body
    (fun u => u.writeLate lat (.r d) (resultVals d (s.activeOf h uid e) (f u))) (by rw [hb]; rfl) (hw _ _).2
  refine ⟨t, h1, ?_, h2, h8 (hw _ _).1⟩
  obtain ⟨r1, r2, r3, r4⟩ := Unit.writeLate_reg (s.dueUnit uid) lat d (s.activeOf h uid e) (f (s.dueUnit uid))
  exact ⟨fun n l r hn hl hr => (Unit.regAt_congr h3 h4 h5 n d l).trans (r1 n l r hn hl hr),
    fun n l hl hr => (Unit.regAt_congr h3 h4 h5 n d l).trans (r2 n l hl hr),
    fun n r l hl hr => (Unit.regAt_congr h3 h4 h5 n r l).trans (r3 n r l hl hr),
    fun n p l => (Unit.predAt_congr h3 h6 n p l).trans (r4 n p l)⟩

/-- An instruction that computes a predicate (R65, R76, R180). -/
theorem runIssue_computePred {s : State} {h : Hdr} {i : Instr} {uid : Nat} {e : Entry} (hi : Issues s h i uid e)
    (body : Issue → State → Res) (lat : Nat) (p : Pred) (f : Unit → Nat → Bool)
    (hb : body (s.issueAt h i uid e) (s.due uid) = computePred lat p f (s.issueAt h i uid e) (s.due uid)) :
    ∃ t, runIssue h i body s = .next t ∧ PredResult (s.dueUnit uid) (t.unit uid) lat p (s.activeOf h uid e) (f (s.dueUnit uid)) ∧
      GoesOn (s.dueUnit uid) (t.unit uid) e (lenBytes i.toRaw.len) ∧ Leaves (s.due uid) t uid := by
  have hw (u : Unit) (vs : List (Nat × W64)) : (u.writeLate lat (.p p) vs).still = u.still ∧
      (u.writeLate lat (.p p) vs).frontier = u.frontier := by
    unfold Unit.writeLate; split <;> exact ⟨rfl, rfl⟩
  obtain ⟨t, h1, h2, h3, h4, h5, h6, -, h8⟩ := runIssue_unit hi body
    (fun u => u.writeLate lat (.p p) (predVals (s.activeOf h uid e) (f u))) (by rw [hb]; rfl) (hw _ _).2
  refine ⟨t, h1, ?_, h2, h8 (hw _ _).1⟩
  obtain ⟨r1, r2, r3, r4⟩ := Unit.writeLate_pred (s.dueUnit uid) lat p (s.activeOf h uid e) (f (s.dueUnit uid))
  exact ⟨fun n l hn hp hl => (Unit.predAt_congr h3 h6 n p l).trans (r1 n l hn hp hl),
    fun n l hl => (Unit.predAt_congr h3 h6 n _ l).trans (r2 n l hl),
    fun n q l hl hq => (Unit.predAt_congr h3 h6 n q l).trans (r3 n q l hl hq),
    fun n r l => (Unit.regAt_congr h3 h4 h5 n r l).trans (r4 n r l)⟩

/-! ### Outcomes by lane -/

/-- The outcome of a lane where outcomes are given lane by lane. -/
theorem outOf_map (ls : List Nat) (f : Nat → LaneOut) (l : Nat) :
    outOf (ls.map fun k => (k, f k)) l = if l ∈ ls then f l else .next := by
  unfold outOf
  induction ls with
  | nil => rfl
  | cons k ks ih =>
    by_cases e : k = l
    · subst e; simp
    · have : l ≠ k := fun h => e h.symm
      rw [List.map_cons, List.find?_cons_of_neg (by simpa using e)]
      simp only [List.mem_cons, this, false_or]
      exact ih

/-- An issue that goes ahead, whose body leaves the state and sends lanes elsewhere or blocks them, with no lane trapping or leaving. -/
theorem runIssueThen_move {s : State} {h : Hdr} {i : Instr} {uid : Nat} {e : Entry} (hi : Issues s h i uid e)
    (body : Issue → State → Res) (f : Unit → Unit) (outs : List (Nat × LaneOut))
    (hb : body (s.issueAt h i uid e) (s.due uid) = .done ((s.due uid).modUnit uid f) outs)
    (hfr : (f (s.dueUnit uid)).frontier = (s.dueUnit uid).frontier)
    (hf : ∀ l, hasLane e.mask l = true → (outOf outs l).faults = false)
    (hid : ∀ l, hasLane e.mask l = true → ∀ st, outOf outs l ≠ .idle st) :
    ∃ t, runIssueThen h i body (fun _ t => t) s = .next t ∧
      (∀ l pc prio blk, hasLane e.mask l = true → (outOf outs l).target (s.issueAt h i uid e) = some (pc, prio, blk) →
        (t.unit uid).stands l pc prio blk) ∧ (s.dueUnit uid).othersStand (t.unit uid) e.mask ∧
      (t.unit uid).late = (f (s.dueUnit uid)).late ∧ (t.unit uid).vregs = (f (s.dueUnit uid)).vregs ∧
      (t.unit uid).sregs = (f (s.dueUnit uid)).sregs ∧ (t.unit uid).preds = (f (s.dueUnit uid)).preds ∧
      (t.unit uid).still = (f (s.dueUnit uid)).still ∧ (t.unit uid).nominal = (f (s.dueUnit uid)).nominal + 1 + h.stall.toNat ∧
      ((f (s.dueUnit uid)).still = (s.dueUnit uid).still → Leaves (s.due uid) t uid) := by
  have hrun := runIssueThen_done hi body (fun _ t => t) hb
  set x := s.issueAt h i uid e with hx
  have hxu : x.uid = uid := rfl
  have hxm : x.mask = e.mask := rfl
  set s1 := (s.due uid).modUnit uid f with hs1
  have hs1u : s1.unit uid = f (s.dueUnit uid) := by rw [hs1, State.unit_modUnit_same]; rfl
  have hlm (l : Nat) (hl : l ∈ lanesOf x.mask) : hasLane e.mask l = true := (mem_lanesOf (lanesOf_lt hl)).1 hl
  have hset := State.settle_eq (s := s1) (x := x) (outs := outs) fun l hl => hf l (hlm l hl)
  rw [hxu, hs1u, idleLanes_none _ _ fun l hl => hid l (hlm l hl)] at hset
  set u2 : Unit := { f (s.dueUnit uid) with frontier := settledFrontier (f (s.dueUnit uid)) x outs } with hu2
  have hsu : (s1.settle x false outs).unit uid = u2 := by rw [hset, State.unit_setUnit_same]
  have hcu := State.unit_counted (s1.settle x false outs) x h.stall
  rw [hxu, hsu] at hcu
  refine ⟨_, hrun, fun l pc prio blk hl ht => ?_, fun l pc prio blk hl hs => ?_, ?_, ?_, ?_, ?_, ?_, ?_, fun hst => ?_⟩
  · rw [Unit.stands_iff, hcu]
    exact standsIn_ageOthers (standsIn_settled _ x outs l (by rw [hxm]; exact hl) ht)
  · rw [Unit.stands_iff, hcu]
    refine standsIn_ageOthers (standsIn_settled_other _ x outs l (by rw [hxm]; exact hl) ?_)
    rw [Unit.stands_iff, hfr]; exact hs
  · rw [hcu]
  · rw [hcu]
  · rw [hcu]
  · rw [hcu]
  · rw [hcu]; rfl
  · rw [hcu]
  · refine frame_of_still ?_ ?_ ?_ ?_ ?_
    · rw [State.shared_counted, hset, State.shared_setUnit, hs1, State.shared_modUnit]
    · intro k hk
      rw [State.unit_counted_other _ _ _ _ (by rw [hxu]; exact hk), hset, State.unit_setUnit_other _ _ _ _ hk, hs1,
        State.unit_modUnit_other _ _ _ _ hk]
    · rw [hcu, State.due_unit, ← hst]; rfl
    · intro c
      rw [State.core_counted, hset, hs1]; rfl
    · intro k
      rw [State.task_counted, hset, hs1]; rfl

theorem active_sub (s : State) (h : Hdr) (uid : Nat) (e : Entry) (l : Nat) (hl : hasLane (s.activeOf h uid e) l = true) :
    hasLane e.mask l = true := by
  simp only [State.activeOf, Unit.active, hasLane, BitVec.getLsbD_and, Bool.and_eq_true] at hl
  exact hl.1

theorem noResult_of_eq {u v : Unit} (hl : v.late = u.late) (hv : v.vregs = u.vregs) (hs : v.sregs = u.sregs)
    (hp : v.preds = u.preds) : NoResult u v :=
  ⟨Unit.predAt_congr hl hp, Unit.regAt_congr hl hv hs⟩

/-- A branch: the lanes of Active go to their targets, the others fall through, and nothing else happens (R157, R205). -/
theorem runIssue_jump {s : State} {h : Hdr} {i : Instr} {uid : Nat} {e : Entry} (hi : Issues s h i uid e)
    (body : Issue → State → Res) (bp : BitVec 2) (target : Nat → W64)
    (hb : body (s.issueAt h i uid e) (s.due uid) = .done (s.due uid) (jumpAll (s.issueAt h i uid e) bp target)) :
    ∃ t, runIssue h i body s = .next t ∧
      Branches (s.dueUnit uid) (t.unit uid) e (s.activeOf h uid e) (lenBytes i.toRaw.len) bp target ∧
      NoResult (s.dueUnit uid) (t.unit uid) ∧ Leaves (s.due uid) t uid := by
  have ho (l : Nat) : outOf (jumpAll (s.issueAt h i uid e) bp target) l =
      if l ∈ lanesOf (s.activeOf h uid e) then .jump (target l) bp else .next := outOf_map _ _ l
  have hb' : body (s.issueAt h i uid e) (s.due uid) =
      .done ((s.due uid).modUnit uid id) (jumpAll (s.issueAt h i uid e) bp target) := by
    rw [hb, State.due_id]
  obtain ⟨t, h1, h2, h3, h4, h5, h6, h7, -, -, h8⟩ := runIssueThen_move hi body id _ hb' rfl
    (fun l _ => by rw [ho]; split <;> rfl) (fun l _ st => by rw [ho]; split <;> simp)
  refine ⟨t, h1, ⟨fun l hl => ?_, fun l hl hn => ?_, h3⟩, noResult_of_eq h4 h5 h6 h7, h8 rfl⟩
  · refine h2 l _ _ _ (active_sub s h uid e l hl) ?_
    rw [ho, if_pos ((mem_lanesOf (hasLane_lt hl)).2 hl)]; rfl
  · refine h2 l _ _ _ hl ?_
    rw [ho, if_neg fun hm => by rw [mem_lanesOf (lanesOf_lt hm), hn] at hm; simp at hm]; rfl

end Sys2Proof.Machine
end

