-- ==== Sys2Proof/Tests/Slice0.lean ====
section
/-! SUPPORT. The model's own tests: words written out from the manual's encodings with the instructions that they stand for, a witness for the
hypotheses of each statement, terms that are not well formed, and worked examples of the manual. -/

namespace Sys2Proof.Tests

set_option Elab.async false

open Sys2Proof Sys2Proof.Machine

/-! ### Words -/

/-- The bytes of an instruction from the fields of the manual's table of the base word (R64): no stall, no predicate prefix; the bits from
[64] on are `ext`. -/
def fields (len opc dst sa sb sc bp mod ext : Nat) : List Byte :=
  leBytes (lenBytes (BitVec.ofNat 2 len)) (len + 2 ^ 6 * opc + 2 ^ 14 * 7 + 2 ^ 18 * dst + 2 ^ 26 * sa + 2 ^ 34 * sb + 2 ^ 42 * sc + 2 ^ 50 * bp
    + 2 ^ 52 * mod + 2 ^ 64 * ext)

/-- A 64-bit word. -/
def f64 (opc dst sa sb sc mod : Nat) : List Byte := fields 0 opc dst sa sb sc 0 mod 0

/-- A 96-bit word with IMM32 (R69). -/
def f96 (opc dst sa sb sc mod imm : Nat) : List Byte := fields 1 opc dst sa sb sc 0 mod imm

/-- A 128-bit word with an extended word (R70). -/
def f128 (opc dst sa sb sc mod xta xtb xrg xq xh xab ximm : Nat) : List Byte :=
  fields 2 opc dst sa sb sc 0 mod (2 ^ 58 * xta + 2 ^ 52 * xtb + 2 ^ 48 * xrg + 2 ^ 45 * xq + 2 ^ 40 * xh + 2 ^ 34 * xab + ximm)

/-- The header of these words. -/
def h : Hdr := { stall := 0#4, pred := 7#3, pneg := false }

/-- R182 to R184. -/
def arithmetic : List (List Byte × Instr) :=
  [(f64 0x00 0 0 0 0 0, .nop h), (f64 0x02 5 0xC4 0 0 0, .mov h (.v 5) (.s 4)), (f96 0x03 0xC7 0 0 0 1 0x12345678, .movi h true (.s 7) 0x12345678#32),
    (f96 0x03 0xC7 0 0 0 2 0x9ABCDEF0, .moviHi h (.s 7) 0x9ABCDEF0#32), (f64 0x04 5 3 0xC4 0 3, .add h true true (.v 5) (.v 3) (.reg (.s 4))),
    (f64 0x05 5 3 0 0xFE 0x802, .sub h false true (.v 5) (.v 3) (.imm8 0xFE#8)), (f96 0x06 0xC1 0xC2 0 0 1 0xFFFFFFFF, .mul h true false (.s 1) (.s 2) (.imm32 0xFFFFFFFF#32)),
    (f64 0x07 1 2 3 0 1, .mulh h true (.v 1) (.v 2) (.reg (.v 3))), (f64 0x08 6 2 3 4 2, .mad h false true (.v 6) (.v 2) (.v 3) (.v 4)),
    (f64 0x09 6 2 3 9 0, .lea h (.v 6) (.v 2) (.v 3) 9#8), (f64 0x0A 6 2 3 0 0, .min h false (.v 6) (.v 2) (.reg (.v 3))),
    (f64 0x0B 6 2 0 0x80 0x801, .max h true (.v 6) (.v 2) (.imm8 0x80#8)), (f64 0x0C 6 2 0 0 2, .abs h true (.v 6) (.v 2)),
    (f64 0x0D 0xC6 0xC2 0 0 0, .neg h false (.s 6) (.s 2)), (f64 0x0E 5 5 0 8 1, .sat h true (.v 5) (.v 5) 8#8)]

/-- R185 to R189. -/
def logic : List (List Byte × Instr) :=
  [(f64 0x10 1 2 3 0 0, .and h (.v 1) (.v 2) (.reg (.v 3))), (f64 0x11 1 2 0xC3 0 0, .or h (.v 1) (.v 2) (.reg (.s 3))),
    (f96 0x12 0xC1 0xC2 0 0 0 0x80000000, .xor h (.s 1) (.s 2) (.imm32 0x80000000#32)), (f64 0x13 1 2 0 0x0F 0x800, .andn h (.v 1) (.v 2) (.imm8 0x0F#8)),
    (f64 0x14 1 2 0 0 0, .not h (.v 1) (.v 2)), (f64 0x15 4 4 0 0xFF 0x800, .shl h (.v 4) (.v 4) (.imm8 0xFF#8)),
    (f64 0x16 1 2 3 0 0, .shr h (.v 1) (.v 2) (.reg (.v 3))), (f64 0x17 1 2 3 0 0, .sha h (.v 1) (.v 2) (.reg (.v 3))),
    (f64 0x18 1 2 0 31 0x800, .rot h (.v 1) (.v 2) (.imm8 31#8)), (f64 0x19 1 2 0 0 0, .clz h (.v 1) (.v 2)), (f64 0x1A 0xC1 0xC2 0 0 0, .popc h (.s 1) (.s 2)),
    (f64 0x1B 1 0xC2 0 0 0, .brev h (.v 1) (.s 2)), (f64 0x1C 4 2 3 0 1, .bfx h true (.v 4) (.v 2) (.v 3)), (f64 0x1D 4 2 3 5 0, .bfi h (.v 4) (.v 2) (.v 3) (.v 5)),
    (f64 0x1E 6 2 2 0xC7 0, .bytx h (.v 6) (.v 2) (.v 2) (.s 7)), (f64 0x1F 6 2 3 5 0, .sel h (.v 6) (.v 2) (.v 3) 5#8)]

/-- R190 to R194, R236 and R237. -/
def lanes : List (List Byte × Instr) :=
  [(f64 0x20 1 4 0 10 0x809, .cmp h .lt true 1#3 (.v 4) (.imm8 10#8)), (f64 0x21 1 7 6 0 3, .pset h 1#3 (.bin .andn 7#3 6#3)), (f64 0x21 2 0xC9 0 0 4, .pset h 2#3 (.mask (.s 9))),
    (f64 0x22 3 2 0 2 0x802, .shfl h .down (.v 3) (.v 2) (.imm8 2#8)), (f64 0x23 0xC8 1 0 0 0, .vote h .ballot 0xC8#8 1#8), (f64 0x23 5 1 0 0 3, .vote h .eq 5#8 1#8),
    (f64 0x24 0xC8 1 0 0 0x028, .rduc h .fadd .rz false (.s 8) (.v 1)), (f64 0x25 4 1 0 0 0x091, .scan h .min .rn true true (.v 4) (.v 1)),
    (f64 0x26 4 0 0 0x0A 1, .mfs h true (.v 4) 0x0A#8), (f64 0x27 0 0xC5 0 0x0B 0, .mts h false (.s 5) 0x0B#8)]

/-- R195 to R200. -/
def floating : List (List Byte × Instr) :=
  [(f64 0x40 1 2 3 0 1, .fadd h .rz (.v 1) (.v 2) (.reg (.v 3))), (f96 0x41 1 2 0 0 0 0x3F800000, .fsub h .rn (.v 1) (.v 2) (.imm32 0x3F800000#32)),
    (f64 0x42 1 2 3 0 2, .fmul h .ru (.v 1) (.v 2) (.reg (.v 3))), (f64 0x43 1 2 3 4 3, .ffma h .rd (.v 1) (.v 2) (.v 3) (.v 4)),
    (f64 0x44 1 2 3 0 0, .fmin h (.v 1) (.v 2) (.reg (.v 3))), (f64 0x45 1 2 0xC3 0 0, .fmax h (.v 1) (.v 2) (.reg (.s 3))),
    (f64 0x46 4 2 3 0 0x018, .fcmp h .num 4#3 (.v 2) (.reg (.v 3))), (f64 0x47 3 6 0 0x81 0, .fcls h 3#3 (.v 6) 0x81#8), (f64 0x48 1 2 0 0 1, .frnd h .rz (.v 1) (.v 2)),
    (f64 0x49 1 2 0 0x6A 0x800, .fscl h .rn (.v 1) (.v 2) (.imm8 0x6A#8)), (f64 0x4A 1 2 0 0 0, .frcp h .rn (.v 1) (.v 2)), (f64 0x4B 1 2 0 0 0, .fsqrt h .rn (.v 1) (.v 2)),
    (f64 0x4C 1 2 0 0 0, .frsq h .rn (.v 1) (.v 2)), (f64 0x4D 1 2 0 0 0, .fexp2 h (.v 1) (.v 2)), (f64 0x4E 1 2 0 0 0, .flog2 h (.v 1) (.v 2)),
    (f64 0x4F 0xC1 0xC2 0xC3 0 0, .fdiv h .rn (.s 1) (.s 2) (.reg (.s 3)))]

/-- R201 to R204. -/
def packed : List (List Byte × Instr) :=
  [(f64 0x50 5 2 3 0 0x004, .hxadd h .rn .bswap (.v 5) (.v 2) (.v 3)), (f64 0x51 5 2 3 0 0x001, .hxmul h .rz .none (.v 5) (.v 2) (.v 3)),
    (f64 0x52 5 2 3 4 0x008, .hxfma h .rn .blo (.v 5) (.v 2) (.v 3) (.v 4)), (f64 0x53 6 2 3 0 0x010, .bxadd h .rn .bneg (.v 6) (.v 2) (.v 3)),
    (f64 0x54 6 2 3 0 0x00C, .bxmul h .rn .bhi (.v 6) (.v 2) (.v 3)), (f64 0x55 6 2 3 4 0, .bxfma h .rn .none (.v 6) (.v 2) (.v 3) (.v 4)),
    (f64 0x56 4 2 0 0 0x445, .cvt h .s8 .s32 .rn true false (.v 4) (.v 2)), (f64 0x57 8 4 5 8 0x042, .pack h .e4m3 .rn false false true (.v 8) (.v 4) (.v 5) (.v 8)),
    (f64 0x58 4 2 0 7 5, .unpk h .s4 (.v 4) (.v 2) 7#8)]

/-- R205 to R213. -/
def control : List (List Byte × Instr) :=
  [(fields 0 0x70 0 0xF0 0xFF 0xFF 1 0 0, .bra h 1#2 0xFFFFF0#24), (fields 0 0x71 0 0xC2 0 0 2 0 0, .jmp h 2#2 (.s 2)),
    (fields 0 0x71 0 0xC2 3 0 0 1 0, .jmpIndexed h 0#2 (.s 2) (.v 3)), (fields 0 0x72 0xC8 4 0 0 1 0 0, .call h 1#2 (.s 8) 4#24),
    (fields 0 0x72 6 0xC2 0 0 1 1 0, .callR h 1#2 (.v 6) (.s 2)), (fields 0 0x73 0 6 0 0 3 0 0, .ret h 3#2 (.v 6)), (f64 0x74 0 0 0 9 0, .brk h 9#8),
    (f64 0x75 6 0xC6 0x0A 4 0x010, .rfli h (.range 6) { plen := 6#8, blen := 10#12, tlen := 4#8, dlen := 8#7 }),
    (f64 0x75 2 3 0 2 0x101, .rfliOrd h (.queue 3#3) { plen := 2#8, blen := 256#12, tlen := 2#8, dlen := 0#7 }),
    (fields 0 0x76 0 0 0 0 3 0 0, .rfl h 3#2), (fields 0 0x76 0 0 0 0 1 1 0, .rflOrd h 1#2), (f64 0x77 0 0 0 0 0, .syng h)]

/-- R215 to R234. -/
def memory : List (List Byte × Instr) :=
  [(f64 0x80 6 0xC4 0 0xF8 5, .ld h .b64 (.v 6) (.s 4) none (.d8 0xF8#8)), (f64 0x81 5 0xC4 1 8 8, .st h .b32 (.v 5) (.s 4) (some (.v 1)) (.d8 8#8)),
    (f96 0x82 6 9 0 0 1 0x100, .lds h .s8 (.v 6) (.v 9) none (.d32 0x100#32)), (f64 0x83 5 9 0 0 0, .sts h .b32 (.v 5) (.v 9) none (.d8 0#8)),
    (f128 0x84 7 2 0 0 0 5 0 0 0 0 0 64, .ldt h .b32 (.v 7) (.v 2) 5#6 64#32), (f128 0x85 7 2 0 0 3 5 0 0 0 0 0 2, .stt h .s16 (.v 7) (.v 2) 5#6 2#32),
    (f64 0x86 0xC4 0xC3 0xC0 0 0x200, .atom h .add false false true false (.s 4) (.s 3) (.s 0) (.d8 0#8)),
    (f64 0x86 0xC4 0xC3 0xC0 0 0x195, .atom h .min true true false true (.s 4) (.s 3) (.s 0) (.d8 0#8)),
    (f64 0x87 5 0xC3 6 4 0x020, .atomf h .fmax false false (.v 5) (.s 3) (.v 6) (.d8 4#8)), (f64 0x88 6 0xC3 8 0 0x105, .cas h true false true (.v 6) (.s 3) (.v 8) (.d8 0#8)),
    (f64 0x89 0 0xC3 0 0x80 0x010, .pref h true (.s 3) none (.d8 0x80#8)), (f64 0x8A 4 0 0xC5 3 1, .qpop h (.v 4) 3#3 (some (.s 5))),
    (f64 0x8B 0 4 0 3 2, .qpush h true (.v 4) 3#3 none), (f64 0x8C 0xC4 0 0 7 0, .qsta h (.s 4) 7#3)]

/-- R139 to R146, R239 to R241. -/
def tasks : List (List Byte × Instr) :=
  [(f64 0xA0 0 0xC8 9 0 0, .spawn h (.s 8) (.v 9)), (f64 0xA0 0 0xC8 0xC9 0 1, .spawnU h (.s 8) (.s 9)), (f64 0xA1 0 0 0 0 0, .await h), (f64 0xA2 0 0 0 0 0, .exit h),
    (f64 0xA2 0 0xCA 0xCB 0 1, .exitS h (.s 10) (.s 11)), (f64 0xA3 0 0xCA 0xCB 0 0, .exitJ h (.s 10) (.s 11)), (f64 0xA4 0xC5 0 0 96 0, .rgrow h (.s 5) 96#8),
    (f64 0xA5 0 0 0 48 0, .rshrk h 48#8), (f64 0xA6 0 0 0 0 0, .yield h), (f64 0xB0 0 0xC1 0 0x41 2, .trap h 0x41#8 (some (.s 1))), (f64 0xB0 0 0 0 0 1, .trapK h 0#8 none),
    (f64 0xB1 0 0 0 0 0, .tret h), (f64 0xB1 0 0 0 0 1, .tretSkip h), (f64 0xB2 0 7 0 5 1, .tmark h 5#8 (some (.v 7)))]

/-- R300 to R315. -/
def access : List (List Byte × Instr) :=
  [(f64 0xC0 0xC4 0xC6 0 0x10 0x20D, .ald h .b64 (.s 4) 2#4 (some (.s 6)) (.d8 0x10#8)), (f96 0xC1 0xC4 0 0 0 0x300 0x200, .ast h .b32 (.s 4) 3#4 none (.d32 0x200#32)),
    (f64 0xCB 0 0 0 0x40 0x110, .aprf h true 1#4 none (.d8 0x40#8)), (f64 0xC2 0xC9 0 0 0 0x101, .ahq h .base (.s 9) 1#4),
    (f128 0xC3 0 0xC4 0xC5 0xC6 1 0 0 0 2 7 0 0, .strm h .s8 2#3 7#4 (.s 4) (.s 5) (.s 6)), (f128 0xC4 0 0xC4 0xC5 0xC6 2 0 0 0 2 7 0 2, .gth h true 2#3 7#4 (.s 4) (.s 5) (.s 6) 2#9),
    (f128 0xC4 0 0xC7 0 0 1 0 0 0 2 3 0 (32 + 2 ^ 12), .gthQ h false 2#3 3#4 (.s 7) 1#3 32#9), (f128 0xC5 0 0xC4 0 0 1 0 0 0 4 2 0 (2 ^ 12 * 5), .sct h .fadd 2#4 (.s 4) 4#3 5#3),
    (f128 0xC6 0xC9 0xC4 0xC6 0 0 0 0 0 1 2 0 12, .hprb h (.s 9) 1#3 2#4 (.s 4) (.s 6) 0#3 12#6), (f128 0xC7 0xC6 0xC3 0xC5 0xC4 0 0 0 0 3 1 0 0, .isct h (.s 6) 3#3 1#4 (.s 3) (.s 5) (.s 4)),
    (f128 0xC8 0 0xC4 0xC5 0 0 0 0 0 1 2 0 0x40003, .walk h 1#3 2#4 (.s 4) (.s 5) 3#16 4#4), (f64 0xCC 0 0xC8 0xC9 3 1, .qput h true 3#3 (.s 8) (.s 9)),
    (f64 0xCD 0xC1 0xC2 0 3 1, .qtake h true (.s 1) 3#3 (.s 2)), (f64 0xC9 0 0 0 3 0, .qend h 3#3), (f64 0xC9 0 0 0 3 1, .qendX h (some 3#3)), (f64 0xC9 0 0 0 0 3, .qendX h none),
    (f64 0xCA 0 0 0 6 0, .qclr h 6#3)]

/-- R356 to R371. -/
def matrix : List (List Byte × Instr) :=
  [(f128 0xE0 0 0 0 0 0 9 0 0 0 0 0 0, .mlds h 9#6), (f128 0xE0 0 0 0 0 1 9 0 0 0 0 0 0, .mldsK1 h 9#6), (f64 0xE1 0 0 0 0 0, .mswp h),
    (f128 0xE2 0 0 0 0 1 3 0 0 0 0 2 0, .mma h true 2#6 3#6 0#8), (f128 0xE3 0 0 0 0 0 3 0 0 0 0 63 0, .mmas h false 63#6 3#6 0#8),
    (f128 0xE4 0 0 0 0 0 3 4 0 0 0 2 0, .mbmp h false 2#6 3#6 4#6 0#8), (f128 0xE5 0 0 0 0 1 3 0 0 0 0 0 0, .mhad h .p32 3#6),
    (f128 0xE6 0 0 0 0 0x052 3 4 0 0 0 0 0, .mprn h 2#4 1#2 true 3#6 4#6), (f64 0xE7 0 0 0 2 0x081, .acal h true 2#6 2#6), (f64 0xE8 0 0 0 2 0x040, .acfr h 2#6 1#6),
    (f128 0xE9 0 0 0 0 1 0 0 0 0 0 2 (3 + 2 ^ 8 * 5), .acclm h true 2#6 3#5 5#6), (f64 0xEA 0 0 0 2 0, .acz h 2#6), (f128 0xEB 16 0 0 0 0 0 0 0 0 0 2 1, .acrdVector h 1#2 16 2#6),
    (f128 0xEB 0xC3 0 0 0 0 0 0 0 0 0 2 (31 + 2 ^ 8 * 63), .acrdScalar h 3 2#6 31#5 63#6),
    (f128 0xEC 0xC3 0 0 0 0x0D5 9 0 0 0 0 2 (4 + 2 ^ 8 * 8 + 2 ^ 16 * 64), .acst h .int8 true false (some (.s 3)) .rz 9#6 2#6 4#5 8#6 64#7),
    (f64 0xED 0xC3 0 0 2 1, .mstat h (.bank 2#6) (.s 3)), (f64 0xEE 0 0 0 0 0, .mwait h)]

/-- R270 to R284. -/
def copies : List (List Byte × Instr) :=
  [(f128 0xF0 0 0xC4 0xC6 0 2 0 0 1 0 0 0 0, .cpl h false false none (.ring 1#4) (.s 4) (.s 6)),
    (f128 0xF0 0 0xC4 0xC6 0xC7 0x01C 9 0 0 0 0 0 0, .cpl h true true (some (.s 7)) (.tile 9#6) (.s 4) (.s 6)), (f128 0xF1 0 0xC4 0xC6 0 0x020 9 0 0 0 0 0 0, .cps h true false false (.tile 9#6) (.s 4) (.s 6)),
    (f128 0xF2 0 0xC4 0xC6 0 0 9 0 0 0 0 0 0x01000001, .cpf h (.tile 9#6) (.s 4) (.s 6) 0x01000001#32), (f128 0xF3 0 0 0 0 1 9 8 0 0 0 0 0, .cpx h true (.tile 9#6) 8#6),
    (f64 0xF4 0 0 0 0 0, .cpw h), (f128 0xF5 0 0 0 0 0 8 0 2 0 0 0 4, .rini h 2#4 8#6 4#5), (f64 0xF6 0xC3 0 0 2 1, .awf h (some (.s 3)) 2#4), (f64 0xF7 0 0 0 2 0, .rlsRing h 2#4),
    (f64 0xF7 0 0 0 9 1, .rlsTile h 9#6), (f64 0xF8 0xC3 0 0 2 0, .rsta h (.s 3) 2#4), (f64 0xF9 0xC3 0 0 9 3, .tsta h 3#3 (.s 3) 9#6),
    (f128 0xFA 0 0xC3 0 0 0 9 0 0 0 0 0 512, .tbindSp h 9#6 (.s 3) 512#32), (f128 0xFA 0 0 0 0 1 9 0 2 0 0 0 0, .tbindRd h 9#6 2#4), (f128 0xFA 0 0 0 0 2 9 0 2 0 0 0 0, .tbindWr h 9#6 2#4),
    (f128 0xFA 0 0 0 0 3 9 0 0 0 0 0 0, .tbindSelf h 9#6)]

/-- A word decodes to its instruction, and is as long as its LEN says. -/
def decodes (p : List Byte × Instr) : Bool :=
  match decode p.1 with
  | .ok (i, n) => decide (i = p.2) && n == p.1.length
  | .error _ => false

theorem test_decode_arithmetic : arithmetic.all decodes = true := by decide +kernel
theorem test_decode_logic : logic.all decodes = true := by decide +kernel
theorem test_decode_lanes : lanes.all decodes = true := by decide +kernel
theorem test_decode_floating : floating.all decodes = true := by decide +kernel
theorem test_decode_packed : packed.all decodes = true := by decide +kernel
theorem test_decode_control : control.all decodes = true := by decide +kernel
theorem test_decode_memory : memory.all decodes = true := by decide +kernel
theorem test_decode_tasks : tasks.all decodes = true := by decide +kernel
theorem test_decode_access : access.all decodes = true := by decide +kernel
theorem test_decode_matrix : matrix.all decodes = true := by decide +kernel
theorem test_decode_copies : copies.all decodes = true := by decide +kernel


/-! ### States in which an instruction issues -/

/-- The number of the unit that runs a placed word: the second number after reset. -/
def uid : Nat := 2

/-- After reset, a word placed, and its unit selected to issue it. -/
def at_ (bs : List Byte) : State := { State.reset.withFetchWord (8 * bs.length) (leNat bs) with cur := some uid, schedule := [] }

/-- The entry of that unit. -/
def ent (s : State) : Entry := ((s.dueUnit uid).pick).getD { pc := 0#64, prio := 0#2, mask := 0#64, blk := none, cnt := 0, aged := false, solo := false }

/-- The parts of an issue that goes ahead, as a test. -/
def issuesB (s : State) (h : Hdr) (i : Instr) (uid : Nat) (e : Entry) : Bool :=
  decide (s.cur = some uid) && decide ((s.dueUnit uid).pick = some e) && decide (e.mask ≠ 0#64) && decide (e.solo = false) &&
    decide ((s.dueUnit uid).runAhead = none) && decide (instrFault i (s.dueUnit uid) ((s.due uid).task (s.dueUnit uid).task).gang = none) &&
    decide ((s.dueUnit uid).interlocked i (s.activeOf h uid e) = false) && decide ((s.due uid).shortOf (s.dueUnit uid) i (s.activeOf h uid e) = none)

/-- The test is sound. -/
theorem issues_of_issuesB {s : State} {h : Hdr} {i : Instr} {uid : Nat} {e : Entry} (t : issuesB s h i uid e = true) : Issues s h i uid e := by
  simp only [issuesB, Bool.and_eq_true, decide_eq_true_eq] at t
  obtain ⟨⟨⟨⟨⟨⟨⟨a, b⟩, c⟩, d⟩, e⟩, f⟩, g⟩, k⟩ := t
  exact ⟨a, b, c, d, e, f, g, k⟩

/-- A placed word issues its instruction. -/
def issued (p : List Byte × Instr) : Bool := issuesB (at_ p.1) h p.2 uid (ent (at_ p.1))

/-- Each word of a list, placed after reset, issues its instruction. -/
theorem issues_of_issued {ps : List (List Byte × Instr)} (t : ps.all issued = true) :
    ∀ p ∈ ps, Issues (at_ p.1) h p.2 uid (ent (at_ p.1)) := fun p m => issues_of_issuesB (List.all_eq_true.mp t p m)

theorem test_issue_arithmetic : arithmetic.all issued = true := by decide +kernel
theorem test_issue_logic : logic.all issued = true := by decide +kernel
theorem test_issue_lanes : lanes.all issued = true := by decide +kernel
theorem test_issue_floating : floating.all issued = true := by decide +kernel
theorem test_issue_packed : packed.all issued = true := by decide +kernel
theorem test_issue_control : control.all issued = true := by decide +kernel
theorem test_issue_memory : memory.all issued = true := by decide +kernel
theorem test_issue_tasks : tasks.all issued = true := by decide +kernel
theorem test_issue_access : access.all issued = true := by decide +kernel
theorem test_issue_matrix : matrix.all issued = true := by decide +kernel
theorem test_issue_copies : copies.all issued = true := by decide +kernel

/-! ### Witnesses for the hypotheses of the statements -/

/-- The unit, its task, its core and its core's engine context changed. -/
def withUnit (s : State) (f : Machine.Unit → Machine.Unit) : State := s.modUnit uid f
def withTask (s : State) (f : Task → Task) : State := s.modTask 1 f
def withCore (s : State) (f : Core → Core) : State := s.modCore 0 f
def withCtx (s : State) (f : CoreCtx → CoreCtx) : State := s.modCtx 0 f

/-- Scalar registers given. -/
def withRegs (s : State) (r : SMap W64) : State := withUnit s fun u => { u with sregs := r }

/-- A word placed for a unit of another kind, of one lane. -/
def single (k : UnitKind) (bs : List Byte) : State :=
  withUnit (at_ bs) fun u => { u with kind := k, width := 1, lmask := 1#64, regs := 0, frontier := u.frontier.map fun e => { e with mask := 1#64 } }

/-- An issue that goes ahead over the entry that the state selects. -/
abbrev Goes (s : State) (i : Instr) : Prop := issuesB s h i uid (ent s) = true

/-- It is the hypothesis of the statements. -/
theorem goes_issues {s : State} {i : Instr} (t : Goes s i) : Issues s h i uid (ent s) := issues_of_issuesB t

/-- A mask names lanes below 64 only. -/
theorem lanes_below {m : LMask} {P : Nat → Prop} (t : ∀ l, l < 64 → hasLane m l = true → P l) : ∀ l, hasLane m l = true → P l := by
  intro l k
  by_cases g : l < 64
  · exact t l g k
  · simp [hasLane, BitVec.getLsbD_of_ge _ _ (Nat.le_of_not_lt g)] at k

theorem test_witness_ReduceAddIsSum : let s := at_ (f64 0x24 5 1 0 0 0)
    Goes s (.rduc h .add .rn false (.v 5) (.v 1)) ∧ (s.dueUnit uid).width ∈ [8, 16, 32, 64] ∧
      ∀ l, hasLane (ent s).mask l = true → l < (s.dueUnit uid).width :=
  ⟨by decide +kernel, by decide +kernel, lanes_below (by decide +kernel)⟩

theorem test_witness_BreakStopsOrPasses :
    Goes (at_ (f64 0x74 0 0 0 9 0)) (.brk h 9#8) ∧ ((at_ (f64 0x74 0 0 0 9 0)).core 0).traceSwbk = false ∧
      (let s := withCore (at_ (f64 0x74 0 0 0 9 0)) fun c => { c with traceCtl := 0xFFFFFFFF#32 }
       Goes s (.brk h 9#8) ∧ (s.core (s.dueUnit uid).core).traceSwbk = true) := by decide +kernel

/-- MTS to a register that it may write, and to `%lane`, which it may not. -/
theorem test_witness_WriteSpecial :
    Goes (at_ (f64 0x27 0 0xC5 0 0x0C 0)) (.mts h false (.s 5) 0x0C#8) ∧
      (let s := at_ (f64 0x27 0 0xC5 0 0 0)
       Goes s (.mts h false (.s 5) 0x00#8) ∧ (s.dueUnit uid).kind ≠ .acc ∧ (0x00#8 : BitVec 8) ∉ [0x0A#8, 0x0B#8, 0x0C#8]) := by decide +kernel

theorem test_witness_SoftwareTraps :
    (let s := at_ (f64 0xB0 0 0xC1 0 0x41 2)
     Goes s (.trap h 0x41#8 (some (.s 1))) ∧ (s.dueUnit uid).kind ≠ .acc) ∧
      (let s := single .acc (f64 0xB0 0 0xC1 0 0x7F 2)
       Goes s (.trap h 0x7F#8 (some (.s 1))) ∧ (s.dueUnit uid).kind = .acc ∧ hasLane (s.activeOf h uid (ent s)) 0 = true ∧
        s.activeOf h uid (ent s) = 1#64 ∧ (s.dueUnit uid).accFault = none) := by decide +kernel

/-- A range of the iterations 5 to 12, which is just enough for eight lanes. -/
theorem test_witness_LoopOpens :
    (let s := withRegs (at_ (f64 0x75 6 0xC6 0x0A 4 0x010)) [(6, 0x0000000D00000005#64)]
     Goes s (.rfli h (.range 6) { plen := 6#8, blen := 10#12, tlen := 4#8, dlen := 8#7 }) ∧
      let u := s.dueUnit uid
      u.frontier = [ent s] ∧ u.live = lanesOf (ent s).mask ∧ u.live ≠ [] ∧ (∀ l ∈ u.live, (u.lane l).inIter = false ∧ (u.lane l).grant = none) ∧
        (lo32 (u.s 6)).toNat + u.live.length ≤ (hi32 (u.s 6)).toNat) ∧
    (let s := withRegs (at_ (f64 0x75 2 0xC6 0 2 1)) [(6, 0x0000000800000000#64)]
     Goes s (.rfliOrd h (.range 6) { plen := 2#8, blen := 0#12, tlen := 2#8, dlen := 0#7 }) ∧
      let u := s.dueUnit uid
      u.frontier = [ent s] ∧ u.live = lanesOf (ent s).mask ∧ u.live ≠ [] ∧ (∀ l ∈ u.live, (u.lane l).inIter = false ∧ (u.lane l).grant = none) ∧
        (lo32 (u.s 6)).toNat + u.live.length ≤ (hi32 (u.s 6)).toNat) := by decide +kernel

/-- A loop of which the placed word is the last of `.retire`. -/
def loop0 (ord : Bool) : Loop :=
  { addr := 0xFF0#64, ord := ord, lens := { plen := 2#8, blen := 0#12, tlen := 2#8, dlen := 0#7 }, src := .range 8#32 16#32, nextAge := 8, finished := [],
    waiting := [], exhausted := false }

/-- Every lane in an iteration of a loop. -/
def inLoop (s : State) (ord : Bool) : State :=
  withUnit s fun u => { u with loop := some (loop0 ord), lanes := u.lanes.mapVal fun l x => { x with inIter := true, age := BitVec.ofNat 32 l } }

theorem test_witness_LoopRefills : ∀ p ∈ [(false, fields 0 0x76 0 0 0 0 3 0 0, Instr.rfl h 3#2), (true, fields 0 0x76 0 0 0 0 1 1 0, Instr.rflOrd h 1#2)],
    let s := inLoop (at_ p.2.1) p.1
    Goes s p.2.2 ∧ (s.dueUnit uid).loop = some (loop0 p.1) ∧ (s.dueUnit uid).copyFault = none ∧
      (ent s).pc + 8#64 = (loop0 p.1).addr + 8#64 + 4#64 * (loop0 p.1).lens.plen.setWidth 64 + 4#64 * (loop0 p.1).lens.blen.setWidth 64
        + 4#64 * (loop0 p.1).lens.tlen.setWidth 64 ∧
      (∀ l ∈ lanesOf (ent s).mask, let x := (s.dueUnit uid).lane l
        x.st = .live ∧ x.inIter = true ∧ x.frame = none ∧ x.grant = none) ∧
      (8#32 : W32).toNat + (lanesOf (ent s).mask).length ≤ (16#32 : W32).toNat := by decide +kernel

/-- The unit's entry split in two: lanes 0 to 3 issue, lanes 4 to 7 stand at another PC, at a lower priority, with a blocked state. -/
def split (s : State) (pc : W64) (blk : Option Wait) : State :=
  withUnit s fun u => { u with frontier := u.frontier.flatMap fun e =>
    [{ e with mask := 0x0F#64 }, { e with mask := 0xF0#64, pc := pc, blk := blk, prio := 0#2 }] }

theorem test_witness_BarrierReleases :
    (let s := split (at_ (f64 0x77 0 0 0 0 0)) 0x1000#64 (some .syng)
     Goes s (.syng h) ∧ ∀ f ∈ (s.dueUnit uid).frontier, f.mask &&& ~~~(ent s).mask ≠ 0#64 → f.blk = some .syng ∧ f.pc = (ent s).pc) ∧
    (let s := split (at_ (f64 0x77 0 0 0 0 0)) 0x2000#64 (some .syng)
     Goes s (.syng h) ∧ ∃ f ∈ (s.dueUnit uid).frontier, f.mask &&& ~~~(ent s).mask ≠ 0#64 ∧ (f.blk ≠ some .syng ∨ f.pc ≠ (ent s).pc)) := by decide +kernel

/-- The parts of an edge that is free, as a test. -/
def edgesFreeB (s : State) (uid : Nat) (ls : List Nat) : Bool :=
  ls.all (fun l => !s.strandBusy uid l) && decide ((s.unit uid).copyFault = none) && ls.all (fun l => !((s.unit uid).lane l).remoteDirty) &&
    (s.core (s.unit uid).core).dirtyAddrs.all (fun a => !s.owned a && (remotePkg s a).isNone) && !s.linesDue (s.unit uid).core && decide (s.remoteOps = [])

/-- The test is sound. -/
theorem edgesFree_of_edgesFreeB {s : State} {uid : Nat} {ls : List Nat} (t : edgesFreeB s uid ls = true) : Claim.EdgesFree s uid ls := by
  simp only [edgesFreeB, Bool.and_eq_true, decide_eq_true_eq, List.all_eq_true, Bool.not_eq_true', Option.isNone_iff_eq_none] at t
  obtain ⟨⟨⟨⟨⟨a, b⟩, c⟩, d⟩, e⟩, f⟩ := t
  exact ⟨a, b, c, d, e, f⟩

/-- A launch record of one vector group of eight lanes, each field at its offset (R126 to R128): version 1, entry 0x1000, mask 0xFF, 16 registers. -/
def record0 : List Byte :=
  (((((List.replicate 256 0#8).set 3 1#8).set 0x61 0x10#8).set 0x68 0xFF#8).set 0x70 1#8).set 0x72 16#8 |>.set 0x73 16#8

/-- The record in memory at 0x2000, its address in registers, and an argument. -/
def withRecord (s : State) : State := withRegs (s.homeWriteN 0x2000 record0) [(8, 0x2000#64), (9, 7#64), (10, 0x2000#64), (11, 7#64)]

theorem test_witness_LanesEnd :
    (let s := at_ (f64 0xA2 0 0 0 0 0)
     Goes s (.exit h) ∧ edgesFreeB (s.due uid) uid (lanesOf (s.activeOf h uid (ent s))) = true ∧
      ∀ l ∈ lanesOf (s.activeOf h uid (ent s)), ((s.dueUnit uid).lane l).frame = none) ∧
    ∀ p ∈ [(false, f64 0xA2 0 0xCA 0xCB 0 1, Instr.exitS h (.s 10) (.s 11)), (true, f64 0xA3 0 0xCA 0xCB 0 0, Instr.exitJ h (.s 10) (.s 11))],
      let s := withRecord (at_ p.2.1)
      Goes s p.2.2 ∧ edgesFreeB (s.due uid) uid (lanesOf (s.activeOf h uid (ent s))) = true ∧
        (∀ l ∈ lanesOf (s.activeOf h uid (ent s)), ((s.dueUnit uid).lane l).frame = none) ∧ s.activeOf h uid (ent s) ≠ 0#64 ∧
        (s.task (s.dueUnit uid).task).reg = none ∧
        (match readRecord p.2.2 ((s.dueUnit uid).src64 (.s 10) 0) (s.issueAt h p.2.2 uid (ent s)) (s.due uid) with
          | .got s1 bytes => (registerFault s1 (s1.task (s.dueUnit uid).task) p.1 ((s.dueUnit uid).src64 (.s 10) 0) bytes).isNone
          | _ => false) = true ∧
        let g : Registration := { join := p.1, addr := 0x2000#64, record := record0, arg := 0#64 }
        let s' := withTask s fun k => { k with reg := some g }
        Goes s' p.2.2 ∧ (s'.task (s'.dueUnit uid).task).reg = some g ∧ g.addr = (s'.dueUnit uid).src64 (.s 10) 0 := by decide +kernel

theorem test_witness_RegisterCounts :
    (let s := at_ (f64 0xA4 0xC5 0 0 96 0)
     Goes s (.rgrow h (.s 5) 96#8) ∧ (96#8 : BitVec 8).toNat ≤ (s.dueUnit uid).regs) ∧
    (let s := withUnit (at_ (f64 0xA4 0xC5 0 0 96 0)) fun u => { u with regs := 16, regmax := 95 }
     Goes s (.rgrow h (.s 5) 96#8) ∧ s.activeOf h uid (ent s) ≠ 0#64 ∧ (s.dueUnit uid).kind = .group ∧ (s.dueUnit uid).regmax < 96 ∧ (s.dueUnit uid).regs < 96) ∧
    (let s := withUnit (at_ (f64 0xA4 0xC5 0 0 96 0)) fun u => { u with regs := 16, regmax := 96 }
     Goes s (.rgrow h (.s 5) 96#8) ∧ s.activeOf h uid (ent s) ≠ 0#64 ∧ (s.dueUnit uid).kind = .group ∧ (s.dueUnit uid).regs < 96 ∧ 96 ≤ (s.dueUnit uid).regmax) ∧
    Goes (at_ (f64 0xA5 0 0 0 48 0)) (.rshrk h 48#8) := by decide +kernel

/-- The physical addresses of a lane's access. -/
def pasOf (s : State) (va : W64) (n : Nat) (a : Perm) : List Nat :=
  match (s.due uid).laneXlat uid va n a with
  | .ok pas => pas
  | _ => []

/-- A load through a vector offset, its last lane at the end of the first granule. -/
theorem test_witness_LoadRequests :
    let s := withUnit (withRegs (at_ (f64 0x80 6 0xC4 2 0xF8 8)) [(4, 0x3000#64)]) fun u => { u with vregs := [(128, 8#32), (129, 16#32), (135, 0x3FFD004#32)] }
    let i : Instr := .ld h .b32 (.v 6) (.s 4) (some (.v 2)) (.d8 0xF8#8)
    let u := s.dueUnit uid
    let ea := fun l => Claim.ea u (.s 4) (some (.v 2)) (.d8 0xF8#8) l
    let ls := Claim.accessLanes (s.activeOf h uid (ent s)) true
    Goes s i ∧ ls ≠ [] ∧ (∀ l ∈ ls, (s.due uid).laneXlat uid (ea l) 4 .r = .ok (pasOf s (ea l) 4 .r)) ∧ pasOf s (ea 7) 4 .r = [0x3FFFFFC, 0x3FFFFFD, 0x3FFFFFE, 0x3FFFFFF] ∧
      ∀ l ∈ ls, ∀ b ∈ pasOf s (ea l) 4 .r, remotePkg s b = none ∧ s.byteWaits u.core b = false ∧ (s.core u.core).farByte uid l b = .absent := by
  decide +kernel

/-- An outstanding request of one vector register. -/
def awaiting (d : Reg) (vals : List (Nat × W64)) : State :=
  withCore (withUnit (at_ (f64 0 0 0 0 0 0)) fun u => { u with vpend := [{ dst := .r d, mask := 0xFF#64, req := 9 }] }) fun c =>
    { c with reqs := [(9, { unit := uid, writes := [(.r d, vals)], fill := [] })] }

theorem test_witness_ResponseWrites : ∀ p ∈ [(Reg.v 6, [(0, 5#64), (7, 6#64)]), (.s 6, [(0, 5#64)])],
    let s := awaiting p.1 p.2
    (s.core 0).reqs.get 9 = some { unit := uid, writes := [(.r p.1, p.2)], fill := [] } ∧ (s.units.get uid).isSome ∧
      (s.unit uid).vpend.filter (fun v => v.req == 9) = [{ dst := .r p.1, mask := 0xFF#64, req := 9 }] := by decide +kernel

/-- Stores of overlapping bytes by several lanes. -/
theorem test_witness_StoreWrites :
    let s := withUnit (withRegs (at_ (f64 0x81 6 0xC4 2 0 9)) [(4, 0x3000#64)]) fun u => { u with vregs := [(129, 1#32), (130, 1#32), (384, 7#32)] }
    let i : Instr := .st h .s8 (.v 6) (.s 4) (some (.v 2)) (.d8 0#8)
    let ea := fun l => Claim.ea (s.dueUnit uid) (.s 4) (some (.v 2)) (.d8 0#8) l
    Goes s i ∧ ∀ l ∈ Claim.accessLanes (s.activeOf h uid (ent s)) true, (s.due uid).laneXlat uid (ea l) 1 .w = .ok (pasOf s (ea l) 1 .w) := by
  decide +kernel

/-- Scratchpad accesses of which lane 7's is one byte too high for the task's 65,536. -/
theorem test_witness_ScratchpadAccess :
    let f := fun (s : State) => withUnit s fun u => { u with vregs := [(576, 4#32), (582, 65532#32), (583, 65533#32)] }
    let inside := fun (s : State) (l : Nat) => 0 ≤ Claim.spadOff (s.dueUnit uid) (.v 9) none (.d8 0#8) l ∧
      Claim.spadOff (s.dueUnit uid) (.v 9) none (.d8 0#8) l + 4 ≤ (s.task (s.dueUnit uid).task).spadSize
    (let s := f (at_ (f64 0x82 6 9 0 0 0))
     Goes s (.lds h .b32 (.v 6) (.v 9) none (.d8 0#8)) ∧ (s.dueUnit uid).kind ≠ .acc ∧ inside s 6 ∧ ¬ inside s 7) ∧
    (let s := f (at_ (f64 0x83 6 9 0 0 0))
     Goes s (.sts h .b32 (.v 6) (.v 9) none (.d8 0#8)) ∧ (s.dueUnit uid).kind ≠ .acc ∧ inside s 6 ∧ ¬ inside s 7) := by decide +kernel

/-- A tile entry of 512 bytes. -/
def tile0 (st : TileState) : TileEnt := { base := 0x400#20, cap := 2, ring := none, phase := false, st := st, aliasOf := 5, fault := none }

/-- The header of a tile of a kind and a number of rows and columns, dense, with its count of bytes, as R261 lays it out. -/
def header (kind sparse n m rows cols count : Nat) : List Byte :=
  leBytes 256 (kind + 2 ^ 8 * sparse + 2 ^ 12 * n + 2 ^ 16 * m + 2 ^ 24 + 2 ^ 32 * rows + 2 ^ 48 * cols + 2 ^ 64 * rows + 2 ^ 80 * cols + 2 ^ 128 * count)

/-- Entry 5 with a header that counts 64 bytes. -/
def withTile (s : State) (st : TileState) : State :=
  withTask s fun k => { k with tiles := [(5, tile0 st)], spad := Memory.writeN [] 0x400 (header 1 0 0 0 4 8 64) }

theorem test_witness_TileAccess :
    (∀ st ∈ [TileState.ready, .draining],
      let s := withTile (at_ (f128 0x84 7 0xC2 0 0 0 5 0 0 0 0 0 60)) st
      Goes s (.ldt h .b32 (.v 7) (.s 2) 5#6 60#32) ∧ (s.dueUnit uid).kind ≠ .acc ∧ (tile0 st).fault = none ∧
        (s.task (s.dueUnit uid).task).tileKey 5 = some 5 ∧ (s.task (s.dueUnit uid).task).tileEnt 5 = tile0 st ∧
        60 + 4 ≤ (s.task (s.dueUnit uid).task).payloadCount (tile0 st)) ∧
    (let s := withTile (at_ (f128 0x85 7 2 0 0 3 5 0 0 0 0 0 63)) .ready
     Goes s (.stt h .s16 (.v 7) (.v 2) 5#6 63#32) ∧ (s.dueUnit uid).kind ≠ .acc ∧ (s.task (s.dueUnit uid).task).tileKey 5 = some 5 ∧
       (s.task (s.dueUnit uid).task).tileEnt 5 = tile0 .ready ∧ ¬ 63 + 2 ≤ (s.task (s.dueUnit uid).task).payloadCount (tile0 .ready)) := by decide +kernel

/-- Atomics at one location by every lane, plain and with both marks, and one by a scalar; then at an address that is not aligned. -/
theorem test_witness_Atomics :
    (∀ p ∈ [(f64 0x86 5 0xC3 6 0 0, Instr.atom h .add false false false false (.v 5) (.s 3) (.v 6) (.d8 0#8), false, true),
        (f64 0x87 5 0xC3 6 0 0x300, .atomf h .fadd true true (.v 5) (.s 3) (.v 6) (.d8 0#8), true, true),
        (f64 0x88 0xC5 0xC3 0xC6 0 0, .cas h false false false (.s 5) (.s 3) (.s 6) (.d8 0#8), false, false)],
      let s := withRegs (at_ p.1) [(3, 0x3000#64)]
      let ls := Claim.accessLanes (s.activeOf h uid (ent s)) p.2.2.2
      Goes s p.2.1 ∧ ls ≠ [] ∧ edgesFreeB (s.due uid) uid ls = true ∧ (∀ x ∈ (s.core (s.dueUnit uid).core).dirtyAddrs, x < 2 ^ 39) ∧
        ∀ l ∈ ls, ((s.dueUnit uid).atomAddr (.s 3) (.d8 0#8) l).toNat % 4 = 0 ∧
          (s.due uid).laneXlat uid ((s.dueUnit uid).atomAddr (.s 3) (.d8 0#8) l) 4 .rw = .ok ((List.range 4).map fun k => 0x3000 + k) ∧
          0x3000 % 4 = 0 ∧ 0x3000 < 2 ^ 39 ∧ s.owned 0x3000 = false) ∧
    (let s := withRegs (at_ (f64 0x86 5 0xC3 6 2 0)) [(3, 0x3000#64)]
     Goes s (.atom h .add false false false false (.v 5) (.s 3) (.v 6) (.d8 2#8)) ∧ (s.dueUnit uid).kind ≠ .acc ∧ (s.dueUnit uid).copyFault = none ∧
       ∀ l, hasLane (s.activeOf h uid (ent s)) l = true → ((s.dueUnit uid).atomAddr (.s 3) (.d8 2#8) l).toNat % 4 ≠ 0) :=
  ⟨by decide +kernel, by decide +kernel, by decide +kernel, by decide +kernel, lanes_below (by decide +kernel)⟩

/-- Every lane in its trap, its trap's PC given. -/
def inTrap (s : State) (tpc : W64) : State :=
  withUnit s fun u => { u with lanes := u.lanes.mapVal fun _ x => { x with trapped := true, tpc := tpc } }

/-- A launch record with a trap vector. -/
def recordV : List Byte := gangRecord.set 0x11 0x20#8

/-- Every lane in its trap in a task with a trap vector, at TRET. -/
def trapTask (tpc : W64) : State := withTask (inTrap (at_ (f64 0xB1 0 0 0 0 0)) tpc) fun k => { k with record := recordV }

/-- TRET to an aligned PC and to one that is not; TRET.SKIP over the placed word; and lanes in no trap. -/
theorem test_witness_TrapReturns :
    (let s := trapTask 0x1000#64
     Goes s (.tret h) ∧ ∀ l ∈ lanesOf (s.activeOf h uid (ent s)), let x := (s.dueUnit uid).lane l
        x.st = .live ∧ x.trapped = true ∧ x.mtrap = false ∧ x.badGrant = false) ∧
    (let s := trapTask 0x1002#64
     Goes s (.tret h) ∧ (s.due uid).vector uid ≠ 0#64) ∧
    (let s := inTrap (at_ (f64 0xB1 0 0 0 0 1)) 0x1000#64
     Goes s (.tretSkip h) ∧ (match (s.due uid).codeN uid 0x1000 4 with
       | some bs => Claim.lenOf bs == 8
       | none => false) = true ∧ pasOf s 0x1000#64 4 .x = [0x1000, 0x1001, 0x1002, 0x1003]) ∧
    (let s := at_ (f64 0xB1 0 0 0 0 0)
     Goes s (.tret h) ∧ ∀ l ∈ lanesOf (ent s).mask, ((s.dueUnit uid).lane l).st = .live ∧ ((s.dueUnit uid).lane l).trapped = false) := by
  decide +kernel

/-- A segment that has room for eight records more, and tracing on. -/
def traced (s : State) : State :=
  (withCore s fun c => { c with traceCtl := 0x80000014#32 }).modDie 0 fun d =>
    { d with segments := [{ place := 0, segno := 3, recs := [], closed := false, submitted := false, overwritten := 0 }] }

theorem test_witness_TraceMarks :
    ((at_ (f64 0xB2 0 7 0 5 1)).core 0).traceCtl.getLsbD 31 = false ∧
      (let s := traced (at_ (f64 0xB2 0 7 0 5 1))
       Goes s (.tmark h 5#8 (some (.v 7))) ∧ (s.core (s.dueUnit uid).core).traceCtl.getLsbD 31 = true ∧
         ∃ g ∈ (s.die 0).segments, g.closed = false ∧ g.recs.length + (lanesOf (s.activeOf h uid (ent s))).length ≤ 32762) := by decide +kernel

/-- A queue of two places at the foot of scratchpad with some entries, whose head is at place 1. -/
def queue0 (count : Nat) (closed : Bool) : QueueSt := { base := 0, cap := 2, head := 1, count := count, closed := closed }

/-- Queue 3 so, the entry at place 1 carrying END in its tag word. -/
def withQueue (s : State) (q : QueueSt) : State :=
  withTask s fun k => { k with queues := [(3, q)], spad := Memory.writeN [] (48 + 32) (leBytes 4 0x00010005) }

theorem test_witness_QueueTransfers :
    (∀ q ∈ [queue0 0 false, queue0 1 false, queue0 2 false, queue0 1 true],
      let s := withQueue (at_ (f64 0x8A 4 0 0xC5 3 1)) q
      Goes s (.qpop h (.v 4) 3#3 (some (.s 5))) ∧ (s.task (s.dueUnit uid).task).queues.get 3 = some q ∧
        (s.task (s.dueUnit uid).task).wq = (s.dueUnit uid).width ∧ s.activeOf h uid (ent s) ≠ 0#64 ∧
        (BitVec.ofNat 32 (Claim.word (s.task (s.dueUnit uid).task) q q.head 8)).getLsbD 17 = false) ∧
    (∀ q ∈ [queue0 1 false, queue0 2 false],
      let s := withQueue (at_ (f64 0x8B 0 4 0xC5 3 3)) q
      Goes s (.qpush h true (.v 4) 3#3 (some (.s 5))) ∧ (s.task (s.dueUnit uid).task).queues.get 3 = some q ∧
        (s.task (s.dueUnit uid).task).wq = (s.dueUnit uid).width ∧ s.activeOf h uid (ent s) ≠ 0#64) ∧
    (let s := withQueue (at_ (f64 0x8C 0xC4 0 0 3 0)) (queue0 2 true)
     Goes s (.qsta h (.s 4) 3#3) ∧ (s.task (s.dueUnit uid).task).queues.get 3 = some (queue0 2 true)) := by decide +kernel

theorem test_witness_QueueMisuse : ∀ p ∈ [(f64 0x8A 4 0 0 7 0, Instr.qpop h (.v 4) 7#3 none), (f64 0x8B 0 4 0 7 0, .qpush h false (.v 4) 7#3 none),
      (f64 0x8C 0xC4 0 0 7 0, .qsta h (.s 4) 7#3)],
    (let s := at_ p.1
     Goes s p.2 ∧ (s.dueUnit uid).kind ≠ .acc ∧ s.activeOf h uid (ent s) ≠ 0#64 ∧ (s.task (s.dueUnit uid).task).queues.get 7 = none) ∧
    (let s := withTask (at_ p.1) fun k => { k with queues := [(7, queue0 0 false)], wq := 16 }
     Goes s p.2 ∧ ((s.task (s.dueUnit uid).task).queues.get 7).isSome ∧ (s.task (s.dueUnit uid).task).wq ≠ (s.dueUnit uid).width) := by decide +kernel

/-- A frame that counts one child. -/
def frame0 : Frame := { parent := 0#64, pend := 1, status := 1, depth := 0, home := 0, cont := 0#64, carg := 0#64, task := 1, part := 1 }

/-- SPAWN by lanes that each hold a frame, and by a single lane that opens one; the record may be spawned. -/
theorem test_witness_SpawnCreates :
    let ok := fun (s : State) (i : Instr) (group : Bool) =>
      let u := s.dueUnit uid
      let ls := if group then (lanesOf (s.activeOf h uid (ent s))).take 1 else lanesOf (s.activeOf h uid (ent s))
      let pas := pasOf s (u.src64 (.s 8) 0) 256 .r
      let record := pas.map fun p => s.viewByte u.core p
      Goes s i ∧ ls ≠ [] ∧ edgesFreeB (s.due uid) uid (lanesOf (s.activeOf h uid (ent s))) = true ∧ (u.src64 (.s 8) 0).toNat % 256 = 0 ∧
        (s.due uid).laneXlat uid (u.src64 (.s 8) 0) 256 .r = .ok pas ∧
        (∀ p ∈ pas, remotePkg s p = none ∧ s.byteWaits u.core p = false ∧ (s.core u.core).farByte uid 0 p = .absent) ∧
        (∀ l ∈ ls, (u.lane l).depth < 8) ∧ record = record0 ∧ recMalformed record false = none ∧ s.fitsNone (s.task u.task).part record = false ∧
        (s.core u.core).glade.length + ls.length ≤ 64
    (let s := withRecord (at_ (f64 0xA0 0 0xC8 9 0 0))
     let s' : State := { withUnit s fun u => { u with lanes := u.lanes.mapVal fun l x => { x with frame := some (100 + l) } } with
       frames := (List.range 8).map fun l => (100 + l, frame0) }
     ok s' (.spawn h (.s 8) (.v 9)) false ∧ ∀ l ∈ lanesOf (s'.activeOf h uid (ent s')), ((s'.dueUnit uid).lane l).frame = some (100 + l) ∧ s'.frames.get (100 + l) = some frame0) ∧
    (let s := (withRecord (at_ (f64 0xA0 0 0xC8 0xC9 0 1))).modPart 1 fun p => { p with arena := { p.arena with frmCnt := 4#32 } }
     ok s (.spawnU h (.s 8) (.s 9)) true ∧ ((s.dueUnit uid).lane 0).frame = none ∧ (s.freeFrame (s.task (s.dueUnit uid).task).part).isSome) := by
  decide +kernel

/-- A strand of the access engine at a word: handle 2 covers 0x3000 to 0x3040 with every permission, handle 3 is invalid. -/
def accAt (bs : List Byte) (r : SMap W64) : State :=
  let g : HReg := { declared := true, valid := true, base := 0x3000#64, limit := 0x40#64, ctl := 0x00070000#32, region := 5#15 }
  withUnit (single .acc bs) fun u => { u with sregs := r, handles := [(2, g), (3, { g with valid := false })] }

/-- ALD and AST whose last byte is the last of the region, and one byte above it. -/
theorem test_witness_HandleAccess :
    (∀ p ∈ [(f64 0xC0 0xC4 0xC6 0 0x10 0x20D, Instr.ald h .b64 (.s 4) 2#4 (some (.s 6)) (.d8 0x10#8), 16, Perm.r, some (Reg.s 6), Disp.d8 0x10#8, 8),
        (f96 0xC1 0xC4 0xC6 0 0 0x20C 0x14, Instr.ast h .b32 (.s 4) 2#4 (some (.s 6)) (.d32 0x14#32), 17, Perm.w, some (Reg.s 6), Disp.d32 0x14#32, 4)],
      let s := accAt p.1 [(6, 0x28#64)]
      let u := s.dueUnit uid
      let o := Claim.handleOff u p.2.2.2.2.1 p.2.2.2.2.2.1
      let n := p.2.2.2.2.2.2
      let pas := pasOf s (BitVec.ofInt 64 (((u.handle 2#4).base.toNat : Int) + o)) n p.2.2.2.1
      Goes s p.2.1 ∧ s.activeOf h uid (ent s) = 1#64 ∧ ((u.handle 2#4).declared = true ∧ (u.handle 2#4).valid = true ∧ 0 ≤ o ∧
        o + n ≤ (u.handle 2#4).limit.toNat ∧ (u.handle 2#4).ctl.getLsbD p.2.2.1 = true) ∧
        (s.due uid).laneXlat uid (BitVec.ofInt 64 (((u.handle 2#4).base.toNat : Int) + o)) n p.2.2.2.1 = .ok pas ∧
        ∀ b ∈ pas, remotePkg s b = none ∧ s.byteWaits u.core b = false ∧ (s.core u.core).farByte uid 0 b = .absent) ∧
    (let s := accAt (f64 0xC0 0xC4 0xC6 0 0x10 0x20D) [(6, 0x29#64)]
     let o := Claim.handleOff (s.dueUnit uid) (some (.s 6)) (.d8 0x10#8)
     Goes s (.ald h .b64 (.s 4) 2#4 (some (.s 6)) (.d8 0x10#8)) ∧ s.activeOf h uid (ent s) = 1#64 ∧
       ¬ (0 ≤ o ∧ o + 8 ≤ ((s.dueUnit uid).handle 2#4).limit.toNat) ∧ (s.dueUnit uid).kind = .acc ∧ (s.dueUnit uid).accFault = none) := by
  decide +kernel

/-- APRF that is served and one whose handle is invalid; AHQ. -/
theorem test_witness_HandleQueries :
    (let s := accAt (f64 0xCB 0 0 0 0x40 0x210) []
     Goes s (.aprf h true 2#4 none (.d8 0x40#8))) ∧
    (let s := accAt (f64 0xCB 0 0 0 0x20 0x310) []
     Goes s (.aprf h true 3#4 none (.d8 0x20#8)) ∧ s.activeOf h uid (ent s) ≠ 0#64 ∧ ((s.dueUnit uid).handle 3#4).valid = false) ∧
    Goes (accAt (f64 0xC2 0xC9 0 0 0 0x201) []) (.ahq h .base (.s 9) 2#4) := by decide +kernel

/-- A streaming strand: a queue of each number with some entries. -/
def streamAt (bs : List Byte) (n : Nat) : State :=
  withTask (withUnit (accAt bs [(4, 0#64), (5, 1#64), (8, 5#64), (9, 1#64)]) fun u => { u with
    streams := (List.range n).map fun k => (k, Stream.start (.qend h 6#3) k 0#64 0#64 0#64 0#64) }) fun k =>
    { k with queues := (List.range 8).map fun j => (j, { base := 0, cap := 2, head := 1, count := 1, closed := false }) }

/-- Each streaming instruction, with a free slot and with none. -/
theorem test_witness_StreamsStart :
    ∀ p ∈ [(f128 0xC3 0 0xC4 0xC5 0xC6 1 0 0 0 2 2 0 0, Instr.strm h .s8 2#3 2#4 (.s 4) (.s 5) (.s 6)), (f128 0xC4 0 0xC4 0xC5 0xC6 2 0 0 0 2 2 0 2, .gth h true 2#3 2#4 (.s 4) (.s 5) (.s 6) 2#9),
        (f128 0xC4 0 0xC7 0 0 1 0 0 0 2 2 0 (32 + 2 ^ 12), .gthQ h false 2#3 2#4 (.s 7) 1#3 32#9), (f128 0xC5 0 0xC4 0 0 1 0 0 0 4 2 0 (2 ^ 12 * 5), .sct h .fadd 2#4 (.s 4) 4#3 5#3),
        (f128 0xC6 0xC9 0xC4 0xC6 0 0 0 0 0 1 2 0 12, .hprb h (.s 9) 1#3 2#4 (.s 4) (.s 6) 0#3 12#6), (f128 0xC7 0xC6 0xC3 0xC5 0xC4 0 0 0 0 3 2 0 0, .isct h (.s 6) 3#3 2#4 (.s 3) (.s 5) (.s 4)),
        (f128 0xC8 0 0xC4 0xC5 0 0 0 0 0 1 2 0 0x40003, .walk h 1#3 2#4 (.s 4) (.s 5) 3#16 4#4)],
      (let s := streamAt p.1 3
       let u := s.dueUnit uid
       Goes s p.2 ∧ s.activeOf h uid (ent s) = 1#64 ∧ (u.handle 2#4).declared = true ∧ (u.handle 2#4).valid = true ∧
        (u.handle 2#4).ctl.getLsbD 16 = true ∧ (u.handle 2#4).ctl.getLsbD 17 = true ∧ (u.handle 2#4).ctl.getLsbD 18 = true ∧
        (∀ q ∈ List.range 8, ((s.task u.task).queues.get q).isSome) ∧ (s.task u.task).wq = 8 ∧ u.streams.get 3 = none) ∧
      (let s := streamAt p.1 4
       Goes s p.2 ∧ ∀ j, j < 4 → ((s.dueUnit uid).streams.get j).isSome) := by decide +kernel

/-- The instructions that append an entry. -/
theorem test_witness_AppendsStart :
    ∀ p ∈ [(f64 0xCC 0 0xC8 0xC9 3 1, Instr.qput h true 3#3 (.s 8) (.s 9)), (f64 0xC9 0 0 0 3 0, .qend h 3#3), (f64 0xC9 0 0 0 3 1, .qendX h (some 3#3)), (f64 0xC9 0 0 0 0 3, .qendX h none)],
      let s := streamAt p.1 3
      Goes s p.2 ∧ s.activeOf h uid (ent s) = 1#64 ∧ (s.dueUnit uid).streams.get 3 = none ∧ ((s.task (s.dueUnit uid).task).queues.get 3).isSome := by
  decide +kernel

theorem test_witness_QueueTakesAndClears :
    ∀ p ∈ [(f64 0xCD 0xC1 0xC2 0 3 1, Instr.qtake h true (.s 1) 3#3 (.s 2)), (f64 0xCA 0 0 0 3 0, .qclr h 3#3)],
      let s := streamAt p.1 3
      let q : QueueSt := { base := 0, cap := 2, head := 1, count := 1, closed := false }
      Goes s p.2 ∧ s.activeOf h uid (ent s) = 1#64 ∧ (s.task (s.dueUnit uid).task).queues.get 3 = some q ∧
        (∀ x ∈ (s.dueUnit uid).streams.vals, 3#3 ∉ consOf x.instr ∧ 3#3 ∉ prodOf x.instr) ∧ ((s.dueUnit uid).src64 (.s 2) 0).toNat % 64 < (s.task (s.dueUnit uid).task).wq ∧
        (BitVec.ofNat 32 (Claim.word (s.task (s.dueUnit uid).task) q q.head (s.task (s.dueUnit uid).task).wq)).getLsbD 17 = false := by
  decide +kernel

/-- Names given to banks, which hold nothing, and the engine's claims. -/
def banked (s : State) (bs : List (Nat × Nat)) (cs : List Machine.Claim) : State :=
  withCtx (withTask s fun k => { k with banks := bs }) fun c => { c with
    banks := bs.map fun x => (x.2, { task := 1, i32 := true, ovf := false, cells := [], marks := 0#32, freeing := false }), claims := cs }

/-- Enough banks, and a name that is allocated already. -/
theorem test_witness_BanksAllocate :
    ∀ p ∈ [([(1, 0), (5, 3)], true), ([(4, 0)], false)],
      let s := banked (at_ (f64 0xE7 0 0 0 2 0x081)) p.1 []
      Goes s (.acal h true 2#6 2#6) ∧ s.activeOf h uid (ent s) ≠ 0#64 ∧ ((s.core (s.dueUnit uid).core).mresetBusy = false ∧
        ∀ o ∈ (s.core (s.dueUnit uid).core).ctx.mops, o.accepted = true) ∧
        decide ((∀ j : Nat, j ≤ 2 → s.bankOf (s.dueUnit uid).task (2 + j) = none) ∧ 2 < (Claim.free (s.core (s.dueUnit uid).core).ctx).length) = p.2 := by
  decide +kernel

theorem test_witness_BanksFreeAndClaim :
    ∀ p ∈ [(f64 0xE8 0 0 0 2 0x040, Instr.acfr h 2#6 1#6), (f128 0xE9 0 0 0 0 1 0 0 0 0 0 2 (30 + 2 ^ 8 * 2), .acclm h true 2#6 30#5 2#6)],
      let s := banked (at_ p.1) [(2, 7), (3, 4)] []
      let c := (s.core (s.dueUnit uid).core).ctx
      Goes s p.2 ∧ s.activeOf h uid (ent s) ≠ 0#64 ∧ ((s.core (s.dueUnit uid).core).mresetBusy = false ∧ ∀ o ∈ c.mops, o.accepted = true) ∧
        (∀ x ∈ [(2, 7), (3, 4)], s.bankOf (s.dueUnit uid).task x.1 = some x.2 ∧ (c.bank x.2).task = (s.dueUnit uid).task ∧
          (∀ q ∈ c.claims, q.bank ≠ x.2) ∧ ∀ o ∈ c.mops, x.2 ∉ o.banks) ∧ c.claims.length + 2 ≤ 64 := by decide +kernel

/-- A tile's header, whose index stands at an offset, and its payload. -/
def tileBytes (kind sparse n m rows cols idx : Nat) (payload : List Byte) : List Byte :=
  leBytes 256 (leNat (header kind sparse n m rows cols payload.length) + 2 ^ 160 * idx) ++ payload

/-- A tile entry of 31 granules at 8 KB times its number. -/
def tileAt (j : Nat) (st : TileState) : TileEnt :=
  { base := BitVec.ofNat 20 (0x2000 * j), cap := 31, ring := none, phase := false, st := st, aliasOf := j, fault := none }

/-- Tiles of a task, 8 KB apart; the entries that are not given are EMPTY. -/
def tiled (s : State) (ts : List (Nat × List Byte)) : State :=
  withTask s fun k => { k with
    tiles := (List.range 16).map fun j => (j, tileAt j (if ts.any (fun x => x.1 == j) then .ready else .empty))
    spad := ts.foldl (fun m x => Memory.writeN m (0x2000 * x.1) x.2) k.spad, spadSize := 0x20000 }

/-- Tile 1 of BF16 and tile 3 of INT8, dense; tiles 5 and 6 of INT8 with a bitmap of eight elements; tile 10 of FP32. -/
def tiles0 : List (Nat × List Byte) :=
  [(1, tileBytes 1 0 0 0 4 8 0 (leBytes 64 0x3F80)), (3, tileBytes 5 0 0 0 8 8 0 (leBytes 64 0x0201)), (5, tileBytes 5 2 0 0 8 8 8 (leBytes 16 (0xFF + 2 ^ 64 * 0x0102))),
    (6, tileBytes 5 2 0 0 8 8 8 (leBytes 16 (0x8040201008040201 + 2 ^ 64 * 0x0102))), (10, tileBytes 3 0 0 0 4 16 0 (leBytes 256 0x3F800000))]

/-- The parts of a source, as a test. -/
def sourceB (k : Task) (n : Tile) : Bool :=
  match k.tileKey n.toNat with
  | some j => decide ((k.tileEnt j).st = .ready ∨ (k.tileEnt j).st = .draining) && (k.tileFault (k.tileEnt j) n.toNat).isNone
  | none => false

/-- The test is sound. -/
theorem source_of_sourceB {k : Task} {n : Tile} (t : sourceB k n = true) : ∃ j ent, Claim.source k n j ent := by
  unfold sourceB at t
  split at t
  · rename_i j g
    simp only [Bool.and_eq_true, decide_eq_true_eq, Option.isNone_iff_eq_none] at t
    exact ⟨j, _, g, rfl, t.1, t.2⟩
  · cases t

/-- The header of a tile by its number. -/
def hdr0 (s : State) (j : Nat) : TileHdr := hdrOf (Claim.tileBytes (s.task 1) ((s.task 1).tileEnt j)).1

/-- A plane of a kind word. -/
def plane0 (kindw : Nat) : Plane :=
  { valid := true, kext := 8, next := 8, kindw := BitVec.ofNat 32 kindw, vals := [(0, 1#32), (65, 2#32)], scales := [] }

/-- A word before the tiles given, banks 0 and 1 under the names 2 and 3, and planes. -/
def mat (js : List Nat) (s : State) (active shadow : Plane) (hold : Option Nat) : State :=
  withCtx (banked (tiled s (tiles0.filter fun x => js.contains x.1)) [(2, 0), (3, 1)] []) fun c => { c with active := active, shadow := shadow, hold := hold }

/-- The engine takes an instruction of lanes in Active. -/
abbrev Takes (s : State) (i : Instr) : Prop :=
  Goes s i ∧ s.activeOf h uid (ent s) ≠ 0#64 ∧ (s.core (s.dueUnit uid).core).mresetBusy = false ∧
    ∀ o ∈ (s.core (s.dueUnit uid).core).ctx.mops, o.accepted = true

theorem test_witness_PlanesLoad :
    (∀ hold ∈ [none, some 1],
      let s := mat [3] (at_ (f128 0xE0 0 0 0 0 0 3 0 0 0 0 0 0)) (plane0 1) (plane0 5) hold
      Takes s (.mlds h 3#6) ∧ sourceB (s.task (s.dueUnit uid).task) 3#6 = true ∧ (hdr0 s 3).kind = 5 ∧ (hdr0 s 3).sparse = 0 ∧ (hdr0 s 3).cols ≤ 64) ∧
    (let s := mat [3] (at_ (f128 0xE0 0 0 0 0 1 3 0 0 0 0 0 0)) (plane0 1) (plane0 (5 + 2 ^ 24)) (some 1)
     Takes s (.mldsK1 h 3#6) ∧ sourceB (s.task (s.dueUnit uid).task) 3#6 = true ∧ (hdr0 s 3).kind = 5 ∧
       (s.core (s.dueUnit uid).core).ctx.hold = some (s.dueUnit uid).task ∧
       (s.core (s.dueUnit uid).core).ctx.shadow.kindw.toNat % 2 ^ 20 = (hdr0 s 3).kindw % 2 ^ 20) ∧
    ∀ hold ∈ [none, some 1],
      let s := mat [] (at_ (f64 0xE1 0 0 0 0 0)) (plane0 1) (plane0 5) hold
      Takes s (.mswp h) ∧ (s.core (s.dueUnit uid).core).ctx.mops = [] := by decide +kernel

/-- The banks of a pass over rows, as a test. -/
def passBanksB (s : State) (a : BankN) (rows : List Nat) (i32 : Bool) (k0 k1 : Nat) : Bool :=
  let high := rows.any fun r => decide (32 ≤ r)
  let c := (s.core (s.dueUnit uid).core).ctx
  decide (s.bankOf (s.dueUnit uid).task a.toNat = some k0) && (!high || decide (s.bankOf (s.dueUnit uid).task (a.toNat + 1) = some k1)) &&
    decide ((s.task (s.dueUnit uid).task).core = (s.dueUnit uid).core) &&
    (k0 :: if high then [k1] else []).all fun k => decide ((c.bank k).task = (s.dueUnit uid).task) && decide ((c.bank k).i32 = i32) && c.claims.all fun q => q.bank != k

/-- The test is sound. -/
theorem passBanks_of_passBanksB {s : State} {a : BankN} {rows : List Nat} {i32 : Bool} {k0 k1 : Nat} (t : passBanksB s a rows i32 k0 k1 = true) :
    Claim.PassBanks s uid a rows i32 k0 k1 := by
  simp only [passBanksB, Bool.and_eq_true, decide_eq_true_eq, List.all_eq_true, bne_iff_ne, Bool.or_eq_true, Bool.not_eq_true'] at t
  obtain ⟨⟨⟨a1, a2⟩, a3⟩, a4⟩ := t
  have g : ∀ P : Prop, (∃ r ∈ rows, 32 ≤ r) → ((rows.any fun r => decide (32 ≤ r)) = true → P) → P := fun P x y =>
    y (by simpa [List.any_eq_true] using x)
  refine ⟨a1, fun x => g _ x fun y => ?_, a3, fun k m => ?_⟩
  · exact a2.resolve_left (by simp [y])
  · have b := a4 k (by
      rcases m with rfl | ⟨x, rfl⟩
      · simp
      · exact g _ x fun y => by simp [y])
    exact ⟨b.1.1, b.1.2, b.2⟩

/-- Passes of a group over one bank and of a sequencer over rows 31 and 32 of two, the reservation past and not. -/
theorem test_witness_PassesAccepted :
    ∀ p ∈ [(at_ (f128 0xE2 0 0 0 0 1 3 0 0 0 0 2 0), Instr.mma h true 2#6 3#6 0#8, 0#8, 5), (at_ (f128 0xE3 0 0 0 0 0 3 0 0 0 0 2 0), .mmas h false 2#6 3#6 0#8, 0#8, 5 + 2 ^ 8 + 2 ^ 13 + 2 ^ 18),
        (withRegs (single .seq (f128 0xE2 0 0xC9 0 0 1 3 0 0 0 0 2 0)) [(9, 0x180000000#64)], .mma h true 2#6 3#6 0xC9#8, 0xC9#8, 5)],
      (let s := mat [3] p.1 (plane0 p.2.2.2) (plane0 1) (some 1)
       let rows := Claim.passRows s h uid (ent s) p.2.2.1
       Takes s p.2.1 ∧ passBanksB s 2#6 rows (decide (p.2.2.2 % 256 = 5)) 0 1 = true ∧ rows ≠ [] ∧ sourceB (s.task (s.dueUnit uid).task) 3#6 = true ∧
         (s.core (s.dueUnit uid).core).ctx.hold = some (s.dueUnit uid).task ∧ (hdr0 s 3).kind = 5 ∧ (hdr0 s 3).sparse = 0 ∧
         (s.core (s.dueUnit uid).core).cyc.ult (s.core (s.dueUnit uid).core).ctx.passEnd = false) ∧
      (let s := withCtx (mat [3] p.1 (plane0 p.2.2.2) (plane0 1) (some 1)) fun c => { c with passEnd := 0xFFFF#64 }
       Takes s p.2.1 ∧ passBanksB s 2#6 (Claim.passRows s h uid (ent s) p.2.2.1) (decide (p.2.2.2 % 256 = 5)) 0 1 = true ∧
         sourceB (s.task (s.dueUnit uid).task) 3#6 = true ∧ (s.core (s.dueUnit uid).core).cyc.ult (s.core (s.dueUnit uid).core).ctx.passEnd = true) := by
  decide +kernel

theorem test_witness_OtherPassesAccepted :
    (let s := mat [5, 6] (at_ (f128 0xE4 0 0 0 0 0 5 6 0 0 0 2 0)) .none .none none
     Takes s (.mbmp h false 2#6 5#6 6#6 0#8) ∧ (s.core (s.dueUnit uid).core).cyc.ult (s.core (s.dueUnit uid).core).ctx.passEnd = false ∧
       sourceB (s.task (s.dueUnit uid).task) 5#6 = true ∧ sourceB (s.task (s.dueUnit uid).task) 6#6 = true ∧
       passBanksB s 2#6 (Claim.passRows s h uid (ent s) 0#8) true 0 1 = true ∧ (hdr0 s 5).kind = 5 ∧ (hdr0 s 6).kind = 5 ∧ (hdr0 s 5).sparse = 2 ∧ (hdr0 s 6).sparse = 2) ∧
    (let s := mat [10] (at_ (f128 0xE5 0 0 0 0 0 10 0 0 0 0 0 0)) .none .none none
     Takes s (.mhad h .p16 10#6) ∧ sourceB (s.task (s.dueUnit uid).task) 10#6 = true ∧ ((s.task (s.dueUnit uid).task).tileEnt 10).st = .ready ∧
       (hdr0 s 10).kind = 3 ∧ (hdr0 s 10).sparse = 0 ∧ (hdr0 s 10).cols = 16) ∧
    (let s := mat [1] (at_ (f128 0xE6 0 0 0 0 0x042 14 1 0 0 0 0 0)) .none .none none
     Takes s (.mprn h 2#4 0#2 true 14#6 1#6) ∧ sourceB (s.task (s.dueUnit uid).task) 1#6 = true ∧ (s.task (s.dueUnit uid).task).tileKey 14 = some 14 ∧
       ((s.task (s.dueUnit uid).task).tileEnt 14).st = .empty ∧ (hdr0 s 1).kind = 1 ∧ (hdr0 s 1).sparse = 0 ∧ (hdr0 s 1).rows % 4 = 0 ∧ (hdr0 s 1).cols % 4 = 0 ∧
       (payloadSize 1 1 (hdr0 s 1).rows (hdr0 s 1).cols 2 4 0).2 ≤ 256 * ((s.task (s.dueUnit uid).task).tileEnt 14).cap) := by decide +kernel

/-- ACRD's row and ACST's rows are the last of the bank. -/
theorem test_witness_DrainsAccepted :
    (let s := mat [] (at_ (f64 0xEA 0 0 0 2 0)) .none .none none
     Takes s (.acz h 2#6) ∧ passBanksB s 2#6 [] true 0 0 = true) ∧
    (let s := mat [] (at_ (f128 0xEB 16 0 0 0 0 0 0 0 0 0 2 1)) .none .none none
     Takes s (.acrdVector h 1#2 16 2#6) ∧ passBanksB s 2#6 (lanesOf (s.activeOf h uid (ent s))) true 0 0 = true) ∧
    (let s := mat [] (at_ (f128 0xEB 0xC3 0 0 0 0 0 0 0 0 0 2 (31 + 2 ^ 8 * 63))) .none .none none
     Takes s (.acrdScalar h 3 2#6 31#5 63#6) ∧ passBanksB s 2#6 [31] true 0 0 = true) ∧
    (let s := mat [] (at_ (f128 0xEC 0xC3 0 0 0 0x0D5 14 0 0 0 0 2 (24 + 2 ^ 8 * 8 + 2 ^ 16 * 64))) .none .none none
     Takes s (.acst h .int8 true false (some (.s 3)) .rz 14#6 2#6 24#5 8#6 64#7) ∧ passBanksB s 2#6 [] true 0 0 = true ∧
       (s.task (s.dueUnit uid).task).tileKey 14 = some 14 ∧ ((s.task (s.dueUnit uid).task).tileEnt 14).st = .empty ∧
       8 * 64 * 1 ≤ 256 * ((s.task (s.dueUnit uid).task).tileEnt 14).cap) := by decide +kernel

/-- An operation in flight of a unit. -/
def flying (u : Nat) (i : Instr) : MatOp :=
  { id := 50, unit := u, lane := 0, task := 1, instr := i, pc := 0#64, accepted := true, turn := false, doneAt := 0#64, banks := [], rows := [], tile := 0, srcs := [] }

theorem test_witness_MatrixStatus :
    (∀ p ∈ [(f64 0xED 0xC3 0 0 0 0, Instr.mstat h .plane (.s 3)), (f64 0xED 0xC3 0 0 2 1, .mstat h (.bank 2#6) (.s 3)), (f64 0xED 0xC3 0 0 9 1, .mstat h (.bank 9#6) (.s 3)),
        (f64 0xED 0xC3 0 0 2 2, .mstat h (.mark 2#6) (.s 3)), (f64 0xED 0xC3 0 0 0 3, .mstat h .busy (.s 3)), (f64 0xEE 0 0 0 0 0, .mwait h)],
      let s := mat [] (at_ p.1) .none .none none
      Goes s p.2 ∧ s.bankOf (s.dueUnit uid).task 2 = some 0 ∧ ((s.core (s.dueUnit uid).core).ctx.bank 0).task = (s.dueUnit uid).task ∧
        s.bankOf (s.dueUnit uid).task 9 = none ∧ (s.core (s.dueUnit uid).core).ctx.claims = [] ∧ (s.core (s.dueUnit uid).core).ctx.mops = []) ∧
    (let s := withCtx (at_ (f64 0xEE 0 0 0 0 0)) fun c => { c with mops := [flying uid (.acz h 2#6)] }
     Goes s (.mwait h) ∧ s.activeOf h uid (ent s) ≠ 0#64 ∧ ∃ o ∈ (s.core (s.dueUnit uid).core).ctx.mops, o.unit = uid) := by decide +kernel

/-- A descriptor of BF16 elements in two dimensions, 8 by 4 of them at 0x8000, its version word at 0x9000; the other extents are 1 (R266). -/
def desc0 : List Byte :=
  leBytes 128 (0x8000 + 2 ^ 64 * (1 + 2 ^ 8 + 2 ^ 19) + 2 ^ 128 * 8 + 2 ^ 160 * 8 + 2 ^ 192 * 2 + 2 ^ 256 * 4 + 2 ^ 288 * 4 + 2 ^ 320 * 16
    + ((List.range 3).map fun k => 2 ^ (384 + 128 * k) + 2 ^ (416 + 128 * k)).sum + 2 ^ 960 * 0x9000)

/-- A ring of slots in phase 0. -/
def ring0 (first count r w : Nat) : RingSt :=
  { init := true, first := first, count := count, rptr := r, rph := false, wptr := w, wph := false, rev := false }

/-- Tiles 1 and 3 hold data; ring 1 has its slots at the EMPTY entries 12 to 14, and ring 2 at 1 and 2. -/
def ringed (s : State) : State :=
  withTask (tiled s (tiles0.take 2)) fun k => { k with rings := [(1, ring0 12 3 0 2), (2, ring0 1 2 0 1)] }

/-- Those, the descriptor in memory and in scratchpad, their addresses, a box at the origin and a shape in registers. -/
def copyAt (bs : List Byte) : State :=
  withRegs (withTask ((ringed (at_ bs)).homeWriteN 0x6000 desc0) fun k => { k with spad := Memory.writeN k.spad 0x1F000 desc0 })
    [(4, 0x6000#64), (5, 0x1F000#64), (9, 0x00040004#64)]

/-- A tile's breach does not hang on the number by which it is named. -/
theorem tileFault_any {k : Task} {e : TileEnt} {x y : Nat} (t : k.tileFault e x = none) : k.tileFault e y = none := by
  unfold Task.tileFault at *
  cases f : e.fault with
  | some a => simp [f] at t
  | none =>
    simp only [f] at t ⊢
    split at t
    · cases t
    · simp only

/-- What CPL and CPS read: the descriptor in memory at 0x6000, or in scratchpad at 0x1F000. -/
def descB (s : State) (dsp : Bool) : Bool :=
  if dsp then decide (0x1F000 + 128 ≤ (s.task (s.dueUnit uid).task).spadSize) && decide (desc0 = Memory.readN (s.task (s.dueUnit uid).task).spad 0x1F000 128)
  else match (s.due uid).laneXlat uid 0x6000#64 128 .r with
    | .ok pas => pas.all (fun p => (remotePkg s p).isNone && !s.byteWaits (s.dueUnit uid).core p &&
        decide ((s.core (s.dueUnit uid).core).farByte uid (lowest (s.activeOf h uid (ent s))) p = .absent)) &&
        decide (desc0 = pas.map fun p => s.viewByte (s.dueUnit uid).core p)
    | _ => false

/-- The test is sound. -/
theorem descAt_of_descB {s : State} {dsp : Bool} (t : descB s dsp = true) :
    Claim.DescAt s h uid (ent s) dsp (if dsp then 0x1F000#64 else 0x6000#64) desc0 := by
  unfold Claim.DescAt descB at *
  cases dsp
  · simp only [Bool.false_eq_true, if_false] at t ⊢
    refine ⟨by decide, ?_⟩
    split at t
    · rename_i pas g
      simp only [Bool.and_eq_true, List.all_eq_true, decide_eq_true_eq, Option.isNone_iff_eq_none, Bool.not_eq_true'] at t
      exact ⟨pas, g, fun p m => ⟨(t.1 p m).1.1, (t.1 p m).1.2, (t.1 p m).2⟩, t.2⟩
    · cases t
  · simp only [if_true, Bool.and_eq_true, decide_eq_true_eq] at t ⊢
    exact ⟨by decide, t.1, t.2⟩

/-- CPL into a tile and into a ring's slot, from memory and from scratchpad; CPS of a tile, of a ring's READY slot, and of one that is not READY; CPF; and
CPX of a tile. -/
theorem test_witness_CopiesStart :
    (∀ p ∈ [(f128 0xF0 0 0xC4 0xC6 0 0 14 0 0 0 0 0 0, Instr.cpl h false false none (.tile 14#6) (.s 4) (.s 6), false, 14),
        (f128 0xF0 0 0xC5 0xC6 0 0x00A 0 0 1 0 0 0 0, .cpl h false true none (.ring 1#4) (.s 5) (.s 6), true, 14)],
      let s := copyAt p.1
      let k := s.task (s.dueUnit uid).task
      let d := descOf desc0 (Claim.coords (s.dueUnit uid) 6) none
      Goes s p.2.1 ∧ s.activeOf h uid (ent s) ≠ 0#64 ∧ k.tileKey 14 = some 14 ∧ k.rings.get 1 = some (ring0 12 3 0 2) ∧ descB s p.2.2.1 = true ∧
        descBad desc0 d true false = none ∧ d.loadHdr.count ≤ 256 * (k.tileEnt p.2.2.2).cap ∧ d.zeroBox = false ∧ (k.tileEnt p.2.2.2).st = .empty) ∧
    (∀ p ∈ [(f128 0xF1 0 0xC4 0xC6 0 0x020 1 0 0 0 0 0 0, Instr.cps h true false false (.tile 1#6) (.s 4) (.s 6)),
        (f128 0xF1 0 0xC4 0xC6 0 0x002 0 0 2 0 0 0 0, .cps h false false false (.ring 2#4) (.s 4) (.s 6)),
        (f128 0xF1 0 0xC4 0xC6 0 0x002 0 0 1 0 0 0 0, .cps h false false false (.ring 1#4) (.s 4) (.s 6))],
      let s := copyAt p.1
      let k := s.task (s.dueUnit uid).task
      let d := descOf desc0 (Claim.coords (s.dueUnit uid) 6) none
      let hd := hdrOf (Memory.readN k.spad (k.tileEnt 1).base.toNat 256)
      Goes s p.2 ∧ k.tileKey 1 = some 1 ∧ (k.tileEnt 1).st = .ready ∧ k.rings.get 2 = some (ring0 1 2 0 1) ∧ (k.tileEnt 1).phase = false ∧ descB s false = true ∧
        descBad desc0 d false false = none ∧ k.tileFault (k.tileEnt 1) 0 = none ∧ sourceMismatch d hd = none ∧ (d.storeBox hd).isSome ∧
        k.rings.get 1 = some (ring0 12 3 0 2) ∧ (k.tileEnt 12).st ≠ .ready) ∧
    (let s := copyAt (f128 0xF2 0 0xC4 0xC9 0 0 14 0 0 0 0 0 0x01000001)
     let k := s.task (s.dueUnit uid).task
     let b := ((s.dueUnit uid).src64 (.s 9) 0).toNat
     Goes s (.cpf h (.tile 14#6) (.s 4) (.s 9) 0x01000001#32) ∧ k.tileKey 14 = some 14 ∧ fillBad 0x01000001#32 (b % 2 ^ 16) (b / 2 ^ 16 % 2 ^ 16) = none ∧
       b % 2 ^ 16 = 4 ∧ b / 2 ^ 16 % 2 ^ 16 = 4 ∧ (4 * 4 * kindBits 1 + 7) / 8 ≤ 256 * (k.tileEnt 14).cap ∧ (k.tileEnt 14).st = .empty) ∧
    (let s := copyAt (f128 0xF3 0 0 0 0 1 14 3 0 0 0 0 0)
     let k := s.task (s.dueUnit uid).task
     Goes s (.cpx h true (.tile 14#6) 3#6) ∧ k.tileKey 14 = some 14 ∧ sourceB k 3#6 = true ∧ k.tileKey 3 = some 3 ∧ (hdr0 s 3).sparse = 0 ∧
       (hdr0 s 3).count ≤ 256 * (k.tileEnt 14).cap ∧ (k.tileEnt 14).st = .empty) := by decide +kernel

/-- A copy in flight of a kind, of a unit, into or from a tile. -/
def copying (u : Nat) (kind : CopyKind) (tile : Nat) : CopyOp :=
  { unit := u, lane := 0, task := 1, pc := 0#64, kind := kind, desc := desc0, coords := [0, 0, 0, 0, 0], ext := none, a := 7#64, b := 0x00040004#64, tile := tile,
    hdr := [], count := 0, version := none, started := false, wrote := false, fault := none, lines := [], served := [], draw := 0 }

theorem test_witness_CopyWait :
    ∀ p ∈ [(true, none, false), (false, some (0x12, 5#64), false), (false, none, true), (false, none, false)],
      let s := withCtx (withUnit (at_ (f64 0xF4 0 0 0 0 0)) fun u => { u with copyFault := p.2.1, copyWrote := p.2.2 }) fun c =>
        { c with copies := [(9, copying (if p.1 then uid else 77) (.fill 0x01000001#32) 14)] }
      Goes s (.cpw h) ∧ s.activeOf h uid (ent s) ≠ 0#64 ∧ (s.dueUnit uid).copyFault = p.2.1 ∧ (s.dueUnit uid).copyWrote = p.2.2 ∧
        decide (∃ o ∈ (s.core (s.dueUnit uid).core).ctx.copies.vals, o.unit = uid) = p.1 := by decide +kernel

/-- AWF and RLS of ring 2, whose slot is READY, and of ring 1, whose slot is not; RSTA; and RINI over new slots and over its own. -/
theorem test_witness_RingInstructions :
    ∀ p ∈ [(f64 0xF6 0xC3 0 0 2 1, Instr.awf h (some (.s 3)) 2#4), (f64 0xF6 0xC3 0 0 1 1, .awf h (some (.s 3)) 1#4), (f64 0xF7 0 0 0 2 0, .rlsRing h 2#4),
        (f64 0xF7 0 0 0 1 0, .rlsRing h 1#4), (f64 0xF8 0xC3 0 0 2 0, .rsta h (.s 3) 2#4), (f128 0xF5 0 0 0 0 0 8 0 2 0 0 0 4, .rini h 2#4 8#6 4#5),
        (f128 0xF5 0 0 0 0 0 0 0 1 0 0 0 0, .rini h 1#4 0#6 0#5)],
      let s := ringed (at_ p.1)
      let k := s.task (s.dueUnit uid).task
      Goes s p.2 ∧ s.activeOf h uid (ent s) ≠ 0#64 ∧ k.rings.get 1 = some (ring0 12 3 0 2) ∧ k.rings.get 2 = some (ring0 1 2 0 1) ∧ (k.tileEnt 1).st = .ready ∧
        (k.tileEnt 1).phase = false ∧ (k.tileEnt 1).fault = none ∧ (k.tileEnt 12).st = .empty ∧ k.tiles.length = 16 ∧
        ∀ x ∈ List.range 16, (k.tileEnt x).st ≠ .filling ∧ (k.tileEnt x).st ≠ .draining := by decide +kernel

/-- TBIND.sp's slot ends with the task's scratchpad, or is one byte too low. -/
theorem test_witness_TileInstructions :
    (∀ p ∈ [(f64 0xF7 0 0 0 3 1, Instr.rlsTile h 3#6), (f64 0xF9 0xC3 0 0 3 3, .tsta h 3#3 (.s 3) 3#6), (f64 0xF9 0xC3 0 0 3 0, .tsta h 0#3 (.s 3) 3#6),
        (f128 0xFA 0 0xC3 0 0 0 3 0 0 0 0 0 512, .tbindSp h 3#6 (.s 3) 512#32), (f128 0xFA 0 0xC4 0 0 0 3 0 0 0 0 0 512, .tbindSp h 3#6 (.s 4) 512#32),
        (f128 0xFA 0 0 0 0 1 3 0 2 0 0 0 0, .tbindRd h 3#6 2#4), (f128 0xFA 0 0 0 0 2 3 0 2 0 0 0 0, .tbindWr h 3#6 2#4), (f128 0xFA 0 0 0 0 3 3 0 0 0 0 0 0, .tbindSelf h 3#6)],
      let s := withRegs (ringed (at_ p.1)) [(3, 0x1FD00#64), (4, 0x1FCFF#64)]
      let k := s.task (s.dueUnit uid).task
      Goes s p.2 ∧ s.activeOf h uid (ent s) ≠ 0#64 ∧ k.tileKey 3 = some 3 ∧ (k.tileEnt 3).st = .ready ∧ k.rings.get 2 = some (ring0 1 2 0 1) ∧
        ((s.dueUnit uid).src64 (.s 3) 0).toNat % 256 = 0 ∧ ((s.dueUnit uid).src64 (.s 3) 0).toNat + 256 + 512 ≤ k.spadSize ∧
        ((s.dueUnit uid).src64 (.s 4) 0).toNat % 256 ≠ 0) := by decide +kernel

/-- The engine with one operation in flight of a unit that issues nothing. -/
def inFlight (s : State) (o : MatOp) : State := withCtx { s with cur := none } fun c => { c with mops := [o] }

/-- What a completion needs of an operation alone in flight, as a test. -/
def completesB (s : State) (o : MatOp) : Bool :=
  decide ((s.core 0).ctx.mops = [o]) && o.accepted && !((s.core 0).cyc.ult o.doneAt)

/-- The test is sound. -/
theorem mayComplete_of_completesB {s : State} {o : MatOp} (t : completesB s o = true) : Claim.mayComplete s 0 o.id o := by
  simp only [completesB, Bool.and_eq_true, decide_eq_true_eq, Bool.not_eq_true'] at t
  exact ⟨[], [], t.1.1, t.1.2, rfl, t.2, by simp⟩

/-- A load, a zeroing, a pass over accumulator row 31, drains, and the operations that fill a tile. -/
theorem test_witness_MatrixCompletions :
    let s0 := mat [3] (at_ (f64 0xE1 0 0 0 0 0)) (plane0 5) (plane0 5) (some 1)
    (∀ i ∈ [Instr.mlds h 3#6, .mldsK1 h 3#6, .mhad h .p16 14#6, .mprn h 2#4 0#2 false 14#6 3#6, .acst h .int8 true false none .rz 14#6 2#6 24#5 8#6 64#7],
      let o := { flying uid i with tile := 14 }
      completesB (inFlight s0 o) o = true) ∧
    (let o := { flying uid (.acz h 2#6) with rows := (List.range 32).map fun r => (r, 0, r) }
     completesB (inFlight s0 o) o = true ∧ ((inFlight s0 o).core 0).ctx.banks.get 0 = some { task := 1, i32 := true, ovf := false, cells := [], marks := 0#32, freeing := false }) ∧
    (let o := { flying uid (.mma h false 2#6 3#6 0#8) with rows := [(7, 0, 31)], srcs := [Claim.tileBytes (s0.task 1) ((s0.task 1).tileEnt 3)] }
     let s := inFlight s0 o
     completesB s o = true ∧ ((s.core 0).ctx.banks.get 0).isSome ∧ (s.core 0).ctx.active.kindw.toNat % 256 = 5 ∧ (hdrOf (o.srcs.getD 0 ([], [])).1).kind = 5 ∧
       (s.core 0).ctx.active.next ≤ 64 ∧ (s.core 0).ctx.active.kext ≤ 128) ∧
    (let o := { flying uid (.acrdScalar h 3 2#6 31#5 63#6) with rows := [(31, 0, 31)] }
     let s := withUnit (inFlight s0 o) fun u => { u with vpend := [{ dst := .r (.s 3), mask := 1#64, req := 50 }] }
     completesB s o = true ∧ (s.unit uid).vpend.filter (fun v => v.req == 50) = [{ dst := .r (.s 3), mask := 1#64, req := 50 }] ∧ (s.unit uid).runAhead = none) ∧
    (let o := { flying uid (.acrdVector h 1#2 176 2#6) with rows := (lanesOf 0xFF#64).map fun l => (l, 0, l) }
     let s := withUnit (inFlight s0 o) fun u => { u with vpend := (acrdRegs 176).map fun y => { dst := y, mask := 0xFF#64, req := 50 } }
     completesB s o = true ∧ (s.unit uid).vpend.filter (fun v => v.req == 50) = (acrdRegs 176).map (fun y => { dst := y, mask := 0xFF#64, req := 50 }) ∧
       (s.unit uid).runAhead = none) := by decide +kernel

theorem test_witness_WaitingPassAccepted :
    ∀ i ∈ [Instr.mma h true 2#6 3#6 0#8, .mbmp h false 2#6 5#6 6#6 0#8],
      let s0 := at_ (f128 0xE2 0 0 0 0 1 3 0 0 0 0 2 0)
      let o := { flying uid i with accepted := false, turn := true, pc := (ent s0).pc }
      let s := inFlight s0 o
      (s.core 0).ctx.mops.find? (fun p => !p.accepted && p.turn) = some o ∧ (s.core 0).cyc.ult (s.core 0).ctx.passEnd = false ∧ (s.core 0).mresetBusy = false ∧
        (s.unit uid).pick = some (ent s0) := by decide +kernel

/-- A copy in flight before tiles 1 and 3, nothing issued. -/
def copyIn (o : CopyOp) : State :=
  withCtx { ringed (at_ (f64 0xF4 0 0 0 0 0)) with cur := none } fun c => { c with copies := [(9, o)] }

/-- Only 2:4 metadata can be malformed. -/
theorem expand_bad {d : Desc} (t : d.twoFour = false) (cols n : Nat) :
    ∀ xs bs acc, (d.expand cols n xs bs acc).bad = acc.bad
  | [], _, _ => rfl
  | x :: xs, bs, acc => by
    rw [Desc.expand, expand_bad t cols n xs]
    unfold Desc.decode
    simp only [t, Bool.false_eq_true, if_false]
    repeat' split
    all_goals first | rfl | (rename_i g; repeat' split at g)
    all_goals cases g

/-- A load of any other format makes a tile. -/
theorem loadTile_isSome {d : Desc} (t : d.twoFour = false) (draw version : Nat) (bytes : List Byte) : (d.loadTile draw version bytes).isSome := by
  simp [Desc.loadTile, expand_bad t]

/-- Fills, a move, loads that end with data and with a fault, and stores that end so. -/
theorem test_witness_CopyEnds :
    (let w := 0x01000005#32
     ((copyIn (copying uid (.fill w) 14)).core 0).ctx.copies.get 9 = some (copying uid (.fill w) 14) ∧ w.toNat / 2 ^ 24 = 1 ∧ w.toNat / 2 ^ 8 % 2 ^ 16 = 0) ∧
    (let o := { copying uid (.move false 3) 14 with hdr := tileBytes 5 0 0 0 8 8 0 [], count := 64 }
     ((copyIn o).core 0).ctx.copies.get 9 = some o ∧ 192 ≤ o.hdr.length) ∧
    (let o := copying uid (.load false) 14
     let s := copyIn o
     (s.core 0).ctx.copies.get 9 = some o ∧ o.d.image = false ∧
       (match s.engineXlat 0 o.task .r o.d.loadVas with
        | .ok pas => pas.all (fun p => (remotePkg s p).isNone && !s.byteWaits 0 p && decide ((s.core 0).farByte 9 0 p = .absent))
        | _ => false) = true ∧ o.d.twoFour = false ∧
       (let s' := { withCore s (fun c => { c with tlb := [] }) with undeliverable := [((s.task 1).asn, 0)] }
        (match s'.engineXlat 0 o.task .r o.d.loadVas with
        | .fault _ cause _ => decide (cause < 128)
        | _ => false) = true)) ∧
    (∀ p ∈ [(true, none), (false, some (0x12, 7#64))],
      let o := { copying uid (.store p.1 false) 1 with started := true, fault := p.2 }
      let s := copyIn o
      (s.core 0).ctx.copies.get 9 = some o ∧ s.remoteOps = [] ∧ (s.unit uid).copyFault = none) := by decide +kernel

/-- A load whose page is not there, an `.aon` store that finds an even version word, and a line that a store owns, with another waiting and with none. -/
theorem test_witness_CopyWaitsEnd :
    (let o := copying uid (.load false) 14
     let s := withCore (copyIn o) fun c => { c with tlb := [] }
     (s.core 0).ctx.copies.get 9 = some o ∧ o.d.image = false ∧ (match s.engineXlat 0 o.task .r o.d.loadVas with
        | .miss g => g == 0
        | _ => false) = true) ∧
    (let o := { copying uid (.store false true) 1 with hdr := tileBytes 1 0 0 0 4 8 0 [] }
     let s := (copyIn o).homeWriteN 0x9000 [6#8]
     (s.core 0).ctx.copies = [(9, o)] ∧ (hdrOf o.hdr).erows ≠ 0 ∧ (hdrOf o.hdr).ecols ≠ 0 ∧
       (match s.engineXlat 0 o.task .rw [o.d.version] with
        | .ok pas => decide (pas = [0x9000])
        | _ => false) = true ∧ s.owned 0x9000 = false ∧
       (∀ j, j < 4 → (s.core 0).l1.get (0x9000 + j) = none) ∧ bytesVal ((List.range 4).map fun j => s.homeByte (0x9000 + j)) % 2 = 0) ∧
    ∀ q ∈ [[], [(0, 0, 77)]],
      let o := { copying uid (.store false false) 1 with started := true, lines := [(0x100, [(0x8001, 0x77#8, 0xFF#8)])] }
      let s := { copyIn o with lines := [(0x100, { epoch := 3#16, owner := some (0, 0, 9), queue := q })] }
      (s.lineDir 0x100).owner = some (0, 0, 9) ∧ (s.core 0).ctx.copies.get 9 = some o ∧ lineOf 0x8001 = 0x100 ∧ (s.lineDir 0x100).queue = q := by
  decide +kernel

/-- A strand of the access engine with streams, queue 3 with two free places at the foot of scratchpad, and nothing issued. -/
def accIn (xs : List (Nat × Stream)) : State :=
  withTask (withUnit { accAt (f64 0xCA 0 0 0 6 0) [] with cur := none } fun u => { u with streams := xs }) fun k =>
    { k with queues := [(3, { base := 0, cap := 3, head := 1, count := 1, closed := false })] }

/-- An operation that has only its entry to append. -/
def entryOf (i : Instr) (out : List (List (List W32) × W32)) : Stream := { Stream.start i 5 0#64 0#64 0#64 0#64 with out := out, finished := true }

theorem test_witness_AccessEvents :
    (∀ x ∈ [entryOf (.qput h true 3#3 (.s 8) (.s 9)) [([[1#32, 2#32]], 0x00010000#32)], entryOf (.qend h 3#3) [([[]], 0x00110000#32)]],
      let s := accIn [(2, x)]
      (s.unit uid).streams.get 2 = some x ∧ (s.task (s.unit uid).task).st = .resident ∧ x.out.length = 1 ∧ x.finished = true ∧
        (∀ y ∈ (s.unit uid).streams.vals, y.seq < x.seq → 3#3 ∉ prodOf y.instr) ∧
        (s.task (s.unit uid).task).queues.get 3 = some { base := 0, cap := 3, head := 1, count := 1, closed := false }) ∧
    (let x := entryOf (.qendX h none) []
     let s := accIn [(2, x)]
     (s.unit uid).streams = [(2, x)] ∧ (s.task (s.unit uid).task).st = .resident ∧
       edgesFreeB (s.modUnit uid fun u => { u with streams := [] }) uid [0] = true) ∧
    (let s := withUnit (accIn []) fun u => { u with accFault := some (0x14, 5#64, 0x1000#64, 0xC0), appended := [3] }
     (s.unit uid).accFault = some (0x14, 5#64, 0x1000#64, 0xC0) ∧ (s.task (s.unit uid).task).st = .resident ∧ (s.unit uid).streams = [] ∧
       (s.unit uid).poison = none ∧ (s.unit uid).appended = [3] ∧
       (s.task (s.unit uid).task).queues.get 3 = some { base := 0, cap := 3, head := 1, count := 1, closed := false } ∧ edgesFreeB s uid [0] = true) ∧
    ((accIn []).unit uid).kind = .acc := by decide +kernel

/-- A state of a task with a record in memory in which nothing issues. -/
def idle0 : State := { withRecord (at_ (f64 0xA2 0 0 0 0 0)) with cur := none }

/-- A page table that maps the first page of size 2 of address space 1 onto itself, and records for launches at 0x2200, 0x2300 and 0x2000: one that
counts five, one of more registers than a core has, and one that counts none. -/
def tabled : State :=
  { ((((idle0.homeWriteN 0xA000 (leBytes 32 (0xB000 + 2 ^ 160))).homeWriteN 0xB000 (leBytes 16 (2 ^ 63 + 2 ^ 64 * 7))).homeWriteN 0x2200 (record0.set 4 5#8)).homeWriteN
      0x2300 ((((record0.set 4 5#8).set 0x70 255#8).set 0x72 64#8).set 0x73 64#8)) with ptDesc := [(5, 0xA000#64)] }.modPart 1 fun p => { p with clusters := [0, 1, 16, 35] }

/-- Entries that wait for placement, their numbers from one up. -/
def entries (from_ n : Nat) : List QEntry :=
  (List.range n).map fun k =>
    { id := from_ + k, part := 1, asn := 1, proc := 3, launch := 50, record := record0, addr := 0x2000#64, arg := 7#64, depth := 2,
      index := 4#32, parent := none, home := 0, claimed := false, cont := none, passed := 1 }

/-- A launch of five tasks. -/
def launch0 : Launch := { part := 1, asn := 1, proc := 3, record := record0, addr := 0x2000#64, count := 5, next := [], live := 5 }

theorem test_witness_LaunchesMove :
    (∀ p ∈ [(0x2000, false, false), (0x2200, true, false), (0x2300, true, true)],
      p.1 % 256 = 0 ∧ p.1 < 2 ^ 48 ∧ (match tabled.translate walkCore 1 1 p.1 .r with
        | .ok pa => (recMalformed (tabled.homeReadN pa 256) true).isNone == p.2.1 && (!p.2.1 || tabled.fitsNone 1 (tabled.homeReadN pa 256) == p.2.2)
        | _ => false) = true) ∧
    (let s := { tabled with launches := [(50, launch0)] }
     s.emittable 0 1 ≠ [] ∧ (s.emittable 0 1).head? = some (50, 0) ∧ s.launches.get 50 = some launch0 ∧ s.overflowOf 0 1 = [] ∧
       (s.canopyOf 0 1).length < 8 ∧ (s.die 0).canopy.length < 2048) ∧
    (let s := { (tabled.modDie 0 fun d => { d with canopy := entries 200 20 }).modPart 1 (fun p => { p with overflow := (entries 500 11).map fun e => (1, e) }) with copse := [(0, entries 100 12)] }
     (s.core 0).glade.length < 8 ∧ s.mayPlace 0 = true ∧ (s.copseOf 1).length < 8 ∧ (s.canopyOf 1 1).length < 8 ∧ s.overflowOf 1 1 ≠ []) ∧
    (tabled.isDry 0 1 = true ∧ (tabled.die 0).dry.get 1 = none ∧ (tabled.die 0).stolen.get 1 = none) ∧
    (∀ n ∈ [15, 16],
      let s := (tabled.modDie 1 fun d => { d with canopy := entries 200 n }).modDie 0 fun d => { d with dry := [(1, [1, 2])] }
      (s.die 0).dry.get 1 = some [1, 2] ∧ (s.canopyOf 1 1).length = n) ∧
    (let s := tabled.modDie 0 fun d => { d with stolen := [(1, entries 300 4)] }
     (s.die 0).stolen.get 1 = some (entries 300 4) ∧ (s.die 0).canopy.length + (entries 300 4).length ≤ 2048) := by decide +kernel

/-- What placement needs of the first that fits of a list, as a test. -/
def firstB (s : State) (es : List QEntry) : Bool :=
  match s.firstFit 0 es with
  | some x => decide (x.2.1.cont ≠ some x.2.1.id) && x.2.2.length == (groupList x.2.1.record).length
  | none => false

/-- A continuation that fits; and with none, an entry of the glade queue. -/
theorem test_witness_TasksPlaced :
    (∀ c ∈ [(none : Option Nat), some 7],
      let e := (entries 102 1).map fun e => { e with cont := c }
      let s0 := withCtx (idle0.setTask 7 { idle0.task 1 with st := .pending, units := [] }) fun k => { k with tasks := [1, 7] }
      let s := withCore s0 fun k => { k with glade := entries 100 2, conts := e }
      s.mayPlace 0 = true ∧ s.resumeList 0 = [] ∧ (∀ e ∈ (s.core 0).glade, e.claimed = true ∨ s.fitsEmpty 0 e.record = true) ∧ firstB s (s.core 0).conts = true) ∧
    (let s := withCore idle0 fun k => { k with glade := entries 100 2 }
     s.mayPlace 0 = true ∧ s.resumeList 0 = [] ∧ (∀ e ∈ (s.core 0).glade, e.claimed = true ∨ s.fitsEmpty 0 e.record = true) ∧
       s.firstFit 0 (s.core 0).conts = none ∧ firstB s (gladeOrder (s.core 0).glade) = true) := by decide +kernel

/-- Every strand of the task has exited. -/
def allOver (s : State) : State :=
  { s with units := s.units.mapVal fun _ u => { u with frontier := [], lanes := u.lanes.mapVal fun _ x => { x with st := .exited } } }

theorem test_witness_TasksComplete :
    (∀ g ∈ [none, some { join := false, addr := 0x2000#64, record := record0, arg := 7#64 }, some { join := true, addr := 0x2000#64, record := record0, arg := 7#64 }],
      let s := withTask (allOver idle0) fun k => { k with reg := g, joins := 1 }
      (s.tasks.get 1).isSome ∧ (s.task 1).st = .resident ∧ (s.task 1).units ≠ [] ∧ (∀ u ∈ (s.task 1).units, (s.unit u).isOver = true) ∧
        (∀ o ∈ (s.core (s.task 1).core).ctx.copies.vals, o.task ≠ 1) ∧ ∀ o ∈ (s.core (s.task 1).core).ctx.mops, o.task ≠ 1) ∧
    (∀ p ∈ [(some 100, 3, 1), (some 100, 1, 1), (none, 1, 1), (none, 1, 2)],
      let f : Frame := { frame0 with pend := p.2.1, status := 3, task := 5 }
      let s := { withTask idle0 fun k => { k with st := .done, units := [], parent := p.1, launch := 50 } with frames := [(100, f)], launches := [(50, { launch0 with live := p.2.2 })] }
      (s.tasks.get 1).isSome ∧ (s.task 1).st = .done ∧ (s.task 1).parent = p.1 ∧ s.frames.get 100 = some f ∧ f.task ≠ 1 ∧ (s.launches.get 50).isSome) := by
  decide +kernel

/-- A partition with eight spill slots, of which slot 0 is in use, and a core long idle with an entry waiting. -/
def spilling (s : State) : State :=
  withCore (s.modPart 1 fun p => { p with slots := [(0, .park 9)], arena := { p.arena with splCnt := 8#16, splBase := 0xC0000#64 } }) fun c =>
    { c with glade := entries 100 1, cyc := 70000#64, failSince := [(1, 4464#64)] }

/-- Every lane awaits a frame. -/
def awaiting_ (s : State) : State :=
  { s with frames := [(100, { frame0 with status := 2 })],
           units := s.units.mapVal fun _ u => { u with frontier := u.frontier.map fun e => { e with blk := some .await }, lanes := u.lanes.mapVal fun _ x => { x with frame := some 100 } } }

theorem test_witness_TasksPark :
    (let s := withTask (spilling (awaiting_ idle0)) fun k => { k with awaitSince := some 7#64 }
     s.parkable 1 = true ∧ (s.freeSpillSlot (s.task 1).part).isSome) ∧
    (let s0 := withCtx (withTask (spilling (awaiting_ idle0)) fun k => { k with st := .parked, slot := some 0, planes := some (plane0 1, plane0 5) }) fun c => { c with tasks := [] }
     let s := { s0 with frames := [(100, { frame0 with status := 4, pend := 0 })] }
     (s.resumable 1).isSome ∧ 100 ∈ s.framesOf 1 ∧ s.frames.get 100 = some { frame0 with status := 4, pend := 0 }) ∧
    ((withTask idle0 fun k => { k with restoring := true, slot := some 0 }).task 1).restoring = true ∧
    (let s := withTask (spilling idle0) fun k => { k with st := .pending, units := [] }
     (s.core (s.task 1).core).failSince.get 1 = some 4464#64 ∧ (s.task 1).st = .pending ∧ 1 ∈ (s.core (s.task 1).core).ctx.tasks ∧
       65536 ≤ ((s.core (s.task 1).core).cyc - 4464#64).toNat ∧ (s.freeSpillSlot (s.task 1).part).isSome) := by decide +kernel

/-- A group that waits for registers. -/
def growing (regs regmax want : Nat) : State :=
  withCtx (withUnit idle0 fun u => { u with regs := regs, regmax := regmax, frontier := u.frontier.map fun e => { e with blk := some (.rgrow (.s 5) want) } }) fun c =>
    { c with rgrow := [(uid, want, .s 5, 4#64)] }

/-- A grant and a denial. -/
theorem test_witness_GrantsAnswer :
    (let s := growing 16 96 96
     s.firstGrow 0 = some (uid, 96, .s 5, 4#64) ∧ s.canGrow 0 (uid, 96, .s 5, 4#64) = true ∧
       ∃ e ∈ (s.unit uid).frontier, hasLane e.mask 7 = true ∧ e.blk = some (.rgrow (.s 5) 96) ∧ ∀ x ∈ (s.unit uid).frontier, hasLane x.mask 7 = true → x = e) ∧
    (let s := growing 16 20000 19000
     s.firstGrow 0 = some (uid, 19000, .s 5, 4#64) ∧ s.lastGrow 0 = some (uid, 19000, .s 5, 4#64) ∧ s.canGrow 0 (uid, 19000, .s 5, 4#64) = false ∧
       ∀ m ∈ s.residentUnits 0, (s.unit m).kind = .group → (s.unit m).isOver = true ∨ (s.unit m).inGrow = true) := by decide +kernel

/-- An entry that has come for a waiting lane, and an outgoing edge. -/
theorem test_witness_GrantsAnswer_edges :
    (let lp : Loop := { loop0 false with src := .queue 3#3 [] false, waiting := [3] }
     let x : Entry := { ent (at_ (f64 0xA2 0 0 0 0 0)) with mask := laneBit 3, blk := some (.grant 2#2) }
     let s := withTask (withUnit idle0 fun u => { u with loop := some lp, frontier := [x] }) fun k =>
       { k with queues := [(3, queue0 1 false)], spad := Memory.writeN (Memory.writeN [] (48 + 32) (leBytes 4 0x10001)) 48 (leBytes 4 0x77) }
     let u := s.unit uid
     u.runAhead = none ∧ u.service = [] ∧ u.loop = some lp ∧ 1 ≤ u.width ∧ u.frontier = [x] ∧ x.solo = false ∧ (u.lane 3).st = .live ∧ (u.lane 3).mreset = false ∧
       (u.lane 3).grant = none ∧ (match s.takeEntry u.task 3#3 with
         | some (w, _) => hasFlag w.tag tagEmpty == false && hasFlag w.tag tagPoison == false && tagCount w.tag == 1 && w.words.head?.isSome
         | none => false) = true) ∧
    (let s := withUnit (allOver idle0) fun u => u
     (s.units.get uid).isSome ∧ (s.unit uid).runAhead = none ∧ (s.unit uid).service = [] ∧ (s.unit uid).entryOf 3 = none ∧ edgesFreeB s uid [] = true ∧
       ∀ x ∈ (s.core (s.unit uid).core).l1, x.1 < 2 ^ 39) := by decide +kernel

/-- Run-ahead that has ended at its limit of instructions, over two pages. -/
def ahead0 : RunAhead :=
  { vregs := [(5, 7#32)], sregs := [(1, 9#64)], preds := [], lanes := [], frontier := [ent (at_ (f64 0xA2 0 0 0 0 0))], nominal := 4, late := [], loop := none, issued := 512,
    pages := [5, 9], stopped := 0#64, missed := 1#64, unresolved := [] }

theorem test_witness_PageFaultsServed :
    (let s := withUnit idle0 fun u => { u with runAhead := some ahead0 }
     (s.unit uid).runAhead = some ahead0 ∧ (s.unit uid).aheadEnded = true) ∧
    (let s := withUnit idle0 fun u => { u with service := [7, 9] }
     (s.unit uid).kind ≠ .acc ∧ (s.unit uid).service ≠ []) := by decide +kernel

/-- A fault record, opened in cycle 4. -/
def coal0 : CoalRec :=
  { kind := 1, cause := 0x10, part := 1, proc := 1, addr := 0x50000#64, groups := 5#256, lane := 3, pc := 0x1000#64, cyc := 4#64 }

/-- A record just 256 cycles old, and a ring of four places of which three are full, at their wrap. -/
theorem test_witness_RecordsWritten :
    (let s := withCore idle0 fun c => { c with coal := [coal0, coal0], cyc := 260#64 }
     (s.core 0).coal = [coal0, coal0] ∧ (s.core 0).coalWait = [] ∧ 256 ≤ ((s.core 0).cyc - coal0.cyc).toNat) ∧
    (let s := (withCore idle0 fun c => { c with coalClosed := [coal0] }).modPart 1 fun p =>
       { p with arena := { p.arena with frBase := 0xB1000#64, frLog := 2#5, frHead := 7#32, frTail := 4#32 } }
     let a := (s.part coal0.part).arena
     (s.core 0).coalClosed = [coal0] ∧ (s.core 0).coalWait = [] ∧ a.frLog ≠ 0#5 ∧ (a.frHead - a.frTail).toNat ≠ 2 ^ a.frLog.toNat ∧
       a.frBase.toNat + 64 * (a.frHead.toNat % 2 ^ a.frLog.toNat) + 64 ≤ 2 ^ 39) := by decide +kernel

/-- A core that reports hangs of 512 cycles, after 900. -/
def hanging : State :=
  withTask (withCore idle0 fun c => { c with hangEn := true, hangLim := 9#5, cyc := 900#64 }) fun k => { k with hungSent := false }

theorem test_witness_HangsReport :
    (let s := hanging
     let k := s.task 1
     (s.core k.core).hangEn = true ∧ k.hungSent = false ∧ k.st = .resident ∧ 1 ∈ (s.core k.core).ctx.tasks ∧ s.liveGroups 1 ≠ [] ∧ s.awaitsChild 1 = false ∧
       s.hasStopped 1 = false ∧ 2 ^ (s.core k.core).hangLim.toNat ≤ ((s.core k.core).cyc - k.lastAct).toNat ∧ ∀ u ∈ k.units, (s.unit u).core = k.core) ∧
    (let s := withUnit hanging fun u => { u with lastRelease := some 388#64, frontier := u.frontier.map fun e => { e with blk := some .syng } }
     let u := s.unit uid
     u.kind = .group ∧ u.frontier ≠ [] ∧ (∀ x ∈ u.frontier, x.blk = some .syng) ∧ u.lastRelease = some 388#64 ∧ u.task ∈ (s.core u.core).ctx.tasks ∧
       2 ^ (s.core u.core).hangLim.toNat ≤ ((s.core u.core).cyc - 388#64).toNat) := by decide +kernel

/-- A sample whose data has come. -/
def sample0 : Sample := { unit := uid, lane := 3, pc := 0x1000#64, opc := 0xE1#8, mask := 0xFF#64, sectors := 7, replays := 2, req := none }

theorem test_witness_DebugEvents :
    (let c : Comparator := { addr := 0x1000#64, en := true, all := true, slot := 0#11 }
     let s := withCore idle0 fun k => { k with comparators := [(2, c)] }
     ∃ e ∈ (s.unit uid).frontier, (s.unit uid).entryOf 3 = some e ∧ e.blk = none ∧ e.solo = false ∧ s.firstInstr uid e.pc 4096 = e.pc ∧
       (s.core (s.unit uid).core).comparators.get 2 = some c ∧ c.addr = e.pc) ∧
    (∀ b ∈ [true, false], let s := withUnit idle0 fun u => { u with frontier := u.frontier.map fun e => { e with blk := some (.stopped b) } }
      ∃ e ∈ (s.unit uid).frontier, (s.unit uid).entryOf 3 = some e ∧ e.blk = some (.stopped b)) ∧
    (∀ ctl ∈ [(0xC0000014, true), (0x80000014, false)],
      let s := withCore (traced idle0) fun c => { c with traceCtl := BitVec.ofNat 32 ctl.1, samples := [{ sample0 with req := some 4 }, sample0] }
      (s.core 0).samples = [{ sample0 with req := some 4 }] ++ sample0 :: [] ∧ (s.unit uid).core = 0 ∧ (s.core 0).traceCtl.getLsbD 30 = ctl.2 ∧
        ∃ g ∈ (s.die 0).segments, g.closed = false ∧ g.recs.length + 2 ≤ 32762) := by decide +kernel

/-- A segment of one record. -/
def segment0 (place n : Nat) (closed submitted : Bool) : Segment :=
  { place := place, segno := n, recs := [{ seq := n, aux := 5, ty := 3, cyc := 8#64, pc := 0x1000#64, data := 7#32, core := 0, part := 1, unit := 2, lane := 3, body := none }],
    closed := closed, submitted := submitted, overwritten := 0 }

theorem test_witness_SegmentsFlow :
    (let s := (withCore idle0 fun c => { c with traceCtl := 0xC0000009#32, cyc := 517#64, lastTrace := 5#64 }).modDie 0 fun d => { d with segments := [segment0 0 3 false false] }
     segment0 0 3 false false ∈ (s.die 0).segments ∧ (∃ r ∈ (segment0 0 3 false false).recs,
       2 ^ nbits (s.core r.core).traceCtl.toNat 0 5 ≤ ((s.core r.core).cyc - (s.core r.core).lastTrace).toNat)) ∧
    (∀ n ∈ [0, 0x200000],
      let s := idle0.modDie 0 fun d => { d with segments := [segment0 0 3 true true, segment0 1 4 true false], staging := BitVec.ofNat 64 n, overwritten := 6 }
      (s.die 0).segments = [segment0 0 3 true true] ++ segment0 1 4 true false :: [] ∧ (s.die 0).staging.toNat = n ∧ (segment0 1 4 true false).recs.length ≤ 32762 ∧
        (∀ r ∈ (segment0 1 4 true false).recs, r.bytes.length = 32) ∧ (s.die 0).prevDigest.length = 64) ∧
    (let s := idle0.modDie 0 fun d => { d with segments := [segment0 0 3 true false, segment0 1 4 true true] }
     (s.die 0).segments = [segment0 0 3 true false] ++ segment0 1 4 true true :: []) := by decide +kernel

/-- What every listed value satisfies, a value that is found satisfies. -/
theorem get_of_all {α : Type} {P : α → Prop} : ∀ {m : SMap α}, (∀ x ∈ m, P x.2) → ∀ {k v}, SMap.get m k = some v → P v
  | [], _, _, _, g => by cases g
  | (j, w) :: m, t, k, v, g => by
    unfold SMap.get at g
    split at g
    · cases g; exact t (j, w) (by simp)
    · exact get_of_all (fun x y => t x (List.mem_cons_of_mem _ y)) g

/-- What every listed core and a core after reset satisfy, every core satisfies. -/
theorem core_of_all {s : State} {P : Core → Prop} (t : (∀ x ∈ s.cores, P x.2) ∧ P .reset) (c : Nat) : P (s.core c) := by
  unfold State.core
  cases g : s.cores.get c with
  | none => exact t.2
  | some x => exact get_of_all t.1 g

/-- Without a listed line, no line has an owner. -/
theorem no_owner {s : State} (t : s.lines = []) (line : Nat) : (s.lineDir line).owner = none := by simp [State.lineDir, t, SMap.get]

/-- A slice whose set 5 holds a prefetch fill that is due. -/
def slice0 : Slice :=
  { sets := [(5, [{ line := 3, way := 1, used := 4 }, { line := 4, way := 2, used := 9 }])], ctrs := [(3, 4)], hits := 3, misses := 4, retained := 1, drops := 6,
    fillDue := some (5, 1, 3) }

theorem test_witness_SramAndResidency :
    (let s := withCtx (withCore idle0 fun c => { c with l1pend := true, l1next := 4#3 }) fun c => { c with tasks := [] }
     (s.core 0).l1pend = true ∧ (s.core 0).ctx.tasks = [] ∧ (s.core 0).spill = false ∧ s.linesDue 0 = false ∧
       ∀ a ∈ (s.core 0).dirtyAddrs, s.owned a = false ∧ a < 2 ^ 39) ∧
    (let s := { idle0 with slices := [(3, slice0)] }
     s.slices.get 3 = some slice0 ∧ slice0.fillDue = some (5, 1, 3)) := by decide +kernel

/-- A set of tasks 5 and 6 of core 0. -/
def set0 : CtxSet := { core := 0, ctx := { CoreCtx.none with tasks := [5, 6], hold := some 5, active := plane0 5 } }

/-- Tasks 5 and 6 out of the core, their set in slot 4, and slot 4 named for the fill. -/
def swapping (f : Core → Core) : State :=
  withCore (({ idle0 with tasks := (idle0.tasks.set 5 { idle0.task 1 with st := .spilled, units := [] }).set 6 { idle0.task 1 with st := .pending, units := [] } }).modPart 1
    fun p => { p with slots := [(4, .set set0)], clusters := [0] }) fun c => f { c with sslot := 3#16, fslot := 4#16 }

theorem test_witness_SetsSwap :
    (∀ p ∈ [(true, true), (true, false), (false, false)], let s := swapping fun c => { c with ready := p.1 && p.2, fill := p.1 && !p.2, spill := !p.1 }
      (s.core 0).ready = (p.1 && p.2) ∧ (s.core 0).fill = (p.1 && !p.2) ∧ (s.core 0).spill = !p.1) ∧
    (let s := swapping fun c => { c with fill := true }
     (s.core 0).fill = true ∧ (s.part (s.corePart 0)).slots.get (s.core 0).fslot.toNat = some (.set set0) ∧ set0.core = 0) ∧
    (let s := swapping fun c => { c with fill := true, fslot := 9#16 }
     (s.core 0).fill = true ∧ (s.part (s.corePart 0)).slots.get (s.core 0).fslot.toNat = none) ∧
    (∀ force ∈ [true, false], let s := swapping fun c => { c with ready := true, shadow := some set0, forceSwap := force, softSwap := !force, yielded := true }
      (s.core 0).shadow = some set0 ∧ (s.core 0).ready = true ∧ (s.core 0).spill = false ∧ ((s.core 0).forceSwap = true ∨ ((s.core 0).softSwap = true ∧ (s.core 0).yielded = true))) ∧
    (let s := swapping fun c => { c with spill := true, spillSet := some set0 }
     (s.core 0).spill = true ∧ (s.core 0).spillSet = some set0 ∧ s.awaitsData 0 set0.ctx.tasks = false ∧ (s.core 0).loadWait = false ∧ (s.core 0).clearWait = false) ∧
    (∀ hold ∈ [none, some 1], let s := swapping fun c => { c with spill := true, spillWork := [1], ctx := { c.ctx with hold := hold } }
      (s.core 0).spill = true ∧ (s.core 0).spillSet = none ∧ (s.core 0).spillWork = [1] ∧ (s.core 0).loadWait = false ∧ (s.core 0).clearWait = false ∧
        (s.tasks.get 1).isSome ∧ (s.task 1).core = 0 ∧ (s.core 0).ctx.hold = hold) := by decide +kernel

/-- A reset of an engine that holds a task's bank, one of an engine that is busy, and its end. -/
theorem test_witness_EngineResets :
    (let s := mat [] idle0 .none .none (some 1)
     (s.core 0).mresetBusy = false ∧ s.endedSet 0 = [1] ∧ ((s.task 1).units ≠ []) ∧ s.lines = []) ∧
    ((withCore idle0 fun c => { c with mresetBusy := true, mresetCount := 3 }).core 0).mresetBusy = true := by decide +kernel

/-- The greatest page of a size, the greatest address space, and an invalidation under way. -/
theorem test_witness_TlbInvalidations :
    ((1023 < 1024) ∧ (2 < 3) ∧ (0xFFFFFFFFFFFF#64 : W64).toNat < 2 ^ 48 ∧ (4095 < 4096)) ∧
    (let s := idle0.modPart 1 fun p => { p with tlbBusy := true, tlbScope := 2#2, clusters := [0] }
     (s.part 1).tlbBusy = true ∧ s.accessesDone 1 = true ∧ s.remoteOps = [] ∧ ∀ c ∈ s.partCores 1, ∀ a ∈ (s.core c).dirtyAddrs, remotePkg s a = none) := by
  decide +kernel

/-- Each command bit clear, and an entry of the comparators and of the lost bits. -/
theorem test_witness_RegisterWrites :
    ((0xFFFF000010000002#64 : W64).getLsbD 0 = false ∧ (0xFFFF000010000002#64 : W64).getLsbD 2 = false ∧ (0xFFFF000010000002#64 : W64).getLsbD 3 = false) ∧
      ((withCore idle0 fun c => { c with comparators := [(2, { addr := 0#64, en := false, all := false, slot := 0#11 })] }).core 0).comparators.get 2 =
        some { addr := 0#64, en := false, all := false, slot := 0#11 } := by decide +kernel

/-- A page table of 64 KB pages whose one entry has a control word, and every core's L1 clean. -/
def migrating (w1 : Nat) : State :=
  { (idle0.homeWriteN 0xA000 (leBytes 32 0xB000)).homeWriteN 0xB000 (leBytes 16 (2 ^ 63 + 1 + 2 ^ 64 * w1)) with
    ptDesc := [(3, 0xA000#64)], cores := idle0.cores.mapVal fun _ c => { c with l1 := [] } }

theorem test_witness_PagesMigrate :
    (idle0.migration = none ∧ idle0.pageEntry 1 0 0x10000 = none) ∧
    (∀ p ∈ [(0x20007, 0), (0x20017, 1)],
      let s := migrating p.1
      s.migration = none ∧ (match s.pageEntry 1 0 0x10000 with
        | some x => decide (nbits x.w1 4 1 = p.2) && decide (x.at_ + 16 ≤ 2 ^ 39)
        | none => false) = true) ∧
    (let m : Migration := { asn := 1, size := 0, va := 0x10000#64, entry := 0xB000, pfn := 8, copied := false }
     let s := { migrating 0x2006F with migration := some m }
     s.migration = some m ∧ (∀ p ∈ s.parts.keys, s.accessesDone p = true) ∧ (∀ p ∈ s.parts.keys, ∀ c ∈ s.partCores p, (s.core c).dirtyAddrs = []) ∧ s.remoteOps = [] ∧
       m.entry + 16 ≤ 2 ^ 39 ∧ pageBase 0 (bytesVal (s.homeReadN (m.entry + 8) 8)) + 2 ^ pageShift 0 ≤ 2 ^ 39 ∧ pageBase 0 (m.pfn * 2 ^ 16) + 2 ^ pageShift 0 ≤ 2 ^ 39 ∧
       m.entry + 16 ≤ pageBase 0 (m.pfn * 2 ^ 16)) := by decide +kernel

/-- A process with a resident task; and one whose engines are idle and whose bytes are clean. -/
theorem test_witness_ProcessesEnd :
    (let s := withTask idle0 fun k => { k with proc := 3 }
     3 ∉ s.deadProcs ∧ (s.tasks.get 1).isSome ∧ (s.task 1).proc = 3 ∧ (s.task 1).st = .resident ∧ (s.task 1).units ≠ []) ∧
    (let s := withTask idle0 fun k => { k with proc := 3 }
     3 ∉ s.deadProcs ∧ (∀ c, (s.core c).ctx.copies = [] ∧ (s.core c).ctx.mops = [] ∧ (s.core c).dirtyAddrs = []) ∧ (∀ u ∈ s.units.vals, u.streams = []) ∧ s.remoteOps = [] ∧
       ∀ line, (s.lineDir line).owner = none) :=
  ⟨by decide +kernel, by decide +kernel, core_of_all (P := fun c => c.ctx.copies = [] ∧ c.ctx.mops = [] ∧ c.dirtyAddrs = []) (by decide +kernel), by decide +kernel, by decide +kernel, no_owner (by decide +kernel)⟩

/-- Free clusters of two dies and a granule of each, the last of its die; and a partition without processes. -/
theorem test_witness_PartitionsMadeAndTornDown :
    (let s := State.reset
     let clusters := [(0, 1), (3, 9)]
     let granules := [(5, 1), (3 * 2048 + 1535, 9)]
     s.parts.get 40 = none ∧ (∀ c ∈ clusters, c.1 < 4 ∧ c.2 < 10 ∧ s.clusterPart (16 * c.1 + c.2) = 0) ∧
       (∀ g ∈ granules, g.1 / 2048 < 4 ∧ g.1 % 2048 < 1536 ∧ (g.1 / 2048, g.2) ∈ clusters ∧ 10 ≤ (s.die (g.1 / 2048)).home (g.1 % 2048)) ∧
       (granules.map Prod.fst).Nodup) ∧
    (let s := { idle0 with tasks := [], units := [] }.modPart 1 fun p => { p with granules := [(0, 0), (5, 1)] }
     (s.parts.get 1).isSome ∧ s.partProcs 1 = []) := by decide +kernel

/-- A package at rest, and an image of it. -/
def resting : State := { idle0 with cores := idle0.cores.mapVal fun _ c => { c with l1 := [] } }

theorem test_witness_CheckpointsRestore :
    (let s := resting
     (∀ c ∈ s.ownedCores, let x : Core := s.core c
       x.ready = false ∧ x.fill = false ∧ x.spill = false ∧ x.reqs = [] ∧ x.glade = [] ∧ x.coal = [] ∧ x.coalClosed = [] ∧ x.dirtyAddrs = [] ∧
         (∀ k, s.copseOf k = []) ∧ ∀ d, (s.die d).canopy = [] ∧ (s.die d).stolen = []) ∧
     (∀ line, (s.lineDir line).owner = none) ∧ ∀ u ∈ s.units.vals, u.runAhead = none) ∧
    (match exec .checkpoint resting with
      | .next t => t.image.isSome
      | _ => false) = true := by
  have q : ∀ k, resting.copseOf k = [] := by
    have e : resting.copse = [] := by decide +kernel
    simp [State.copseOf, e, SMap.get]
  have d : ∀ d, (resting.die d).canopy = [] ∧ (resting.die d).stolen = [] := fun d => by
    unfold State.die
    cases g : resting.dies.get d with
    | none => decide +kernel
    | some x => exact get_of_all (P := fun x => x.canopy = [] ∧ x.stolen = []) (by decide +kernel) g
  have c : ∀ c ∈ resting.ownedCores, (resting.core c).ready = false ∧ (resting.core c).fill = false ∧ (resting.core c).spill = false ∧ (resting.core c).reqs = [] ∧
      (resting.core c).glade = [] ∧ (resting.core c).coal = [] ∧ (resting.core c).coalClosed = [] ∧ (resting.core c).dirtyAddrs = [] := by decide +kernel
  refine ⟨⟨fun x m => ?_, no_owner (by decide +kernel), by decide +kernel⟩, by decide +kernel⟩
  obtain ⟨c1, c2, c3, c4, c5, c6, c7, c8⟩ := c x m
  exact ⟨c1, c2, c3, c4, c5, c6, c7, c8, q, d⟩

/-- A flit of another package to this one, at an address, under a mask. -/
def flit0 (tag addr : Nat) (mask : BitVec 128) (payload : List Byte) : Flit :=
  { src := 3, dst := 0, addr := addr, tag := tag, mask := mask, payload := payload, last := true, err := false }

/-- Requests at a free line and at one that an engine owns; the bytes of the atomic are the last eight of the line. -/
theorem test_witness_RequestsServed :
    let a : AtomCode := { opc := 0x86, op := 0, z := false, n := 8, b := 5, c := 0 }
    let m := flit0 7 0x3005 (BitVec.ofNat 128 (0xFF * 2 ^ 120)) a.payload
    (∀ l ∈ [([] : SMap LineDir), [(0x60, { epoch := 3#16, owner := some (0, 0, 1), queue := [] })]],
      let s := { idle0 with lines := l }
      (s.port 2).down = false ∧ m.dst = s.pkg ∧ s.owned (m.addr % 2 ^ 39 / 128 * 128) = !l.isEmpty) ∧
    (m.mask.getLsbD 120 = true ∧ (∀ j, j < 120 → m.mask.getLsbD j = false) ∧ (atomOf m.payload).n ≤ 8 ∧ m.addr % 2 ^ 39 / 128 * 128 + 120 + (atomOf m.payload).n ≤ 2 ^ 39) := by
  decide +kernel

/-- Requests outstanding to package 3. -/
def asking : State :=
  withCore idle0 fun c => { c with far := [(7, { unit := uid, lane := 3, pkg := 3, line := 40, mask := 0xFF#128, atomic := false, stamp := 4, data := none, lost := false }),
    (9, { unit := uid, lane := 3, pkg := 3, line := 41, mask := 0xFF#128, atomic := true, stamp := 4, data := none, lost := false })] }

theorem test_witness_AnswersArrive :
    (let m := flit0 7 (40 * 128) 0xFF#128 (List.replicate 128 5#8)
     (asking.port 2).down = false ∧ m.dst = asking.pkg ∧ (asking.farByTag false m).head? = some (0, 7) ∧ ((asking.core 0).far.get 7).isSome) ∧
    (let m := flit0 9 (41 * 128) 0xFF#128 (List.replicate 128 5#8)
     (asking.farByTag true m).head? = some (0, 9) ∧ ((asking.core 0).far.get 9).isSome) := by decide +kernel

/-- A port with a flit sent, resent eight times or fewer; a route that leads through it alone, or through one more. -/
theorem test_witness_PortsAndRoutes :
    ((idle0.port 2).down = false ∧ 3 ∉ idle0.lost ∧ (idle0.port 2).sendQ = []) ∧
    (∀ n ∈ [7, 8], let s := { idle0 with ports := [(2, { Port.reset with lastFlit := some (1, flit0 3 0 0#128 []), resends := n })] }
      (s.port 2).down = false ∧ ((s.port 2).lastFlit).isSome ∧ (s.port 2).resends = n) ∧
    (let s := { idle0 with routes := [(3, 0x24#16)], ports := [(5, { Port.reset with down := true })] }
     (s.port 2).down = false ∧ (0x24#16 : BitVec 16).getLsbD 2 = true ∧ 3 ∉ s.lost ∧ (s.port 5).down = true ∧
       ∀ n, n < 16 → (0x24#16 : BitVec 16).getLsbD n = true → n ≠ 2 → (s.port n).down = true) ∧
    (let s := { idle0 with routes := [(3, 0x24#16)] }
     (0x24#16 : BitVec 16).getLsbD 5 = true ∧ (s.port 5).down = false ∧ s.routes.get 3 = some 0x24#16) ∧
    (let s := { asking with lost := [3] }
     ((s.core 0).far.get 7).isSome ∧ 3 ∈ s.lost) := by decide +kernel

/-- Bytes that end with the memory of the package, free and owned. -/
theorem test_witness_HostAccesses :
    idle0.ownedRange (2 ^ 39 - 2) 2 = false ∧ 2 ^ 39 - 2 + 2 ≤ 2 ^ 39 ∧
      ({ idle0 with lines := [(0x60, { epoch := 3#16, owner := some (0, 0, 1), queue := [] })] }.ownedRange 0x307F 1 = true) := by decide +kernel

/-- A die of the package, its heartwood running and frozen. -/
theorem test_witness_PowerEvents :
    ∀ z ∈ [true, false], ((idle0.modDie 3 fun d => { d with heartFrozen := z }).dies.get 3).isSome ∧ ((idle0.modDie 3 fun d => { d with heartFrozen := z }).die 3).heartFrozen = z := by
  decide +kernel

theorem test_witness_PaddingPasses :
    let s := at_ [3#8, 0#8, 0#8, 0#8]
    s.cur = some uid ∧ (s.unit uid).pick = some (ent s) ∧ (ent s).mask ≠ 0#64 := by decide +kernel

/-- A word placed after reset, its unit due. -/
def placed (bs : List Byte) : State := State.reset.withFetchWord (8 * bs.length) (leNat bs)

/-- The entry that the placed word's unit selects. -/
def entP (s : State) : Entry := ((s.unit uid).pick).getD { pc := 0#64, prio := 0#2, mask := 0#64, blk := none, cnt := 0, aged := false, solo := false }

/-- A unit is to issue and nothing comes before it. -/
def dueB (s : State) : Bool :=
  decide (s.schedule = [.issue uid]) &&
    let s0 := { s with schedule := [] }
    s0.mayIssue uid && decide ((s.unit uid).pick = some (entP s)) && decide ((entP s).mask ≠ 0#64) && decide (s0.beforeIssue uid (entP s) = none)

/-- The sixteen bytes from the selected entry's PC, where they are read. -/
def fetched (s : State) : Option (List Byte) :=
  let s0 := { s with schedule := [] }
  let k := s0.task (s.unit uid).task
  match s0.translate (s.unit uid).core k.part k.asn (entP s).pc.toNat .x with
  | .ok pa => if (remotePkg s0 pa).isNone then
      some ((List.range 16).map fun j => (s0.fillTlb (s.unit uid).core k.asn (entP s).pc.toNat).codeByte uid (pa + j)) else none
  | _ => none

/-- A placed word that is decoded and issues, and a scheduled event. -/
theorem test_witness_StepRunsDecoded :
    (∀ p ∈ [(f64 0x04 5 3 0xC4 0 3, 8), (f128 0xE2 0 0 0 0 1 3 0 0 0 0 2 0, 16)],
      let s := placed p.1
      dueB s = true ∧ (entP s).pc.toNat % 4 = 0 ∧ (entP s).pc.toNat % 32 + p.2 ≤ 32 ∧ (match fetched s with
        | some bs => (match decode bs with
          | .ok (i, n) => n == p.2 && decide (instrFault i (s.unit uid) (s.task (s.unit uid).task).gang = none)
          | .error _ => false)
        | none => false) = true) ∧
    (let s := { State.reset with schedule := [.ev (.segmentClose 0)] }
     s.schedule = .ev (.segmentClose 0) :: [] ∧ (Instr.segmentClose 0).issues = false) := by decide +kernel

/-- The placed word's unit at another PC. -/
def placedAt (bs : List Byte) (pc : W64) : State :=
  withUnit ((placed bs).homeWriteN pc.toNat bs) fun u => { u with frontier := u.frontier.map fun e => { e with pc := pc } }

/-- A PC off a parcel, a word of sixteen bytes whose last parcel is in the next block, and a parcel of LEN 0b11 that is not PAD32. -/
theorem test_witness_FetchFaultsTrap :
    (let s := withUnit (placed (f64 0 0 0 0 0 0)) fun u => { u with frontier := u.frontier.map fun e => { e with pc := 0x1002#64 } }
     dueB s = true ∧ (s.unit uid).runAhead = none ∧ (s.unit uid).kind ≠ .acc ∧ (entP s).pc.toNat % 4 ≠ 0) ∧
    (let s := placedAt (f128 0xE2 0 0 0 0 1 3 0 0 0 0 2 0) 0x1014#64
     dueB s = true ∧ (match fetched s with
       | some bs => bytesVal (bs.take 4) % 4 == 2 && decide (32 < (entP s).pc.toNat % 32 + 8 + 4 * 2)
       | none => false) = true) ∧
    (let s := placedAt [7#8, 1#8, 0#8, 0#8] 0x1000#64
     dueB s = true ∧ (match fetched s with
       | some bs => bytesVal (bs.take 4) % 4 == 3 && bytesVal (bs.take 4) != 3
       | none => false) = true) := by decide +kernel

/-- ADD to a register that its group has not, of a register that is outstanding, and of one whose value is not due under the check bit. -/
theorem test_witness_IssueChecksFirst :
    let run (s : State) (d : Reg) (f i : Bool) (st : Bool) : Bool :=
      let ins : Instr := .add h true false d (.v 3) (.reg (.s 4))
      let u := s.dueUnit uid
      decide (s.cur = some uid) && decide (u.pick = some (ent s)) && decide ((ent s).mask ≠ 0#64) && decide ((ent s).solo = false) && u.runAhead.isNone && decide (u.kind ≠ .acc) &&
        ((instrFault ins u ((s.due uid).task u.task).gang).isSome == f) && (u.interlocked ins (s.activeOf h uid (ent s)) == i) &&
        (((s.due uid).shortOf u ins (s.activeOf h uid (ent s))).isSome == st)
    let s := at_ (f64 0x04 5 3 0xC4 0 1)
    run (withUnit s fun u => { u with regs := 64 }) (.v 64) true false false = true ∧
      run (withUnit s fun u => { u with vpend := [{ dst := .r (.v 3), mask := 1#64, req := 9 }] }) (.v 5) false true false = true ∧
      run (withTask (withUnit s fun u => { u with late := [{ due := u.nominal + 3, dst := .r (.v 3), vals := [(0, 5#64)] }] }) fun k => { k with record := gangRecord.set 1 0x08#8 })
        (.v 5) false false true = true := by decide +kernel

/-- The invariants at reset, from which a step goes on. -/
theorem test_witness_Invariants :
    Claim.MemoriesCanonical State.reset ∧ Claim.RegistersLegal State.reset ∧ ∃ t, step State.reset = .next t := by
  have g : State.reset.image = none := by decide +kernel
  refine ⟨⟨by decide +kernel, fun m e => ?_⟩, ⟨by decide +kernel, by decide +kernel, by decide +kernel, fun m e => ?_⟩, ?_⟩
  · rw [g] at e; cases e
  · rw [g] at e; cases e
  · have b : (match step State.reset with
      | .next _ => true
      | _ => false) = true := by decide +kernel
    split at b
    · rename_i t e; exact ⟨t, e⟩
    · cases b

/-! ### Terms that are not well formed, and reserved encodings -/

/-- Each breaks one check of `Instr.wf`: a guard of PRED 7 with PNEG, a guard of RFLI and of SYNG, an IMM8 source of a floating-point instruction, an IMM32
source of SHFL and FSCL, RM and Z that a reduction does not take, `.hi` of a 32-bit register, `.ovfnan` of CVT, modifiers and a source that a type of PACK does
not take, a zero-extending store, `.z` of an atomic addition, a register of TRAP.K with code 0, STRM of 128 bits, the extended size of GTH, `.keep` of a ring,
RINI's tile without a count, and numbers beyond their spaces. -/
def illFormed : List Instr :=
  let g : Hdr := { stall := 0#4, pred := 7#3, pneg := true }
  let p : Hdr := { stall := 0#4, pred := 3#3, pneg := false }
  [.nop g, .rfli p (.range 6) { plen := 6#8, blen := 10#12, tlen := 4#8, dlen := 8#7 }, .syng p, .fadd h .rn (.v 1) (.v 2) (.imm8 1#8), .shfl h .idx (.v 1) (.v 2) (.imm32 1#32),
    .fscl h .rn (.v 1) (.v 2) (.imm32 1#32), .rduc h .add .rz false (.v 1) (.v 2), .scan h .and .rn true false (.v 1) (.v 2), .mfs h true (.v 1) 0x00#8, .mts h true (.v 1) 0x0B#8,
    .cvt h .f16 .f32 .rn false true (.v 1) (.v 2), .pack h .s8 .rn true false false (.v 1) (.v 2) (.v 3) (.v 4), .pack h .f16 .rn false false false (.v 1) (.v 2) (.v 3) (.v 4),
    .st h .z8 (.v 1) (.s 4) none (.d8 0#8), .sts h .z16 (.v 1) (.s 4) none (.d8 0#8), .ast h .z8 (.s 1) 2#4 none (.d8 0#8), .atom h .add true false false false (.v 1) (.s 3) (.v 2) (.d8 0#8),
    .trapK h 0#8 (some (.s 1)), .strm h .b128 2#3 2#4 (.s 4) (.s 5) (.s 6), .gth h true 2#3 2#4 (.s 4) (.s 5) (.s 6) 4#9, .gthQ h true 2#3 2#4 (.s 4) 1#3 4#9,
    .cps h true false false (.ring 1#4) (.s 4) (.s 6), .rini h 1#4 3#6 0#5, .placement 256, .copyCompletion 256 0, .segmentClose 4, .residCtlWrite 1 8 0#32, .invalidatePage 1 1024 0 0#64,
    .invalidateAddressSpace 1 1024, .invalidateRemoteTarget 1 4096, .migrationCommand 1 3 0#64 0, .idle 16, .read 16 { src := 0, dst := 0, tag := 0, addr := 0, mask := 0#128, payload := [], last := true, err := false }]

theorem test_wf_refuses : (illFormed.all fun i => !i.wf) = true := by decide +kernel

theorem test_wf_accepts : ((arithmetic ++ logic ++ lanes ++ floating ++ packed ++ control ++ memory ++ tasks ++ access ++ matrix ++ copies).all fun p => p.2.wf) = true := by
  decide +kernel

/-- The WHY of the refusal of some bytes. -/
def whyOf (bs : List Byte) : Option Nat :=
  match decode bs with
  | .error (.illegal w) => some w.why
  | _ => none

/-- The table of R83: an unassigned OPC, LEN 0b11 that is not PAD32, a length that NOP has not, PRED 7 with PNEG, a BP of MOV, a field that CLZ does not use,
and a MOD that VOTE has not. -/
theorem test_decode_refuses :
    ([f64 0x01 0 0 0 0 0, [7#8, 0#8, 0#8, 0#8], fields 1 0 0 0 0 0 0 0 0, (f64 0 0 0 0 0 0).set 2 0x03#8, fields 0 0x02 5 0xC4 0 0 1 0 0, f64 0x1A 1 2 0 1 0, f64 0x23 5 1 0 0 4].map whyOf) =
      [some 1, some 2, some 3, some 4, some 5, some 6, some 7] := by decide +kernel

/-- On a group SEL with SC[7:3] not zero and VOTE with a vector destination do not issue (R189, R193). -/
theorem test_fault_at_issue :
    (instrFault (.sel h (.v 1) (.v 2) (.v 3) 8#8) ((at_ (f64 0 0 0 0 0 0)).dueUnit uid) false).isSome = true ∧
      ((instrFault (.vote h .ballot 5#8 1#8) ((at_ (f64 0 0 0 0 0 0)).dueUnit uid) false).map fun x => (x.1, x.2.toNat % 256)) = some (1, 8) := by decide +kernel

/-! ### Worked examples of the manual -/

/-- What a register of lane 0 holds after an instruction, in the end, from given vector registers of lane 0 and scalar registers. -/
def after (i : Instr) (v : List (Nat × Nat)) (r : List (Nat × Nat)) (d : Reg) : Nat :=
  let s := withUnit (at_ (f64 0 0 0 0 0 0)) fun u =>
    { u with vregs := v.map fun x => (64 * x.1, BitVec.ofNat 32 x.2), sregs := r.map fun x => (x.1, BitVec.ofNat 64 x.2) }
  match exec i s with
  | .next t => ((t.unit uid).regAt 1000 d 0).toNat
  | _ => 2 ^ 64

/-- The table after R183. -/
theorem test_mad : ([(false, false), (false, true), (true, true)].map fun m => after (.mad h m.1 m.2 (.v 6) (.v 2) (.v 3) (.v 4)) [(2, 0x10000), (3, 0x10000), (4, 5)] [] (.v 6)) =
    [5, 0x7FFFFFFF, 0xFFFFFFFF] := by decide +kernel
theorem test_mulh : after (.mulh h false (.v 6) (.v 2) (.reg (.v 3))) [(2, 0x10000), (3, 0x10000)] [] (.v 6) = 1 := by decide +kernel

/-- R185: a shift by the immediate −1. -/
theorem test_shl : after (.shl h (.v 4) (.v 4) (.imm8 0xFF#8)) [(4, 0xFFFFFFFF)] [] (.v 4) = 0 := by decide +kernel

/-- R186: of a vector register and of a scalar one. -/
theorem test_clz : after (.clz h (.v 4) (.v 2)) [(2, 0)] [] (.v 4) = 32 ∧ after (.clz h (.s 4) (.s 2)) [] [(2, 1)] (.s 4) = 63 := by decide +kernel

/-- The example after R187. -/
theorem test_bfx : ([false, true].map fun z => after (.bfx h z (.v 4) (.v 2) (.v 3)) [(2, 0xF50), (3, 0x804)] [] (.v 4)) = [0xFFFFFFF5, 0xF5] := by decide +kernel

/-- The examples after R188. -/
theorem test_bytx : after (.bytx h (.v 6) (.v 2) (.v 3) (.v 4)) [(2, 0x44332211), (3, 0x88776655), (4, 0x39172400)] [] (.v 6) = 0x00FFAA11 ∧
    after (.bytx h (.v 6) (.v 2) (.v 2) (.s 7)) [(2, 0x44332211)] [(7, 0x00010203)] (.v 6) = 0x11223344 := by decide +kernel

/-- The table after R201. -/
theorem test_cvt_integer :
    ([(Rm.rn, 0xFFFFFFFE), (.rz, 0xFFFFFFFE), (.rd, 0xFFFFFFFD)].all fun m => after (.cvt h .s32 .f32 m.1 false false (.v 4) (.v 2)) [(2, 0xC0200000)] [] (.v 4) == m.2) = true ∧
      ([false, true].map fun c => after (.cvt h .s8 .s32 .rn c false (.v 4) (.v 2)) [(2, 0x181)] [] (.v 4)) = [0xFFFFFF81, 0x7F] := by decide +kernel

/-- The same table, and the example of R98. -/
theorem test_cvt_float : after (.cvt h .f16 .f32 .rn true false (.v 4) (.v 2)) [(2, 0x49742400)] [] (.v 4) = 0x7BFF ∧
    ([0xC47A0000, 0x43FA0000, 0x3A83126F].map fun x => after (.cvt h .e4m3 .f32 .rn false false (.v 4) (.v 2)) [(2, x)] [] (.v 4)) = [0xFE, 0x7E, 0x01] ∧
    after (.cvt h .e4m3 .f32 .rn false true (.v 4) (.v 2)) [(2, 0x43FA0000)] [] (.v 4) = 0x7F := by decide +kernel

/-- R95 and R197: a canonical NaN, and a minimum with one NaN. -/
theorem test_nan : after (.fadd h .rn (.v 1) (.v 2) (.reg (.v 3))) [(2, 0xFFC00001), (3, 0x3F800000)] [] (.v 1) = 0x7FC00000 ∧
    after (.fmin h (.v 1) (.v 2) (.reg (.v 3))) [(2, 0x7FC00001), (3, 0x3F800001)] [] (.v 1) = 0x3F800001 := by decide +kernel

/-- R205: a branch back by sixteen parcels from 0x1000. -/
theorem test_bra : (match exec (.bra h 1#2 0xFFFFF0#24) (at_ (f64 0 0 0 0 0 0)) with
    | .next t => (t.unit uid).frontier.map fun e => (e.pc, e.prio)
    | _ => []) = [(0xFC0#64, 1#2)] := by decide +kernel

end Sys2Proof.Tests
end

section
/-! Every event, every issue of a selected unit and every step answers a next state (R8). -/

namespace Sys2Proof

/-! ### The opcode of an encoding does not depend on which form of an operand it carries -/

@[simp] theorem rawBI_opc (h : Hdr) (opc : BitVec 8) (m : BitVec 11) (d a : BitVec 8) (b : SrcB) : (rawBI h opc m d a b).opc = opc := by
  cases b <;> rfl

@[simp] theorem rawF2_opc (h : Hdr) (opc : BitVec 8) (m : BitVec 12) (d a : BitVec 8) (b : SrcB) : (rawF2 h opc m d a b).opc = opc := by
  cases b <;> rfl

@[simp] theorem withDisp_opc (r : Raw) (disp : Disp) : (withDisp r disp).opc = r.opc := by
  cases disp <;> rfl

@[simp] theorem rawMem_opc (h : Hdr) (opc m4 : BitVec 8) (m3 : BitVec 3) (d a : BitVec 8) (off : Option Reg) (disp : Disp) :
    (rawMem h opc m4 m3 d a off disp).opc = opc := withDisp_opc _ _

@[simp] theorem rawHnd_opc (h : Hdr) (opc : BitVec 8) (hn : HandleN) (l2 : Bool) (m3 : BitVec 3) (d : BitVec 8) (off : Option Reg)
    (disp : Disp) : (rawHnd h opc hn l2 m3 d off disp).opc = opc := withDisp_opc _ _

@[simp] theorem rawAtom_opc (h : Hdr) (opc : BitVec 8) (sub pub z : Bool) (op : BitVec 3) (wide : Bool) (d a b : Reg) (disp : Disp) :
    (rawAtom h opc sub pub z op wide d a b disp).opc = opc := withDisp_opc _ _

@[simp] theorem rawCopy_opc (h : Hdr) (opc : BitVec 8) (keep aon ext dsp tr : Bool) (dest : TileRef) (a b c : BitVec 8) (xtb : Tile)
    (ximm : W32) : (rawCopy h opc keep aon ext dsp tr dest a b c xtb ximm).opc = opc := by
  cases dest <;> rfl

end Sys2Proof

namespace Sys2Proof.Machine

/-! ### What an instruction or an event answers -/

/-- The instruction runs as an issue of the selected unit. -/
def RunsAsIssue (i : Instr) : Prop :=
  ∃ (h : Hdr) (body : Issue → State → Res) (post : Nat → State → State), ∀ s, exec i s = runIssueThen h i body post s

theorem runIssueThen_noIssuer (h : Hdr) (i : Instr) (body : Issue → State → Res) (post : Nat → State → State) {s : State}
    (hc : s.cur = none) : runIssueThen h i body post s = .fault .noIssuer := by
  unfold runIssueThen; rw [hc]

theorem RunsAsIssue.of_runIssue {h : Hdr} {i : Instr} {body : Issue → State → Res} (hx : ∀ s, exec i s = runIssue h i body s) :
    RunsAsIssue i :=
  ⟨h, body, fun _ t => t, hx⟩

theorem RunsAsIssue.safe {i : Instr} (hi : RunsAsIssue i) {s : State} (hc : s.cur ≠ none) : Safe (exec i s) := by
  obtain ⟨h, body, post, hx⟩ := hi
  rw [hx]
  exact runIssueThen_safe h i body post hc

theorem RunsAsIssue.noIssuer {i : Instr} (hi : RunsAsIssue i) {s : State} (hc : s.cur = none) : exec i s = .fault .noIssuer := by
  obtain ⟨h, body, post, hx⟩ := hi
  rw [hx]
  exact runIssueThen_noIssuer h i body post hc

/-- Every constructor that issues is given its meaning by `runIssueThen`. -/
theorem runsAsIssue_of_issues (i : Instr) (hi : i.issues = true) : RunsAsIssue i := by
  cases i with
  | rfli | rfliOrd | rfl | rflOrd | syng | exit | exitS | exitJ | tret | tretSkip => exact ⟨_, _, _, fun _ => rfl⟩
  | nop | mov | movi | moviHi | add | sub | mul | mulh | mad | lea | min | max | abs | neg | sat | and | or | xor | andn | not
  | shl | shr | sha | rot | clz | popc | brev | bfx | bfi | bytx | sel | cmp | pset | shfl | vote | rduc | scan | mfs | mts
  | fadd | fsub | fmul | ffma | fdiv | frcp | fsqrt | frsq | frnd | fscl | fmin | fmax | fcmp | fcls | fexp2 | flog2 | hxadd
  | hxmul | hxfma | bxadd | bxmul | bxfma | cvt | pack | unpk | bra | jmp | jmpIndexed | call | callR | ret | brk | ld | st
  | lds | sts | ldt | stt | atom | atomf | cas | pref | qpop | qpush | qsta | spawn | spawnU | await | rgrow | rshrk | yield
  | trap | trapK | tmark | ald | ast | aprf | ahq | strm | gth | gthQ | sct | hprb | isct | walk | qput | qtake | qend | qendX
  | qclr | mlds | mldsK1 | mswp | mma | mmas | mbmp | mhad | mprn | acal | acfr | acclm | acz | acrdVector | acrdScalar | acst
  | mstat | mwait | cpl | cps | cpf | cpx | cpw | rini | awf | rlsRing | rlsTile | rsta | tsta | tbindSp | tbindRd | tbindWr
  | tbindSelf => exact .of_runIssue fun _ => rfl
  | _ => cases hi

theorem execPad32_safe {s : State} (hc : s.cur ≠ none) : Safe (execPad32 s) := by
  unfold execPad32
  split
  · contradiction
  · dsimp only
    split <;> exact ⟨_, rfl⟩

theorem execPad32_noIssuer {s : State} (hc : s.cur = none) : execPad32 s = .fault .noIssuer := by
  unfold execPad32; rw [hc]

/-- A pass that the engine takes up is issued by the unit that waits with it (R342). -/
theorem issuePass_safe (i : Instr) {s : State} (hc : s.cur ≠ none) : Safe (issuePass i s) := by
  unfold issuePass
  split
  · exact (runsAsIssue_of_issues (.mma ..) rfl).safe hc
  · exact (runsAsIssue_of_issues (.mmas ..) rfl).safe hc
  · exact (runsAsIssue_of_issues (.mbmp ..) rfl).safe hc
  · exact (runsAsIssue_of_issues (.mhad ..) rfl).safe hc
  · exact (runsAsIssue_of_issues (.mprn ..) rfl).safe hc
  · exact ⟨_, rfl⟩

theorem execMatrixAcceptance_safe (core : Nat) (s : State) : Safe (execMatrixAcceptance core s) := by
  unfold execMatrixAcceptance
  dsimp only
  split
  · exact ⟨_, rfl⟩
  next o _ =>
    obtain ⟨t, ht⟩ := issuePass_safe o.instr (s := { s with cur := some o.unit }) (by simp)
    rw [ht]
    split <;> split <;> exact ⟨_, rfl⟩

/-- An event of the device answers a next state whatever unit is selected. -/
theorem exec_event_safe (i : Instr) (hi : i.issues = false) (hp : i ≠ .pad32) (s : State) : Safe (exec i s) := by
  cases i with
  | pad32 => exact absurd rfl hp
  | matrixAcceptance core => exact execMatrixAcceptance_safe core s
  | outgoingEdge | runAheadEnd | pageFaultService | coalescerRecordClose | faultRingWrite | hangReport | waitCycleReport
  | hostLaunch | distributorEmit | blockMove | stealMessage | stealReply | runDry | placement | spillRestore | childCompletion
  | taskCompletion | inheritanceSpill | park | parkResume | rgrowGrant | rgrowDenial | refillGrant | agedEntry | breakpointStop
  | resume | step | sample | copyCompletion | copyDataFault | copyPageFaultService | aonVersionWait
  | streamingOperationCompletion | accessStrandFault | matrixOperationCompletion | coreSramSplitWrite | sramSplitChange
  | residCtlWrite | prefetchFillDrop | load | clear | soft | force | swap | fillCompletion | spillCompletion | reset
  | matrixResetCompletion | invalidatePage | invalidateAddressSpace | invalidatePartition | invalidateRemoteTarget
  | invalidateCompletion | heartwoodFrozenClear | registerWrite | segmentClose | segmentSubmit | migrationCommand | processEnd
  | partitionMake | partitionTeardown | checkpoint | restore | hostBar2Read | hostBar2Write | read | readData | write | atomic
  | atomicResult | acknowledgement | lossNotice | checkpointData | idle | idleFlitTimer | flitCrcFailure | portDown
  | linkDownTimeout | powerOn | packageReset | memoryResponse | engineLineRelease | accessPageFaultService | routeReturn
  | powerLoss | powerOrTemperatureLimit | segmentWriteCompletion | migrationCompletion => exact ⟨_, rfl⟩
  | add | sub | mul | mulh | min | max | and | or | xor | andn | shl | shr | sha | rot | cmp | shfl | fadd | fsub | fmul | fdiv |
  fscl | fmin | fmax | fcmp | ld | st | lds | sts | atom | atomf | cas | pref | ald | ast | aprf | cpl | cps | cpf | cpx =>
    simp [Instr.issues, Instr.toRaw] at hi
  | pset _ _ src => cases src <;> cases hi
  | qendX _ q => cases q <;> cases hi
  | mstat _ sel _ => cases sel <;> cases hi
  | _ => cases hi

/-- Of an instruction, PAD32 and an event alike: with a unit selected a next state follows. -/
theorem exec_safe (i : Instr) {s : State} (hc : s.cur ≠ none) : Safe (exec i s) := by
  by_cases hp : i = .pad32
  · subst hp; exact execPad32_safe hc
  cases hi : i.issues with
  | true => exact (runsAsIssue_of_issues i hi).safe hc
  | false => exact exec_event_safe i hi hp s

theorem exec_noIssuer (i : Instr) {s : State} (hi : i.issues = true ∨ i = .pad32) (hc : s.cur = none) :
    exec i s = .fault .noIssuer := by
  rcases hi with hi | rfl
  · exact (runsAsIssue_of_issues i hi).noIssuer hc
  · exact execPad32_noIssuer hc

/-! ### A step -/

theorem settled_safe (uid : Nat) (old : List Entry) {o : Host.Outcome State Fault Refusal} (ho : Safe o) :
    Safe (settled uid old o) := by
  obtain ⟨t, rfl⟩ := ho
  exact ⟨_, rfl⟩

/-- An issue selects its unit before the instruction runs. -/
theorem fetchIssue_safe (uid : Nat) (e : Entry) (s : State) : Safe (fetchIssue uid e s) := by
  unfold fetchIssue
  dsimp only
  split
  case h_4 t _ => exact settled_safe uid _ (exec_safe .pad32 (Option.some_ne_none uid))
  case h_5 t i _ => exact settled_safe uid _ (exec_safe i (Option.some_ne_none uid))
  all_goals exact ⟨_, rfl⟩

theorem issueUnit_safe (uid : Nat) (s : State) : Safe (issueUnit uid s) := by
  unfold issueUnit
  split
  · exact ⟨_, rfl⟩
  split
  · exact ⟨_, rfl⟩
  split
  · exact ⟨_, rfl⟩
  · exact fetchIssue_safe uid _ s

/-- A move of the schedule runs no instruction but through an issue, so an event is all that `exec` meets here. -/
theorem applyMove_safe (m : Move) (s : State) : Safe (applyMove m s) := by
  cases m with
  | ev i =>
    by_cases h : (i.issues || i == .pad32) = true
    · exact ⟨s, if_pos h⟩
    · obtain ⟨hi, hp⟩ : i.issues = false ∧ i ≠ .pad32 := by simpa using h
      have hx : applyMove (.ev i) s = exec i s := if_neg h
      rw [hx]
      exact exec_event_safe i hi hp s
  | issue uid => exact issueUnit_safe uid s
  | tick | evict | kstore | flit | debug => exact ⟨_, rfl⟩

theorem tryUnits_safe (us : List Nat) (s : State) : Safe (tryUnits us s) := by
  induction us generalizing s with
  | nil => exact ⟨s, rfl⟩
  | cons uid us ih =>
    obtain ⟨t, ht⟩ := issueUnit_safe uid s
    unfold tryUnits
    rw [ht]
    dsimp only
    split
    · exact ⟨t, rfl⟩
    · exact ih t

theorem autoStep_safe (s : State) : Safe (autoStep s) := by
  unfold autoStep
  dsimp only
  split
  · exact ⟨_, rfl⟩
  split
  · exact ⟨_, rfl⟩
  · exact tryUnits_safe _ _

theorem step_safe (s : State) : Safe (step s) := by
  unfold step runStep
  split
  · exact applyMove_safe _ _
  · exact autoStep_safe s

/-- Settles O56: what issues runs as an issue of the selected unit, an event answers whatever is selected, and every step selects a
unit before it issues. -/
theorem everyStepGoesOn : Obligations.EveryStepGoesOn :=
  ⟨fun i _ hc => exec_safe i hc, fun i s hi hp => exec_event_safe i hi hp s, fun i _ hi hc => exec_noIssuer i hi hc, step_safe⟩

end Sys2Proof.Machine
end

section
/-! TLB invalidations and their completion (R410), with the folds and the writebacks that they rest on. -/

namespace Sys2Proof.Machine

/-! ### Invalidations (R410) -/

/-- A fold each of whose steps, where it is reached, goes on from a state by a reflexive and transitive relation. -/
theorem foldl_rel {σ α : Type} {R : σ → σ → Prop} (refl : ∀ s, R s s) (trans : ∀ {s t u}, R s t → R t u → R s u) (f : σ → α → σ)
    (l : List α) (s : σ) (hf : ∀ t, R s t → ∀ n ∈ l, R t (f t n)) : R s (l.foldl f s) := by
  induction l generalizing s with
  | nil => exact refl s
  | cons n l ih =>
    have h1 := hf s (refl s) n List.mem_cons_self
    exact trans h1 (ih _ fun t ht m hm => hf t (trans h1 ht) m (List.mem_cons_of_mem n hm))

/-- Such a fold comes by the step of each of its elements. -/
theorem foldl_rel_mem {σ α : Type} {R : σ → σ → Prop} (refl : ∀ s, R s s) (trans : ∀ {s t u}, R s t → R t u → R s u) (f : σ → α → σ)
    {l : List α} (s : σ) (hf : ∀ t, R s t → ∀ n ∈ l, R t (f t n)) {n : α} (hn : n ∈ l) :
    ∃ t, R s t ∧ R (f t n) (l.foldl f s) := by
  obtain ⟨l1, l2, rfl⟩ := List.append_of_mem hn
  have h1 : R s (l1.foldl f s) := foldl_rel refl trans f l1 s fun t ht m hm => hf t ht m (by simp [hm])
  have hn' := hf _ h1 n (by simp)
  rw [List.foldl_append, List.foldl_cons]
  exact ⟨_, h1, foldl_rel refl trans f l2 _ fun t ht m hm => hf t (trans h1 (trans hn' ht)) m (by simp [hm])⟩

/-- Every core of a list keeps of its TLB what passes a test. -/
theorem foldl_keepTlb_core (f : TlbEntry → Bool) (cs : List Nat) (s : State) (c : Nat) :
    (cs.foldl (State.keepTlb · f) s).core c =
      if c ∈ cs then { s.core c with tlb := (s.core c).tlb.filter f } else s.core c := by
  induction cs generalizing s with
  | nil => rfl
  | cons d cs ih =>
    rw [List.foldl_cons, ih]
    by_cases hd : c = d
    · subst hd
      by_cases hc : c ∈ cs <;> simp [State.keepTlb, hc]
    · simp [State.keepTlb, hd, State.core_modCore_other _ _ _ _ hd]

/-- Nothing but cores changes where matching entries are dropped. -/
theorem foldl_keepTlb_rest (f : TlbEntry → Bool) (cs : List Nat) (s : State) :
    ∃ m, cs.foldl (State.keepTlb · f) s = { s with cores := m } := by
  induction cs generalizing s with
  | nil => exact ⟨s.cores, rfl⟩
  | cons d cs ih =>
    obtain ⟨m, hm⟩ := ih (s.keepTlb f d)
    exact ⟨m, hm⟩

/-! What an invalidation names, by its scope (R410). -/

theorem matchesInval_page (own : Nat) (arg : W64) (e : TlbEntry) :
    matchesInval own 0#2 arg e = true ↔ e.asn = nbits arg.toNat 49 10 ∧ e.size = nbits arg.toNat 59 2 ∧
      e.vpn = nbits arg.toNat 0 48 / 2 ^ pageShift (nbits arg.toNat 59 2) := by
  simp [matchesInval, and_assoc]

theorem matchesInval_space (own : Nat) (arg : W64) (e : TlbEntry) :
    matchesInval own 1#2 arg e = true ↔ e.asn = nbits arg.toNat 49 10 := by
  simp [matchesInval]

theorem matchesInval_partition (own : Nat) (arg : W64) (e : TlbEntry) : matchesInval own 2#2 arg e = true := rfl

theorem matchesInval_target (own : Nat) (arg : W64) (e : TlbEntry) :
    matchesInval own 3#2 arg e = e.names own (nbits arg.toNat 0 12) := rfl

/-- A write of the invalidate register: BUSY is set, and the cores of the partition drop what the register names, at once (R410). -/
theorem invalidate_drops {s : State} {i : Instr} {part : Nat} {scope : BitVec 2} {arg : W64} {p : TlbEntry → Prop}
    (hx : exec i s = .next (s.invalidate part scope arg)) (hp : ∀ e, matchesInval s.pkg scope arg e = true ↔ p e) :
    Claim.Drops s i part scope p := by
  refine ⟨_, hx, ?_⟩
  set s1 := s.modPart part fun q => { q with tlbBusy := true, tlbScope := scope, tlbArg := arg } with hs1
  set f : TlbEntry → Bool := fun e => !matchesInval s.pkg scope arg e
  have ht : s.invalidate part scope arg = (s.partCores part).foldl (State.keepTlb · f) s1 := by
    simp [State.invalidate, State.dropTlb, State.partCores, s1, f]
  have hcore (c : Nat) := foldl_keepTlb_core f (s.partCores part) s1 c
  obtain ⟨m, hm⟩ := foldl_keepTlb_rest f (s.partCores part) s1
  have hpart : (s.invalidate part scope arg).part part = { s.part part with tlbBusy := true, tlbScope := scope, tlbArg := arg } := by
    rw [ht, hm]
    show s1.part part = _
    rw [hs1, State.part_modPart_same]
  rw [hpart, ht]
  refine ⟨rfl, rfl, fun c hc e => ?_, fun c hc => ?_, fun c => ?_, ?_⟩
  · rw [hcore, if_pos hc]
    simp [f, s1, List.mem_filter, ← hp e]
  · rw [hcore, if_neg hc]; rfl
  · rw [hcore]
    split <;> rfl
  · rw [hm]; rfl

/-- The fields of the invalidate register that a page is named by. -/
theorem invalArg_fields {asn size va : Nat} (ha : asn < 1024) (hz : size < 3) (hv : va < 2 ^ 48) :
    nbits (BitVec.ofNat 64 (2 ^ 59 * (size % 4) + 2 ^ 49 * (asn % 1024) + va % 2 ^ 48)).toNat 59 2 = size ∧
    nbits (BitVec.ofNat 64 (2 ^ 59 * (size % 4) + 2 ^ 49 * (asn % 1024) + va % 2 ^ 48)).toNat 49 10 = asn ∧
    nbits (BitVec.ofNat 64 (2 ^ 59 * (size % 4) + 2 ^ 49 * (asn % 1024) + va % 2 ^ 48)).toNat 0 48 = va := by
  simp only [nbits, BitVec.toNat_ofNat]
  omega

theorem TlbEntry.names_iff (s : State) (e : TlbEntry) (pkg : Nat) :
    e.names s.pkg pkg = true ↔ remotePkg s (e.pfn * 2 ^ 16) = some pkg := by
  unfold TlbEntry.names remotePkg
  rw [beq_iff_eq]
  split
  next k h => rw [h]; simp
  next h => simpa using h pkg

theorem invalidatePage_drops (s : State) (part asn size : Nat) (va : W64) (ha : asn < 1024) (hz : size < 3) (hv : va.toNat < 2 ^ 48) :
    Claim.Drops s (.invalidatePage part asn size va) part 0#2 fun e =>
      e.asn = asn ∧ e.size = size ∧ e.vpn = va.toNat / 2 ^ pageShift size := by
  refine invalidate_drops rfl fun e => ?_
  obtain ⟨h1, h2, h3⟩ := invalArg_fields ha hz hv
  rw [matchesInval_page, h1, h2, h3]

theorem invalidateAddressSpace_drops (s : State) (part asn : Nat) (ha : asn < 1024) :
    Claim.Drops s (.invalidateAddressSpace part asn) part 1#2 fun e => e.asn = asn := by
  refine invalidate_drops rfl fun e => ?_
  have h : nbits (BitVec.ofNat 64 (2 ^ 49 * (asn % 1024))).toNat 49 10 = asn := by
    simp only [nbits, BitVec.toNat_ofNat]; omega
  rw [matchesInval_space, h]

theorem invalidatePartition_drops (s : State) (part : Nat) :
    Claim.Drops s (.invalidatePartition part) part 2#2 fun _ => True :=
  invalidate_drops rfl fun e => by simp [matchesInval_partition]

theorem invalidateRemoteTarget_drops (s : State) (part pkg : Nat) (hk : pkg < 4096) :
    Claim.Drops s (.invalidateRemoteTarget part pkg) part 3#2 fun e => remotePkg s (e.pfn * 2 ^ 16) = some pkg := by
  refine invalidate_drops rfl fun e => ?_
  have h : nbits (BitVec.ofNat 64 (pkg % 4096)).toNat 0 12 = pkg := by
    simp only [nbits, BitVec.toNat_ofNat]; omega
  rw [matchesInval_target, h, TlbEntry.names_iff]

/-! ### Dirty bytes written back (R45, R410) -/

theorem homeWrite_eq (s : State) (pa : Nat) (b : Byte) : ∃ m h, s.homeWrite pa b = { s with mem := m, hostMem := h } := by
  unfold State.homeWrite
  split
  · exact ⟨_, s.hostMem, rfl⟩
  · split
    · exact ⟨s.mem, _, rfl⟩
    · exact ⟨s.mem, s.hostMem, rfl⟩

theorem sliceAccess_eq (s : State) (pa : Nat) : ∃ x, s.sliceAccess pa = { s with slices := x } := by
  unfold State.sliceAccess
  split
  · split
    · exact ⟨_, rfl⟩
    · exact ⟨s.slices, rfl⟩
  · exact ⟨s.slices, rfl⟩

theorem SMap.mem_set {α : Type} {m : SMap α} {k : Nat} {v : α} {p : Nat × α} (h : p ∈ SMap.set m k v) : p = (k, v) ∨ p ∈ m := by
  induction m with
  | nil => simpa [SMap.set] using h
  | cons q m ih =>
    obtain ⟨j, w⟩ := q
    simp only [SMap.set] at h
    split at h
    · simpa using h
    · split at h
      · simp only [List.mem_cons] at h ⊢
        tauto
      · simp only [List.mem_cons] at h ⊢
        rcases h with h | h
        · exact .inr (.inl h)
        · exact (ih h).imp id .inr

theorem SMap.mem_of_get {α : Type} {m : SMap α} {k : Nat} {v : α} (h : SMap.get m k = some v) : (k, v) ∈ m := by
  induction m with
  | nil => cases h
  | cons q m ih =>
    obtain ⟨j, w⟩ := q
    simp only [SMap.get] at h
    split at h
    next e => cases h; subst e; exact List.mem_cons_self
    next => exact List.mem_cons_of_mem _ (ih h)

theorem Core.mem_dirtyAddrs (c : Core) (a : Nat) : a ∈ c.dirtyAddrs ↔ ∃ b, (a, b) ∈ c.l1 ∧ b.dirty = true := by
  simp [Core.dirtyAddrs, SMap.keep, SMap.keys]

/-- A core holds no dirty byte of an address. -/
def Core.CleanAt (c : Core) (a : Nat) : Prop := ∀ b, c.l1.get a = some b → b.dirty = false

theorem Core.cleanAt_of_not_mem {c : Core} {a : Nat} (h : a ∉ c.dirtyAddrs) : c.CleanAt a := by
  intro b hb
  by_contra hd
  exact h ((c.mem_dirtyAddrs a).2 ⟨b, SMap.mem_of_get hb, by simpa using hd⟩)

/-- What a writeback of own and host bytes keeps: nothing becomes dirty, and besides L1s only memory and its slices change. -/
structure State.WritesBack (s t : State) : Prop where
  units : t.units = s.units
  tasks : t.tasks = s.tasks
  parts : t.parts = s.parts
  pkg : t.pkg = s.pkg
  remoteOps : t.remoteOps = s.remoteOps
  tlb : ∀ c, (t.core c).tlb = (s.core c).tlb
  dirty : ∀ c, ∀ a ∈ (t.core c).dirtyAddrs, a ∈ (s.core c).dirtyAddrs
  clean : ∀ c a, (s.core c).CleanAt a → (t.core c).CleanAt a

theorem State.WritesBack.refl (s : State) : s.WritesBack s :=
  ⟨rfl, rfl, rfl, rfl, rfl, fun _ => rfl, fun _ _ h => h, fun _ _ h => h⟩

theorem State.WritesBack.trans {s t u : State} (h : s.WritesBack t) (k : t.WritesBack u) : s.WritesBack u :=
  ⟨k.units.trans h.units, k.tasks.trans h.tasks, k.parts.trans h.parts, k.pkg.trans h.pkg, k.remoteOps.trans h.remoteOps,
    fun c => (k.tlb c).trans (h.tlb c), fun c a ha => h.dirty c a (k.dirty c a ha), fun c a ha => k.clean c a (h.clean c a ha)⟩

theorem State.WritesBack.remotePkg {s t : State} (h : s.WritesBack t) (a : Nat) : remotePkg t a = remotePkg s a := by
  unfold Machine.remotePkg
  rw [h.pkg]

/-- One byte of an L1 replaced by a clean one. -/
def Core.setL1 (c : Core) (pa : Nat) (b : L1Byte) : Core := { c with l1 := c.l1.set pa b }

theorem Core.dirtyAddrs_setL1 {c : Core} {pa : Nat} {b : L1Byte} (hb : b.dirty = false) {a : Nat} (h : a ∈ (c.setL1 pa b).dirtyAddrs) :
    a ∈ c.dirtyAddrs := by
  rw [Core.mem_dirtyAddrs] at h ⊢
  obtain ⟨x, hx, hd⟩ := h
  rcases SMap.mem_set hx with e | hx
  · cases e; rw [hb] at hd; cases hd
  · exact ⟨x, hx, hd⟩

theorem Core.cleanAt_setL1_same (c : Core) (pa : Nat) {b : L1Byte} (hb : b.dirty = false) : (c.setL1 pa b).CleanAt pa := by
  intro x hx
  rw [Core.setL1, SMap.get_set_same] at hx
  cases hx
  exact hb

theorem Core.CleanAt.setL1 {c : Core} {a : Nat} (h : c.CleanAt a) (pa : Nat) {b : L1Byte} (hb : b.dirty = false) :
    (c.setL1 pa b).CleanAt a := by
  by_cases e : a = pa
  · subst e; exact c.cleanAt_setL1_same a hb
  · intro x hx
    rw [Core.setL1, SMap.get_set_other _ _ _ _ e] at hx
    exact h x hx

theorem State.core_modCore (s : State) (k j : Nat) (f : Core → Core) :
    (s.modCore k f).core j = if j = k then f (s.core k) else s.core j := by
  by_cases h : j = k
  · subst h; simp
  · rw [State.core_modCore_other _ _ _ _ h, if_neg h]

theorem writesBack_setL1 (s : State) (core pa : Nat) {b : L1Byte} (hb : b.dirty = false) (m h : Memory) (x : SMap Slice) :
    s.WritesBack (({ s with mem := m, hostMem := h, slices := x } : State).modCore core (Core.setL1 · pa b)) := by
  have hc (c : Nat) : (({ s with mem := m, hostMem := h, slices := x } : State).modCore core (Core.setL1 · pa b)).core c =
      if c = core then (s.core core).setL1 pa b else s.core c := State.core_modCore _ _ _ _
  refine ⟨rfl, rfl, rfl, rfl, rfl, fun c => ?_, fun c a ha => ?_, fun c a ha => ?_⟩
  · rw [hc]
    split
    next e => rw [e]; rfl
    next => rfl
  · rw [hc] at ha
    split at ha
    next e => rw [e]; exact Core.dirtyAddrs_setL1 hb ha
    next => exact ha
  · rw [hc]
    split
    next e => exact (e ▸ ha : (s.core core).CleanAt a).setL1 pa hb
    next => exact ha

/-- One byte of own or host memory written back: its core is clean there (R45). -/
theorem wbByte_writesBack (s : State) (core pa : Nat) (hr : remotePkg s pa = none) :
    s.WritesBack (s.wbByte core pa) ∧ ((s.wbByte core pa).core core).CleanAt pa := by
  unfold State.wbByte
  split
  next b hb =>
    split
    next hd =>
      refine ⟨.refl s, fun x hx => ?_⟩
      rw [hb] at hx
      cases hx
      simpa using hd
    next =>
      rw [hr]
      obtain ⟨m, h, e1⟩ := homeWrite_eq s pa b.val
      obtain ⟨x, e2⟩ := sliceAccess_eq (s.homeWrite pa b.val) pa
      rw [e2, e1]
      refine ⟨writesBack_setL1 s core pa rfl m h x, ?_⟩
      rw [State.core_modCore_same]
      exact Core.cleanAt_setL1_same _ pa rfl
  next hb => exact ⟨.refl s, fun x hx => by rw [hb] at hx; cases hx⟩

/-- Every dirty byte of a core written back: the core is clean (R45). -/
theorem wbAll_writesBack (s : State) (core : Nat) (hr : ∀ a ∈ (s.core core).dirtyAddrs, remotePkg s a = none) :
    s.WritesBack (s.wbAll core) ∧ ∀ a, ((s.wbAll core).core core).CleanAt a := by
  have hf (t : State) (ht : s.WritesBack t) (a : Nat) (ha : a ∈ (s.core core).dirtyAddrs) :=
    wbByte_writesBack t core a ((ht.remotePkg a).trans (hr a ha))
  refine ⟨foldl_rel State.WritesBack.refl .trans _ _ s fun t ht a ha => (hf t ht a ha).1, fun a => ?_⟩
  by_cases ha : a ∈ (s.core core).dirtyAddrs
  · obtain ⟨t, ht, hl⟩ := foldl_rel_mem State.WritesBack.refl .trans _ s (fun t ht a ha => (hf t ht a ha).1) ha
    exact hl.clean core a (hf t ht a ha).2
  · exact (foldl_rel State.WritesBack.refl .trans _ _ s fun t ht a ha => (hf t ht a ha).1).clean core a
      (Core.cleanAt_of_not_mem ha)

/-- Every dirty byte of a partition's cores written back: the cores are clean (R410). -/
theorem wbPart_writesBack (s : State) (part : Nat)
    (hr : ∀ c ∈ s.partCores part, ∀ a ∈ (s.core c).dirtyAddrs, remotePkg s a = none) :
    s.WritesBack (s.wbPart part) ∧ ∀ c ∈ s.partCores part, ∀ a, ((s.wbPart part).core c).CleanAt a := by
  have hf (t : State) (ht : s.WritesBack t) (c : Nat) (hc : c ∈ s.partCores part) :=
    wbAll_writesBack t c fun a ha => (ht.remotePkg a).trans (hr c hc a (ht.dirty c a ha))
  refine ⟨foldl_rel State.WritesBack.refl .trans _ _ s fun t ht c hc => (hf t ht c hc).1, fun c hc a => ?_⟩
  obtain ⟨t, ht, hl⟩ := foldl_rel_mem State.WritesBack.refl .trans _ s (fun t ht c hc => (hf t ht c hc).1) hc
  exact hl.clean c a ((hf t ht c hc).2 a)

/-- INVALIDATE_COMPLETION with every access done (R410). -/
theorem invalidateCompletion_spec (s : State) (part : Nat) (hb : (s.part part).tlbBusy = true) (hd : s.accessesDone part = true)
    (ho : s.remoteOps = []) (hr : ∀ c ∈ s.partCores part, ∀ a ∈ (s.core c).dirtyAddrs, remotePkg s a = none) :
    ∃ t, exec (.invalidateCompletion part) s = .next t ∧ (t.part part).tlbBusy = false ∧
      (∀ c ∈ s.partCores part, ∀ a b, (t.core c).l1.get a = some b → b.dirty = false) ∧ t.units = s.units ∧ t.tasks = s.tasks ∧
      ∀ c ∈ s.partCores part, ∀ e ∈ (t.core c).tlb, e ∈ (s.core c).tlb ∧
        matchesInval s.pkg (s.part part).tlbScope (s.part part).tlbArg e = false := by
  obtain ⟨hw, hclean⟩ := wbPart_writesBack s part hr
  have ho' : (s.wbPart part).remoteOps = [] := hw.remoteOps.trans ho
  have hcs : (s.wbPart part).partCores part = s.partCores part := by
    unfold State.partCores State.part
    rw [hw.parts]
  set f : TlbEntry → Bool := fun e => !matchesInval s.pkg (s.part part).tlbScope (s.part part).tlbArg e
  have hx : evInvalidateCompletion part s = ((s.partCores part).foldl (State.keepTlb · f) (s.wbPart part)).modPart part fun q =>
      { q with tlbBusy := false } := by
    simp [evInvalidateCompletion, hb, hd, ho', State.dropTlb, hcs, hw.pkg, f]
  have hcore (c : Nat) (hc : c ∈ s.partCores part) : (evInvalidateCompletion part s).core c =
      { (s.wbPart part).core c with tlb := ((s.core c).tlb).filter f } := by
    rw [hx, State.core_modPart, foldl_keepTlb_core, if_pos hc, hw.tlb]
  obtain ⟨m, hm⟩ := foldl_keepTlb_rest f (s.partCores part) (s.wbPart part)
  refine ⟨_, rfl, ?_, fun c hc a b hab => ?_, ?_, ?_, fun c hc e he => ?_⟩
  · rw [hx, State.part_modPart_same]
  · rw [hcore c hc] at hab
    exact hclean c hc a b hab
  · rw [hx, hm]; exact hw.units
  · rw [hx, hm]; exact hw.tasks
  · rw [hcore c hc] at he
    simpa [f, List.mem_filter] using he

theorem tlbInvalidations : Claim.TlbInvalidations :=
  ⟨invalidatePage_drops, invalidateAddressSpace_drops, invalidatePartition_drops, invalidateRemoteTarget_drops,
    invalidateCompletion_spec⟩

end Sys2Proof.Machine
end

section
/-! The register writes of the resident kernel (R4). -/

namespace Sys2Proof.Machine

/-! ### Register writes of the resident kernel (R4) -/

theorem SMap.get_adjust {α : Type} (f : α → α) (m : SMap α) (k : Nat) {x : α} (h : SMap.get m k = some x) :
    SMap.get (SMap.adjust f m k) k = some (f x) := by
  induction m with
  | nil => cases h
  | cons p m ih =>
    obtain ⟨j, w⟩ := p
    by_cases e : j = k <;> simp_all [SMap.adjust, SMap.get]

/-- With CLEAR, LOAD and FORCE at 0 a write of the pre-emption register only writes fields (R151). -/
theorem writePreempt_fields (core : Nat) (v : W64) (s : State) (h0 : v.getLsbD 0 = false) (h2 : v.getLsbD 2 = false)
    (h3 : v.getLsbD 3 = false) :
    writePreempt core v s = s.modCore core fun c =>
      { c with
        sslot := v.extractLsb' 48 16, fslot := v.extractLsb' 32 16, err := c.err && !v.getLsbD 28, softSwap := v.getLsbD 1,
        yielded := c.yielded && c.softSwap && v.getLsbD 1 } := by
  simp only [writePreempt, h0, h2, h3, Bool.false_eq_true, if_false]

/-- The bits of the trace control register that a write reaches besides FLUSH: [31:28] and [19:16] (R393). -/
theorem traceMask_getLsbD : ∀ n < 32, (0xF00F0000#32).getLsbD n = decide (28 ≤ n ∨ 16 ≤ n ∧ n < 20) := by decide

theorem flushMask_getLsbD : ∀ n < 32, (0x1F#32).getLsbD n = decide (n < 5) := by decide

/-- The trace control register after a write, bit by bit (R393). -/
theorem traceWritten_getLsbD (old v : W32) {n : Nat} (hn : n < 32) :
    (traceWritten old v).getLsbD n = (v.getLsbD n && decide (28 ≤ n ∨ 16 ≤ n ∧ n < 20) ||
      (if nbits v.toNat 0 5 < 10 then old else v).getLsbD n && decide (n < 5)) := by
  unfold traceWritten
  dsimp only
  split <;> simp only [BitVec.getLsbD_or, BitVec.getLsbD_and, traceMask_getLsbD n hn, flushMask_getLsbD n hn]

theorem nbits_low_flush (x : W32) : nbits x.toNat 0 5 = (x &&& 0x1F#32).toNat := by
  rw [BitVec.toNat_and, show (0x1F#32).toNat = 2 ^ 5 - 1 from rfl, Nat.and_two_pow_sub_one_eq_mod]
  simp [nbits]

/-- FLUSH of the trace control register after a write (R393). -/
theorem traceWritten_flush (old v : W32) :
    nbits (traceWritten old v).toNat 0 5 = if nbits v.toNat 0 5 < 10 then nbits old.toNat 0 5 else nbits v.toNat 0 5 := by
  have h : traceWritten old v &&& 0x1F#32 = (if nbits v.toNat 0 5 < 10 then old else v) &&& 0x1F#32 := by
    refine BitVec.eq_of_getLsbD_eq fun n hn => ?_
    rw [BitVec.getLsbD_and, BitVec.getLsbD_and, traceWritten_getLsbD _ _ hn, flushMask_getLsbD n hn]
    by_cases h5 : n < 5
    · simp [h5, show ¬ 28 ≤ n by omega, show ¬ 16 ≤ n by omega]
    · simp [h5]
  rw [nbits_low_flush, h, ← nbits_low_flush]
  split <;> rfl

/-- A register's low bits are those of its low word. -/
theorem nbits_lo32 (v : W64) : nbits (lo32 v).toNat 0 5 = nbits v.toNat 0 5 := by
  simp [nbits, lo32, BitVec.toNat_setWidth]

theorem traceWritten_lo32 (old : W32) (v : W64) :
    (∀ n, 28 ≤ n → n < 32 → (traceWritten old (lo32 v)).getLsbD n = v.getLsbD n) ∧
      (∀ n, 20 ≤ n → n < 28 → (traceWritten old (lo32 v)).getLsbD n = false) ∧
      (∀ n, 16 ≤ n → n < 20 → (traceWritten old (lo32 v)).getLsbD n = v.getLsbD n) ∧
      (∀ n, 5 ≤ n → n < 16 → (traceWritten old (lo32 v)).getLsbD n = false) ∧
      nbits (traceWritten old (lo32 v)).toNat 0 5 = if nbits v.toNat 0 5 < 10 then nbits old.toNat 0 5 else nbits v.toNat 0 5 := by
  have hv (n : Nat) (hn : n < 32) : (lo32 v).getLsbD n = v.getLsbD n := by simp [lo32, hn]
  refine ⟨fun n h1 h2 => ?_, fun n h1 h2 => ?_, fun n h1 h2 => ?_, fun n h1 h2 => ?_, ?_⟩
  · rw [traceWritten_getLsbD _ _ h2, hv n h2]
    simp [h1, show ¬ n < 5 by omega]
  · rw [traceWritten_getLsbD _ _ (by omega)]
    simp [show ¬ 28 ≤ n by omega, show ¬ n < 20 by omega, show ¬ n < 5 by omega]
  · rw [traceWritten_getLsbD _ _ (by omega), hv n (by omega)]
    simp [h1, h2, show ¬ n < 5 by omega]
  · rw [traceWritten_getLsbD _ _ (by omega)]
    simp [show ¬ 28 ≤ n by omega, show ¬ 16 ≤ n by omega, show ¬ n < 5 by omega]
  · rw [traceWritten_flush, nbits_lo32]

/-- A comparator's write changes that comparator (R399). -/
theorem modComparator_spec (s : State) (core n : Nat) (f : Comparator → Comparator) {x : Comparator}
    (h : (s.core core).comparators.get n = some x) :
    ((s.modComparator core n f).core core).comparators.get n = some (f x) ∧
      { (s.modComparator core n f).core core with comparators := [] } = { s.core core with comparators := [] } ∧
      ∀ d, d ≠ core → (s.modComparator core n f).core d = s.core d := by
  unfold State.modComparator
  refine ⟨?_, ?_, fun d hd => State.core_modCore_other s core d _ hd⟩
  · rw [State.core_modCore_same]
    exact SMap.get_adjust f _ n h
  · rw [State.core_modCore_same]

theorem registerWrites : Claim.RegisterWrites := by
  intro s v
  refine ⟨fun part n => ⟨rfl, rfl⟩, fun core => ⟨fun h0 h2 h3 => ?_, rfl, ⟨_, rfl, traceWritten_lo32 _ v⟩, fun n x hx => ⟨?_, ?_⟩⟩,
    fun part => ⟨rfl, rfl, rfl, rfl, rfl, rfl, rfl, rfl, rfl, rfl, rfl, rfl⟩, fun die g => rfl, fun asn size => rfl, fun pkg => ?_,
    fun pkg => rfl, fun die => ⟨_, rfl, ?_, ?_⟩⟩
  · exact congrArg Host.Outcome.next (writePreempt_fields core v s h0 h2 h3)
  · exact ⟨_, rfl, modComparator_spec s core n _ hx⟩
  · exact ⟨_, rfl, modComparator_spec s core n _ hx⟩
  · exact congrArg Host.Outcome.next (by simp [evRegisterWrite])
  · exact le_max_left _ _
  · exact max_le (by norm_num) (min_le_left _ _)

end Sys2Proof.Machine
end

section
/-! The reset of a core's matrix engine and its completion (R380 to R382), and the resets, invalidations and register writes together. -/

namespace Sys2Proof.Machine

/-! ### The reset of a matrix engine (R380 to R382) -/

theorem SMap.get_mapVal {α β : Type} (f : Nat → α → β) (m : SMap α) (k : Nat) :
    SMap.get (SMap.mapVal f m) k = (SMap.get m k).map (f k) := by
  induction m with
  | nil => rfl
  | cons p m ih =>
    obtain ⟨j, w⟩ := p
    by_cases e : j = k
    · subst e; simp [SMap.mapVal, SMap.get]
    · have h : SMap.get (SMap.mapVal f ((j, w) :: m)) k = SMap.get (SMap.mapVal f m) k := if_neg e
      rw [h, ih]
      simp [SMap.get, e]

/-- What of a core the discarding of a task leaves alone: its operations, banks, claims and hold, and its L1. -/
def Core.engineView (c : Core) : List MatOp × SMap Bank × List Claim × Option Nat × SMap L1Byte :=
  (c.ctx.mops, c.ctx.banks, c.ctx.claims, c.ctx.hold, c.l1)

theorem Core.engineView_eq_iff (c d : Core) : c.engineView = d.engineView ↔
    c.ctx.mops = d.ctx.mops ∧ c.ctx.banks = d.ctx.banks ∧ c.ctx.claims = d.ctx.claims ∧ c.ctx.hold = d.ctx.hold ∧ c.l1 = d.l1 := by
  simp [Core.engineView]

/-- How a unit that a reset may reach goes on: outside run-ahead it stays so, its live lanes stay live, and a lane that is to trap with
MATRIX_RESET still is (R382). -/
structure Unit.StaysReached (u v : Unit) : Prop where
  kind : v.kind = u.kind
  ahead : u.kind ≠ .acc → u.runAhead = none → v.runAhead = none
  live : u.kind ≠ .acc → u.runAhead = none → ∀ l, (u.lane l).st = .live → (v.lane l).st = .live
  mreset : u.kind ≠ .acc → u.runAhead = none → ∀ l, (u.lane l).st = .live → (u.lane l).mreset = true → (v.lane l).mreset = true

theorem Unit.StaysReached.refl (u : Unit) : u.StaysReached u :=
  ⟨rfl, fun _ h => h, fun _ _ _ h => h, fun _ _ _ _ h => h⟩

theorem Unit.StaysReached.trans {u v w : Unit} (h : u.StaysReached v) (k : v.StaysReached w) : u.StaysReached w where
  kind := k.kind.trans h.kind
  ahead hk ha := k.ahead (h.kind ▸ hk) (h.ahead hk ha)
  live hk ha l hl := k.live (h.kind ▸ hk) (h.ahead hk ha) l (h.live hk ha l hl)
  mreset hk ha l hl hm := k.mreset (h.kind ▸ hk) (h.ahead hk ha) l (h.live hk ha l hl) (h.mreset hk ha l hl hm)

/-- A change that leaves a unit's kind, run-ahead and lanes alone. -/
theorem Unit.StaysReached.of_eq {u v : Unit} (hk : v.kind = u.kind) (ha : v.runAhead = u.runAhead) (hl : v.lanes = u.lanes) :
    u.StaysReached v := by
  have h (l : Nat) : v.lane l = u.lane l := by rw [Unit.lane, hl]; rfl
  exact ⟨hk, fun _ e => ha.trans e, fun _ _ l e => by rwa [h], fun _ _ l _ e => by rwa [h]⟩

/-- The lanes of a unit that a reset meets outside run-ahead (R382). -/
theorem Unit.lane_meetReset {u : Unit} (ha : u.runAhead = none) {l : Nat} (hl : (u.lane l).st = .live) :
    u.meetReset.lane l = { u.lane l with mreset := true } := by
  unfold Unit.meetReset Unit.lane
  rw [ha]
  dsimp only
  rw [SMap.get_mapVal]
  unfold Unit.lane at hl
  cases h : u.lanes.get l with
  | none => rw [h] at hl; cases hl
  | some y => rw [h] at hl; simp_all

theorem Unit.staysReached_meetReset (u : Unit) : u.StaysReached u.meetReset where
  kind := by unfold Unit.meetReset; dsimp only; split <;> rfl
  ahead _ ha := by unfold Unit.meetReset; rw [ha]; exact ha
  live _ ha l hl := by rw [Unit.lane_meetReset ha hl]; exact hl
  mreset _ ha l hl _ := by rw [Unit.lane_meetReset ha hl]

/-- No engine owns a line. -/
def State.Unowned (s : State) : Prop := ∀ line, (s.lineDir line).owner = none

/-- What the discarding of an operation or of a task leaves alone besides what it is for: the engine's own record on every core, the
marks that the reset has set, and, where no line is owned, memory. -/
structure State.Discards (s t : State) : Prop where
  cores : ∀ c, (t.core c).engineView = (s.core c).engineView
  units : ∀ u, (s.unit u).StaysReached (t.unit u)
  taskUnits : ∀ n, (t.task n).units = (s.task n).units
  mreset : ∀ n, (s.task n).mreset = true → (t.task n).mreset = true
  memory : s.Unowned → t.Unowned ∧ t.mem = s.mem ∧ t.hostMem = s.hostMem

theorem State.Discards.refl (s : State) : s.Discards s :=
  ⟨fun _ => rfl, fun _ => .refl _, fun _ => rfl, fun _ h => h, fun h => ⟨h, rfl, rfl⟩⟩

theorem State.Discards.trans {s t u : State} (h : s.Discards t) (k : t.Discards u) : s.Discards u where
  cores c := (k.cores c).trans (h.cores c)
  units n := (h.units n).trans (k.units n)
  taskUnits n := (k.taskUnits n).trans (h.taskUnits n)
  mreset n hn := k.mreset n (h.mreset n hn)
  memory hs := by
    obtain ⟨h1, h2, h3⟩ := h.memory hs
    obtain ⟨k1, k2, k3⟩ := k.memory h1
    exact ⟨k1, k2.trans h2, k3.trans h3⟩

/-- A change that leaves cores, units and tasks alone, and memory and the line directory where no line is owned. -/
theorem State.Discards.of_eq {s t : State} (hc : t.cores = s.cores) (hu : t.units = s.units) (ht : t.tasks = s.tasks)
    (hm : s.Unowned → t.Unowned ∧ t.mem = s.mem ∧ t.hostMem = s.hostMem) : s.Discards t where
  cores c := by rw [State.core, hc]; rfl
  units u := by rw [State.unit, State.unit, hu]; exact .refl _
  taskUnits n := by rw [State.task, ht]; rfl
  mreset n h := by rw [State.task, ht]; exact h
  memory := hm

theorem State.discards_modUnit (s : State) (k : Nat) {f : Unit → Unit} (hf : (s.unit k).StaysReached (f (s.unit k))) :
    s.Discards (s.modUnit k f) where
  cores _ := rfl
  units u := by
    by_cases h : u = k
    · subst h; rw [State.unit_modUnit_same]; exact hf
    · rw [State.unit_modUnit_other _ _ _ _ h]; exact .refl _
  taskUnits _ := rfl
  mreset _ h := h
  memory h := ⟨h, rfl, rfl⟩

theorem State.discards_modTask (s : State) (k : Nat) {f : Task → Task} (hu : (f (s.task k)).units = (s.task k).units)
    (hm : (s.task k).mreset = true → (f (s.task k)).mreset = true) : s.Discards (s.modTask k f) where
  cores _ := rfl
  units _ := .refl _
  taskUnits n := by
    by_cases e : n = k
    · subst e; rw [State.task_modTask_same]; exact hu
    · rw [State.task_modTask_other _ _ _ _ e]
  mreset n h := by
    by_cases e : n = k
    · subst e; rw [State.task_modTask_same]; exact hm h
    · rw [State.task_modTask_other _ _ _ _ e]; exact h
  memory h := ⟨h, rfl, rfl⟩

theorem State.discards_modCore (s : State) (k : Nat) {f : Core → Core} (hf : (f (s.core k)).engineView = (s.core k).engineView) :
    s.Discards (s.modCore k f) where
  cores c := by
    rw [State.core_modCore]
    split
    next h => rw [h]; exact hf
    next => rfl
  units _ := .refl _
  taskUnits _ := rfl
  mreset _ h := h
  memory h := ⟨h, rfl, rfl⟩

theorem State.discards_modCtx (s : State) (k : Nat) {f : CoreCtx → CoreCtx}
    (hf : { s.core k with ctx := f (s.core k).ctx }.engineView = (s.core k).engineView) : s.Discards (s.modCtx k f) :=
  s.discards_modCore k hf

/-! #### Operations -/

theorem emptyDest_discards (s : State) (o : MatOp) : s.Discards (s.emptyDest o) := by
  unfold State.emptyDest
  split
  · exact .refl s
  · split
    · exact s.discards_modTask _ rfl id
    · split
      · exact s.discards_modTask _ rfl id
      · exact .refl s

theorem discardOp_discards (s : State) (o : MatOp) : s.Discards (s.discardOp o) := by
  unfold State.discardOp
  dsimp only
  split
  · exact (emptyDest_discards s o).trans (State.discards_modUnit _ _ (.of_eq rfl rfl rfl))
  · exact emptyDest_discards s o

/-! #### Lines -/

theorem writeCells_eq (s : State) (cs : Cells) : ∃ m h, s.writeCells cs = { s with mem := m, hostMem := h } := by
  unfold State.writeCells
  induction cs generalizing s with
  | nil => exact ⟨s.mem, s.hostMem, rfl⟩
  | cons c cs ih =>
    rw [List.foldl_cons]
    obtain ⟨m, h, e⟩ := homeWrite_eq s c.1 (mergeByte (s.homeByte c.1) c.2.1 c.2.2)
    obtain ⟨m', h', e'⟩ := ih { s with mem := m, hostMem := h }
    rw [e, e']
    exact ⟨m', h', rfl⟩

/-- A line that is owned finished and released. -/
theorem finishLine_discards {s : State} (hs : ¬ s.Unowned) (line : Nat) (cs : Cells) (a : Nat) :
    s.Discards (((s.writeCells cs).sliceAccess a).releaseLine line) := by
  obtain ⟨m, h, e1⟩ := writeCells_eq s cs
  obtain ⟨x, e2⟩ := sliceAccess_eq (s.writeCells cs) a
  rw [e2, e1]
  exact .of_eq rfl rfl rfl fun h => absurd h hs

theorem engineLineRelease_discards (s : State) (line : Nat) : s.Discards (evEngineLineRelease line s) := by
  unfold evEngineLineRelease
  split
  · exact .refl s
  next core id ho =>
    have hs : ¬ s.Unowned := fun h => by rw [h line] at ho; cases ho
    unfold copyLineRelease
    split
    · exact .of_eq rfl rfl rfl fun h => absurd h hs
    · exact (finishLine_discards hs line _ _).trans (State.discards_modCtx _ core rfl)
  next _ n _ ho =>
    have hs : ¬ s.Unowned := fun h => by rw [h line] at ho; cases ho
    unfold streamLineRelease
    split
    · exact .of_eq rfl rfl rfl fun h => absurd h hs
    · exact (finishLine_discards hs line _ _).trans (State.discards_modUnit _ _ (.of_eq rfl rfl rfl))

/-- Requests withdrawn from the line directory, the owners left. -/
theorem withdraw_discards (s : State) (p : Nat × Nat × Nat → Bool) :
    s.Discards { s with lines := s.lines.mapVal fun _ d => { d with queue := d.queue.filter fun w => !p w } } := by
  refine .of_eq rfl rfl rfl fun h => ⟨fun line => ?_, rfl, rfl⟩
  have hl := h line
  unfold State.lineDir at hl ⊢
  dsimp only
  rw [SMap.get_mapVal]
  cases e : s.lines.get line with
  | none => rfl
  | some d => rw [e] at hl; exact hl

theorem yieldLines_discards (s : State) (p : Nat × Nat × Nat → Bool) : s.Discards (s.yieldLines p) := by
  unfold State.yieldLines
  refine (withdraw_discards s p).trans (foldl_rel State.Discards.refl .trans _ _ _ fun t _ line _ => ?_)
  split
  · split
    · exact engineLineRelease_discards t line
    · exact .refl t
  · exact .refl t

/-! #### Units and tasks -/

theorem resetUnit_discards (s : State) (uid : Nat) : s.Discards (s.resetUnit uid) := by
  unfold State.resetUnit
  split
  next hk =>
    have hy := yieldLines_discards s fun w => w.2.1 == 1 && w.2.2 / 4 == uid
    unfold State.cutContext State.endContext
    refine hy.trans (State.discards_modUnit _ _ ?_)
    have hk' := (hy.units uid).kind.trans hk
    exact ⟨rfl, fun h => absurd hk' h, fun h => absurd hk' h, fun h => absurd hk' h⟩
  next => exact s.discards_modUnit _ (Unit.staysReached_meetReset _)

theorem resetTask_discards (s : State) (n : Nat) : s.Discards (s.resetTask n) := by
  unfold State.resetTask
  exact ((s.discards_modTask n rfl fun _ => rfl).trans
    (foldl_rel State.Discards.refl .trans _ _ _ fun t _ uid _ => resetUnit_discards t uid)).trans (State.discards_modCore _ _ rfl)

/-- What a placed task of the ended set receives (R381, R382). -/
theorem resetTask_marks (s : State) (n : Nat) :
    ((s.resetTask n).task n).mreset = true ∧
      ∀ uid ∈ (s.task n).units, ∀ l, (s.unit uid).kind ≠ .acc → (s.unit uid).runAhead = none → ((s.unit uid).lane l).st = .live →
        (((s.resetTask n).unit uid).lane l).mreset = true := by
  unfold State.resetTask
  dsimp only
  set s1 := s.modTask n fun k => { k with banks := [], planes := none, mreset := true } with hs1
  have hf (t : State) (_ : s1.Discards t) (uid : Nat) (_ : uid ∈ (s.task n).units) := resetUnit_discards t uid
  constructor
  · refine (foldl_rel State.Discards.refl .trans State.resetUnit (s.task n).units s1 hf).mreset n ?_
    rw [hs1, State.task_modTask_same]
  · intro uid hu l hk ha hl
    obtain ⟨t, h1, h2⟩ := foldl_rel_mem State.Discards.refl .trans State.resetUnit s1 hf hu
    have hr := h1.units uid
    have hkt : (t.unit uid).kind ≠ .acc := hr.kind ▸ hk
    have hat := hr.ahead hk ha
    have hlt := hr.live hk ha l hl
    have hv : (t.resetUnit uid).unit uid = (t.unit uid).meetReset := by
      unfold State.resetUnit
      split
      · contradiction
      · exact State.unit_modUnit_same t uid _
    have hm := Unit.staysReached_meetReset (t.unit uid)
    have hr2 := h2.units uid
    rw [hv] at hr2
    refine hr2.mreset (hm.kind ▸ hkt) (hm.ahead hkt hat) l (hm.live hkt hat l hlt) ?_
    rw [Unit.lane_meetReset hat hlt]

/-! #### What counts an unplaced claim holder -/

theorem launchCont_discards (s : State) (n : Nat) : s.Discards (s.launchCont n) := by
  unfold State.launchCont
  dsimp only
  split
  · exact .refl s
  · exact State.Discards.trans (t := { s with nextId := s.nextId + 1 }) (.of_eq rfl rfl rfl fun h => ⟨h, rfl, rfl⟩)
      (State.discards_modCore _ _ rfl)

theorem joinDown_discards (s : State) (n : Nat) : s.Discards (s.joinDown n) := by
  unfold State.joinDown
  have h1 : s.Discards (s.modTask n fun k => { k with joins := k.joins - 1 }) := s.discards_modTask n rfl id
  dsimp only
  split
  · exact h1.trans (launchCont_discards _ n)
  · exact h1

theorem frameDown_discards (s : State) (a : Nat) : s.Discards (s.frameDown a) := by
  unfold State.frameDown
  split
  · exact .refl s
  next f _ =>
    dsimp only
    split
    · exact State.Discards.trans (t := { s with frames := s.frames.del a }) (.of_eq rfl rfl rfl fun h => ⟨h, rfl, rfl⟩)
        (joinDown_discards _ _)
    · exact .of_eq rfl rfl rfl fun h => ⟨h, rfl, rfl⟩

theorem launchDown_discards (s : State) (n : Nat) : s.Discards (s.launchDown n) := by
  unfold State.launchDown
  split
  · exact .refl s
  · dsimp only
    split <;> exact .of_eq rfl rfl rfl fun h => ⟨h, rfl, rfl⟩

theorem resetEntry_discards (s : State) (core n : Nat) : s.Discards (s.resetEntry core n) := by
  unfold State.resetEntry
  split
  · exact .refl s
  next e _ =>
    have h1 := s.discards_modCore core (f := fun c => { c with glade := without c.glade [e] }) rfl
    dsimp only
    split
    · exact h1.trans (frameDown_discards _ _)
    · exact h1.trans (launchDown_discards _ _)

/-! #### The reset -/

/-- What an engine context keeps after the discarding of E: no operation, and of banks, claims and the hold only what E has not
(R381). -/
theorem CoreCtx.resetFor_keeps (c : CoreCtx) (es : List Nat) (owner : Claim → Nat) :
    (c.resetFor es owner).mops = [] ∧ (∀ b ∈ (c.resetFor es owner).banks, b ∈ c.banks ∧ b.2.task ∉ es) ∧
      (∀ k ∈ (c.resetFor es owner).claims, k ∈ c.claims ∧ owner k ∉ es) ∧ ∀ n, (c.resetFor es owner).hold = some n → n ∉ es := by
  unfold CoreCtx.resetFor
  dsimp only
  split
  next => simp +contextual [SMap.keep]
  next h =>
    refine ⟨rfl, by simp +contextual [SMap.keep], by simp +contextual, fun n hn => ?_⟩
    have hn : c.hold = some n := hn
    simpa [hn] using h

/-- A core's engine after the discarding of the ended set, before its tasks are met (R381). -/
def State.resetEngine (s : State) (core : Nat) : State :=
  ((s.core core).ctx.mops.foldl State.discardOp s).modCtx core fun x => x.resetFor (s.endedSet core) s.claimTask

/-- A task or a waiting entry of the ended set of `s` met by the reset (R381). -/
def State.resetMember (s : State) (core : Nat) (t : State) (n : Nat) : State :=
  if (s.tasks.get n).isSome then t.resetTask n else t.resetEntry core n

/-- The state in which every member of the ended set has been met. -/
def State.resetAll (s : State) (core : Nat) : State := (s.endedSet core).foldl (s.resetMember core) (s.resetEngine core)

theorem evReset_idle {s : State} {core : Nat} (hb : (s.core core).mresetBusy = false) :
    evReset core s = (s.resetAll core).modCore core fun k =>
      { k with mresetBusy := true, mresetCount := (s.endedSet core).length } := by
  simp only [evReset, hb, Bool.false_eq_true, if_false]
  rfl

theorem discardOps_discards (s : State) (os : List MatOp) : s.Discards (os.foldl State.discardOp s) :=
  foldl_rel State.Discards.refl .trans _ _ s fun t _ o _ => discardOp_discards t o

theorem resetMember_discards (s : State) (core : Nat) (t : State) (n : Nat) : t.Discards (s.resetMember core t n) := by
  unfold State.resetMember
  split
  · exact resetTask_discards t n
  · exact resetEntry_discards t core n

theorem resetAll_discards (s : State) (core : Nat) : (s.resetEngine core).Discards (s.resetAll core) :=
  foldl_rel State.Discards.refl .trans _ _ _ fun t _ n _ => resetMember_discards s core t n

/-- What the engine holds once the ended set has been met: what it held, of other tasks (R381). -/
theorem resetAll_engine (s : State) (core : Nat) :
    ((s.resetAll core).core core).ctx.mops = [] ∧
      (∀ b ∈ ((s.resetAll core).core core).ctx.banks, b ∈ (s.core core).ctx.banks ∧ b.2.task ∉ s.endedSet core) ∧
      (∀ c ∈ ((s.resetAll core).core core).ctx.claims, c ∈ (s.core core).ctx.claims ∧ s.claimTask c ∉ s.endedSet core) ∧
      ∀ n, ((s.resetAll core).core core).ctx.hold = some n → n ∉ s.endedSet core := by
  obtain ⟨-, b1, c1, -, -⟩ := (Core.engineView_eq_iff _ _).1 ((discardOps_discards s (s.core core).ctx.mops).cores core)
  obtain ⟨m2, b2, c2, h2, -⟩ := (Core.engineView_eq_iff _ _).1 ((resetAll_discards s core).cores core)
  have e : ((s.resetEngine core).core core).ctx =
      (((s.core core).ctx.mops.foldl State.discardOp s).core core).ctx.resetFor (s.endedSet core) s.claimTask := by
    unfold State.resetEngine State.modCtx
    rw [State.core_modCore_same]
  rw [m2, b2, c2, h2, e, ← b1, ← c1]
  exact CoreCtx.resetFor_keeps _ _ _

/-- Each placed task of the ended set receives MATRIX_RESET, and so do the live lanes of its groups and sequencers (R381, R382). -/
theorem resetAll_marks {s : State} {core n : Nat} (hn : n ∈ s.endedSet core) {k : Task} (hk : s.tasks.get n = some k) :
    ((s.resetAll core).task n).mreset = true ∧
      ∀ uid ∈ k.units, ∀ l, (s.unit uid).kind ≠ .acc → (s.unit uid).runAhead = none → ((s.unit uid).lane l).st = .live →
        (((s.resetAll core).unit uid).lane l).mreset = true := by
  have h1 := discardOps_discards s (s.core core).ctx.mops
  obtain ⟨t, h2, h3⟩ := foldl_rel_mem State.Discards.refl .trans (s.resetMember core) (s.resetEngine core)
    (fun t _ m _ => resetMember_discards s core t m) hn
  have em : s.resetMember core t n = t.resetTask n := by simp [State.resetMember, hk]
  rw [em] at h3
  have eu : (t.task n).units = k.units := by
    rw [h2.taskUnits]
    exact (h1.taskUnits n).trans (by rw [State.task, hk]; rfl)
  obtain ⟨m1, m2⟩ := resetTask_marks t n
  refine ⟨h3.mreset n m1, fun uid hu l hk ha hl => ?_⟩
  have hr : (s.unit uid).StaysReached (t.unit uid) := (h1.units uid).trans (h2.units uid)
  have hr' := (resetTask_discards t n).units uid
  have hkt : (t.unit uid).kind ≠ .acc := hr.kind ▸ hk
  have hat := hr.ahead hk ha
  have hlt := hr.live hk ha l hl
  exact (h3.units uid).mreset (hr'.kind ▸ hkt) (hr'.ahead hkt hat) l (hr'.live hkt hat l hlt) (m2 uid (eu ▸ hu) l hkt hat hlt)

theorem State.l1_modCore (s : State) (k : Nat) {f : Core → Core} (hf : (f (s.core k)).l1 = (s.core k).l1) (x : Nat) :
    ((s.modCore k f).core x).l1 = (s.core x).l1 := by
  rw [State.core_modCore]
  split
  next h => rw [h]; exact hf
  next => rfl

/-- What a core reads rests on its L1 and on memory alone. -/
theorem State.viewByte_eq {s t : State} {x : Nat} (hl : (t.core x).l1 = (s.core x).l1) (hm : t.mem = s.mem)
    (hh : t.hostMem = s.hostMem) (a : Nat) : t.viewByte x a = s.viewByte x a := by
  simp only [State.viewByte, State.homeByte, hl, hm, hh]

/-- Where no engine owns a line, a reset writes no byte. -/
theorem resetAll_viewByte {s : State} (hs : s.Unowned) (core x a : Nat) : (s.resetAll core).viewByte x a = s.viewByte x a := by
  have h1 := discardOps_discards s (s.core core).ctx.mops
  obtain ⟨o1, m1, k1⟩ := h1.memory hs
  obtain ⟨-, m2, k2⟩ := (resetAll_discards s core).memory o1
  obtain ⟨-, -, -, -, l1⟩ := (Core.engineView_eq_iff _ _).1 (h1.cores x)
  obtain ⟨-, -, -, -, l2⟩ := (Core.engineView_eq_iff _ _).1 ((resetAll_discards s core).cores x)
  have e : ((s.resetEngine core).core x).l1 = (((s.core core).ctx.mops.foldl State.discardOp s).core x).l1 :=
    State.l1_modCore _ core rfl x
  exact State.viewByte_eq (l2.trans (e.trans l1)) (m2.trans m1) (k2.trans k1) a

/-- RESET of an engine that is not busy (R380 to R382). -/
theorem reset_idle (s : State) (core : Nat) (hb : (s.core core).mresetBusy = false) :
    ∃ t, exec (.reset core) s = .next t ∧ (t.core core).mresetBusy = true ∧ (t.core core).mresetCount = (s.endedSet core).length ∧
      (t.core core).ctx.mops = [] ∧
      (∀ b ∈ (t.core core).ctx.banks, b ∈ (s.core core).ctx.banks ∧ b.2.task ∉ s.endedSet core) ∧
      (∀ c ∈ (t.core core).ctx.claims, c ∈ (s.core core).ctx.claims ∧ s.claimTask c ∉ s.endedSet core) ∧
      (∀ n, (t.core core).ctx.hold = some n → n ∉ s.endedSet core) ∧
      (∀ n ∈ s.endedSet core, ∀ k, s.tasks.get n = some k → (t.task n).mreset = true ∧
        ∀ uid ∈ k.units, ∀ l, (s.unit uid).kind ≠ .acc → (s.unit uid).runAhead = none → ((s.unit uid).lane l).st = .live →
          ((t.unit uid).lane l).mreset = true) ∧
      ∀ x a, (∀ line, (s.lineDir line).owner = none) → t.viewByte x a = s.viewByte x a := by
  obtain ⟨hm, hbk, hcl, hh⟩ := resetAll_engine s core
  refine ⟨_, congrArg Host.Outcome.next (evReset_idle hb), ?_⟩
  rw [State.core_modCore_same]
  refine ⟨rfl, rfl, hm, hbk, hcl, hh, fun n hn k hk => resetAll_marks hn hk, fun x a hs => ?_⟩
  rw [← resetAll_viewByte hs core x a]
  exact State.viewByte_eq (State.l1_modCore _ core rfl x) rfl rfl a

/-! #### Its completion -/

/-- A trace record changes its die, and of cores only the time of the last record of its own (R391). -/
theorem trace_core (s : State) (core ty aux : Nat) (pc : W64) (data : W32) (unit lane : Nat) :
    (∃ x, (s.trace core ty aux pc data unit lane).core core = { s.core core with lastTrace := x }) ∧
      (∀ c, c ≠ core → (s.trace core ty aux pc data unit lane).core c = s.core c) ∧
      (s.trace core ty aux pc data unit lane).units = s.units ∧ (s.trace core ty aux pc data unit lane).tasks = s.tasks := by
  unfold State.trace
  dsimp only
  split
  · exact ⟨⟨_, rfl⟩, fun _ _ => rfl, rfl, rfl⟩
  · refine ⟨?_, fun c hc => State.core_setCore_other _ _ _ _ hc, rfl, rfl⟩
    rw [State.core_setCore_same]
    split
    · exact ⟨_, rfl⟩
    · exact ⟨_, rfl⟩

theorem matrixResetCompletion_busy (s : State) (core : Nat) (hb : (s.core core).mresetBusy = true) :
    ∃ t, exec (.matrixResetCompletion core) s = .next t ∧ (t.core core).mresetBusy = false ∧
      (t.core core).mresetEnded = BitVec.ofNat 9 (s.core core).mresetCount ∧ (t.core core).ctx = (s.core core).ctx ∧
      (∀ c, c ≠ core → t.core c = s.core c) ∧ t.units = s.units ∧ t.tasks = s.tasks := by
  refine ⟨_, rfl, ?_⟩
  unfold evMatrixResetCompletion
  simp only [hb, Bool.not_true, Bool.false_eq_true, if_false]
  set s1 := s.setCore core { s.core core with
    mresetBusy := false, mresetEnded := BitVec.ofNat 9 ((s.core core).mresetCount % 512) } with hs1
  obtain ⟨⟨x, hx⟩, ho, hu, ht⟩ := trace_core s1 core 0x09 ((s.core core).mresetCount % 512 % 256) 0#64 0#32 0 0
  rw [hx, hs1, State.core_setCore_same]
  refine ⟨rfl, ?_, rfl, fun c hc => (ho c hc).trans (State.core_setCore_other _ _ _ _ hc), hu, ht⟩
  exact BitVec.eq_of_toNat_eq (by simp)

theorem engineResets : Claim.EngineResets :=
  ⟨fun s core hb => congrArg Host.Outcome.next (by simp [evReset, hb]), reset_idle, matrixResetCompletion_busy⟩

/-- Settles O45: a reset is followed task by task under what each discarding leaves alone, an invalidation core by core, and a register
write is read off its fields. -/
theorem resetsAndInvalidations : Obligations.ResetsAndInvalidations := ⟨engineResets, tlbInvalidations, registerWrites⟩

end Sys2Proof.Machine
end

section
/-! Every step keeps the registers legal (R18, R23, R253, R393). `State.Legal` names what is kept; each operation of the model is shown
once to keep it, in the order of the definitions. -/

namespace Sys2Proof.Machine

/-- The registers that R18, R23, R253 and R393 bound hold legal values. -/
def State.Legal (s : State) : Prop := Claim.RegistersLegal s

/-- What of a state holds bounded registers. -/
def State.bounded (s : State) : SMap Core × SMap Part × SMap Resid × Option Image := (s.cores, s.parts, s.residDefault, s.image)

/-! ### Values of a map -/

theorem SMap.forall_vals_set {α : Type} {P : α → Prop} {m : SMap α} {k : Nat} {v : α} (h : ∀ x ∈ SMap.vals m, P x) (hv : P v) :
    ∀ x ∈ SMap.vals (SMap.set m k v), P x := by
  intro x hx
  obtain ⟨p, hp, rfl⟩ := List.mem_map.1 hx
  rcases SMap.mem_set hp with rfl | hp
  · exact hv
  · exact h _ (List.mem_map_of_mem hp)

theorem SMap.forall_vals_mapVal {α : Type} {P : α → Prop} {m : SMap α} {f : Nat → α → α} (h : ∀ x ∈ SMap.vals m, P x)
    (hf : ∀ k x, P x → P (f k x)) : ∀ x ∈ SMap.vals (SMap.mapVal f m), P x := by
  intro x hx
  obtain ⟨p, hp, rfl⟩ := List.mem_map.1 hx
  obtain ⟨q, hq, rfl⟩ := List.mem_map.1 hp
  exact hf _ _ (h _ (List.mem_map_of_mem hq))

theorem SMap.forall_vals_filter {α : Type} {P : α → Prop} {m : SMap α} {f : Nat × α → Bool} (h : ∀ x ∈ SMap.vals m, P x) :
    ∀ x ∈ SMap.vals (m.filter f), P x := by
  intro x hx
  obtain ⟨p, hp, rfl⟩ := List.mem_map.1 hx
  exact h _ (List.mem_map_of_mem (List.mem_of_mem_filter hp))

theorem SMap.of_get_getD {α : Type} {P : α → Prop} {m : SMap α} {d : α} (h : ∀ x ∈ SMap.vals m, P x) (hd : P d) (k : Nat) :
    P ((SMap.get m k).getD d) := by
  cases hg : SMap.get m k with
  | none => exact hd
  | some x => exact h _ (List.mem_map_of_mem (SMap.mem_of_get hg))

namespace State.Legal
variable {s t : State}

/-! ### Parts of the state -/

/-- Nothing but the cores, the partitions, their defaults and the checkpoint image is looked at. -/
theorem congr (h : s.Legal) (e : t.bounded = s.bounded) : t.Legal := by
  obtain ⟨hc, hp, hr, hi⟩ : t.cores = s.cores ∧ t.parts = s.parts ∧ t.residDefault = s.residDefault ∧ t.image = s.image := by
    simpa [State.bounded] using e
  unfold Legal Claim.RegistersLegal
  rw [hc, hp, hr, hi]
  exact h

theorem core (h : s.Legal) (k : Nat) : (s.core k).fieldsOk = true :=
  SMap.of_get_getD (P := fun c : Core => c.fieldsOk = true) h.1 (by decide) k

theorem part (h : s.Legal) (k : Nat) : (s.part k).fieldsOk = true :=
  SMap.of_get_getD (P := fun p : Part => p.fieldsOk = true) h.2.1 rfl k

theorem withCores (h : s.Legal) {cs : SMap Core} (hc : ∀ c ∈ cs.vals, c.fieldsOk = true) : ({ s with cores := cs } : State).Legal :=
  ⟨hc, h.2⟩

theorem withParts (h : s.Legal) {ps : SMap Part} (hp : ∀ p ∈ ps.vals, p.fieldsOk = true) : ({ s with parts := ps } : State).Legal :=
  ⟨h.1, hp, h.2.2⟩

theorem setCore_ok (h : s.Legal) {k : Nat} {c : Core} (hc : c.fieldsOk = true) : (s.setCore k c).Legal :=
  h.withCores (SMap.forall_vals_set h.1 hc)

theorem setPart_ok (h : s.Legal) {k : Nat} {p : Part} (hp : p.fieldsOk = true) : (s.setPart k p).Legal :=
  h.withParts (SMap.forall_vals_set h.2.1 hp)

/-- A core is replaced by one that differs elsewhere. -/
theorem setCore (h : s.Legal) {k : Nat} {c : Core} (hc : c.fieldsOk = (s.core k).fieldsOk) : (s.setCore k c).Legal :=
  h.setCore_ok (hc.trans (h.core k))

theorem modCore (h : s.Legal) {k : Nat} {f : Core → Core} (hf : ∀ c : Core, (f c).fieldsOk = c.fieldsOk) :
    (s.modCore k f).Legal :=
  h.setCore (hf _)

theorem modPart (h : s.Legal) {k : Nat} {f : Part → Part} (hf : ∀ p, (f p).fieldsOk = p.fieldsOk) :
    (s.modPart k f).Legal :=
  h.setPart_ok ((hf _).trans (h.part k))

theorem modCtx (h : s.Legal) {k : Nat} {f : CoreCtx → CoreCtx} : (s.modCtx k f).Legal := h.modCore fun _ => rfl

theorem mapCores (h : s.Legal) {f : Nat → Core → Core} (hf : ∀ k c, (f k c).fieldsOk = c.fieldsOk) :
    ({ s with cores := s.cores.mapVal f } : State).Legal :=
  h.withCores (SMap.forall_vals_mapVal h.1 fun k c hc => (hf k c).trans hc)

theorem mapParts (h : s.Legal) {f : Nat → Part → Part} (hf : ∀ k p, (f k p).fieldsOk = p.fieldsOk) :
    ({ s with parts := s.parts.mapVal f } : State).Legal :=
  h.withParts (SMap.forall_vals_mapVal h.2.1 fun k p hp => (hf k p).trans hp)

theorem withClock (h : s.Legal) {n : Nat} : ({ s with clock := n } : State).Legal := h.congr rfl
theorem withTasks (h : s.Legal) {ts : SMap Task} : ({ s with tasks := ts } : State).Legal := h.congr rfl
theorem withUnits (h : s.Legal) {us : SMap Unit} : ({ s with units := us } : State).Legal := h.congr rfl
theorem withFrames (h : s.Legal) {fs : SMap Frame} : ({ s with frames := fs } : State).Legal := h.congr rfl
theorem withLines (h : s.Legal) {ls : SMap LineDir} : ({ s with lines := ls } : State).Legal := h.congr rfl
theorem withCopse (h : s.Legal) {qs : SMap (List QEntry)} : ({ s with copse := qs } : State).Legal := h.congr rfl
theorem withReports (h : s.Legal) {rs : List Report} : ({ s with reports := rs } : State).Legal := h.congr rfl

theorem setUnit (h : s.Legal) {k : Nat} {x : Unit} : (s.setUnit k x).Legal := h.congr rfl
theorem modUnit (h : s.Legal) {k : Nat} {f : Unit → Unit} : (s.modUnit k f).Legal := h.congr rfl
theorem setTask (h : s.Legal) {k : Nat} {x : Task} : (s.setTask k x).Legal := h.congr rfl
theorem modTask (h : s.Legal) {k : Nat} {f : Task → Task} : (s.modTask k f).Legal := h.congr rfl
theorem setDie (h : s.Legal) {k : Nat} {x : Die} : (s.setDie k x).Legal := h.congr rfl
theorem modDie (h : s.Legal) {k : Nat} {f : Die → Die} : (s.modDie k f).Legal := h.congr rfl

theorem foldl {α : Type} {f : State → α → State} {l : List α} (h : s.Legal) (hf : ∀ {t : State} {a : α}, t.Legal → (f t a).Legal) :
    (l.foldl f s).Legal :=
  List.foldlRecOn l f h fun _ ht _ _ => hf ht

/-- A fold that carries a state before what it gathers. -/
theorem foldl_fst {α β : Type} {f : State × β → α → State × β} {l : List α} {x : β} (h : s.Legal)
    (hf : ∀ {t : State} {y : β} {a : α}, t.Legal → (f (t, y) a).1.Legal) : (l.foldl f (s, x)).1.Legal :=
  List.foldlRecOn (motive := fun b => b.1.Legal) l f h fun _ hb _ _ => hf hb

/-- A fold that carries a state behind what it gathers. -/
theorem foldl_snd {α β : Type} {f : β × State → α → β × State} {l : List α} {x : β} (h : s.Legal)
    (hf : ∀ {t : State} {y : β} {a : α}, t.Legal → (f (y, t) a).2.Legal) : (l.foldl f (x, s)).2.Legal :=
  List.foldlRecOn (motive := fun b => b.2.Legal) l f h fun _ hb _ _ => hf hb

/-! ### Memory, home slices and the L1 -/

theorem fillTlb (h : s.Legal) {core asn va : Nat} : (s.fillTlb core asn va).Legal := by
  unfold State.fillTlb
  split
  · exact h.modCore fun _ => rfl
  · exact h

theorem homeWrite (h : s.Legal) {pa : Nat} {b : Byte} : (s.homeWrite pa b).Legal := by
  obtain ⟨m, x, e⟩ := homeWrite_eq s pa b
  rw [e]
  exact h.congr rfl

theorem homeWriteN (h : s.Legal) {pa : Nat} {bs : List Byte} : (s.homeWriteN pa bs).Legal := by
  induction bs generalizing s pa with
  | nil => exact h
  | cons b bs ih => exact ih h.homeWrite

theorem sliceAccess (h : s.Legal) {pa : Nat} : (s.sliceAccess pa).Legal := by
  obtain ⟨x, e⟩ := sliceAccess_eq s pa
  rw [e]
  exact h.congr rfl

theorem slicePrefetch (h : s.Legal) {pa : Nat} : (s.slicePrefetch pa).Legal := by
  unfold State.slicePrefetch
  split
  · exact h
  · dsimp only
    split
    · exact h.sliceAccess.congr rfl
    · exact h.sliceAccess

theorem requestSector (h : s.Legal) {core sector : Nat} : (s.requestSector core sector).2.Legal := by
  unfold State.requestSector
  dsimp only
  split
  · exact h
  · exact (h.modCore (by intro; rfl)).sliceAccess

theorem requestSectors (h : s.Legal) {core : Nat} {ks : List Nat} : (s.requestSectors core ks).2.Legal :=
  h.foldl_snd fun ht => ht.requestSector

theorem install_fieldsOk (c : Core) (f : FillByte) : (c.install f).fieldsOk = c.fieldsOk := by
  unfold Core.install
  split
  · rfl
  · dsimp only
    split <;> rfl

/-- Steps that keep a core's registers keep them when folded. -/
theorem foldl_fieldsOk {α : Type} {f : Core → α → Core} (hf : ∀ c a, (f c a).fieldsOk = c.fieldsOk) (l : List α) (c : Core) :
    (l.foldl f c).fieldsOk = c.fieldsOk :=
  List.foldlRecOn (motive := fun d : Core => d.fieldsOk = c.fieldsOk) l f rfl fun d hd a _ => (hf d a).trans hd

theorem installFill (h : s.Legal) {core : Nat} {fs : List FillByte} : (s.installFill core fs).Legal :=
  h.modCore (foldl_fieldsOk install_fieldsOk fs)

theorem l1Store (h : s.Legal) {core pa : Nat} {b : Byte} : (s.l1Store core pa b).Legal := h.modCore fun _ => rfl

theorem sendFlit (h : s.Legal) {port ty : Nat} {m : Flit} : (s.sendFlit port ty m).Legal := h.congr rfl

theorem remoteWrite (h : s.Legal) {pkg pa : Nat} {b : Byte} : (s.remoteWrite pkg pa b).Legal := by
  unfold State.remoteWrite
  split
  · exact h
  · exact h.congr rfl

theorem wbByte (h : s.Legal) {core pa : Nat} : (s.wbByte core pa).Legal := by
  unfold State.wbByte
  split
  case h_2 => exact h
  split
  · exact h
  split
  · split
    · exact h.modCore fun _ => rfl
    · exact h.remoteWrite.modCore fun _ => rfl
  · exact h.homeWrite.sliceAccess.modCore fun _ => rfl

theorem wbAll (h : s.Legal) {core : Nat} : (s.wbAll core).Legal := h.foldl fun ht => ht.wbByte

theorem incomingEdge (h : s.Legal) {core : Nat} : (s.incomingEdge core).Legal := h.modCore fun _ => rfl

theorem evictByte (h : s.Legal) {core pa : Nat} : (s.evictByte core pa).Legal := by
  unfold State.evictByte
  split
  · exact h
  · exact h.wbByte.modCore fun _ => rfl

theorem flushRange (h : s.Legal) {core pa n : Nat} : (s.flushRange core pa n).Legal := h.foldl fun ht => ht.wbByte.modCore fun _ => rfl

theorem atomicN (h : s.Legal) {core pa n : Nat} {f : Nat → Option Nat} : (s.atomicN core pa n f).2.Legal := by
  unfold State.atomicN
  dsimp only
  split
  · exact h.flushRange.homeWriteN.sliceAccess
  · exact h.flushRange.sliceAccess

/-! ### Trace, coalescer, traps -/

theorem trace (h : s.Legal) {core ty aux : Nat} {pc : W64} {data : W32} {u l : Nat} : (s.trace core ty aux pc data u l).Legal := by
  unfold State.trace
  dsimp only
  split
  · exact h
  · exact h.setDie.setCore (by split <;> rfl)

theorem traceLane (h : s.Legal) {uid l ty aux : Nat} {pc : W64} {data : W32} : (s.traceLane uid l ty aux pc data).Legal := h.trace

theorem coalEvent (h : s.Legal) {core : Nat} {r : CoalRec} : (s.coalEvent core r).Legal := by
  unfold State.coalEvent
  dsimp only
  split
  · exact h.setCore rfl
  split
  · exact h.setCore rfl
  split
  · split <;> exact h.setCore rfl
  · exact h.setCore rfl

theorem escalate (h : s.Legal) {uid l : Nat} {pc : W64} {c : Cause} {i : W64} : (s.escalate uid l pc c i).Legal :=
  h.setUnit.coalEvent.traceLane

theorem trapEntry (h : s.Legal) {uid l : Nat} {pc : W64} {c : Cause} {i : W64} : (s.trapEntry uid l pc c i).Legal := by
  unfold State.trapEntry
  dsimp only
  split
  · exact h.escalate
  split
  · exact h.setUnit.traceLane
  · exact h.setUnit

theorem accRaise (h : s.Legal) {uid : Nat} {pc : W64} {c : Cause} {i : W64} {opc : Nat} : (s.accRaise uid pc c i opc).Legal := h.modUnit

theorem raise (h : s.Legal) {uid l : Nat} {pc : W64} {c : Cause} {i : W64} {opc : Nat} : (s.raise uid l pc c i opc).Legal := by
  unfold State.raise
  split
  · exact h.accRaise
  · exact h.trapEntry

theorem raiseAll (h : s.Legal) {uid : Nat} {ls : List Nat} {pc : W64} {c : Cause} {i : W64} {opc : Nat} :
    (s.raiseAll uid ls pc c i opc).Legal := h.foldl fun ht => ht.raise

theorem settle (h : s.Legal) {x : Issue} {solo : Bool} {outs : List (Nat × LaneOut)} : (s.settle x solo outs).Legal := by
  have hraise : ∀ {t : State} {l : Nat}, t.Legal → (match outOf outs l with
      | .trap c i => t.raise x.uid l x.pc c i x.opc
      | .escal c i => t.escalate x.uid l x.pc c i
      | .jumpTrap pc prio c i => (t.modUnit x.uid fun v => v.place (laneBit l) pc prio none).raise x.uid l pc c i x.opc
      | _ => t).Legal := by
    intro t l ht
    split
    · exact ht.raise
    · exact ht.escalate
    · exact ht.modUnit.raise
    · exact ht
  unfold State.settle
  dsimp only
  split
  · refine (h.setUnit.foldl hraise).foldl fun ht => ?_
    split
    · split
      · exact ht.modUnit.traceLane
      · exact ht
    · exact ht
  · exact h.setUnit.foldl hraise

theorem pass (h : s.Legal) {core n : Nat} : (s.pass core n).Legal := h.modCore fun _ => rfl

theorem counted (h : s.Legal) {x : Issue} {stall : BitVec 4} : (s.counted x stall).Legal :=
  (h.setUnit.modCore (by intro; rfl)).modTask.withClock

end State.Legal
end Sys2Proof.Machine
end

section
/-! What issues keeps the registers legal: run-ahead, page faults, the issue itself, edges, queues, loops and control transfers. -/

namespace Sys2Proof.Machine

/-! ### What a meaning answers -/

/-- The state that an instruction's meaning answers is legal. -/
def Res.Legal : Res → Prop
  | .wait s => s.Legal
  | .done s _ => s.Legal

theorem Res.Legal.of_wait {r : Res} (h : r.Legal) {t : State} (e : r = .wait t) : t.Legal := by
  subst e
  exact h

theorem Res.Legal.of_done {r : Res} (h : r.Legal) {t : State} {outs : List (Nat × LaneOut)} (e : r = .done t outs) : t.Legal := by
  subst e
  exact h

/-- An instruction's meaning keeps legal states. -/
def KeepsLegal (body : Issue → State → Res) : Prop := ∀ {x : Issue} {s : State}, s.Legal → (body x s).Legal

/-- The state that follows, where one does, is legal. -/
def OutcomeLegal (o : Host.Outcome State Fault Refusal) : Prop := ∀ t, o = .next t → t.Legal

theorem State.Legal.next {t : State} (h : t.Legal) : OutcomeLegal (.next t) := by
  rintro _ ⟨⟩
  exact h

def EdgeOut.Legal : EdgeOut → Prop
  | .wait s => s.Legal
  | .fault s _ _ => s.Legal
  | .ok s => s.Legal

def Poll.Legal : Poll → Prop
  | .wait s => s.Legal
  | .go s _ => s.Legal

theorem Poll.Legal.orBlock {p : Poll} {w : Wait} (h : p.Legal) : (p.orBlock w).1.Legal := by
  cases p with
  | wait => exact h
  | go => exact h

namespace State.Legal
variable {s t : State}

/-! ### Run-ahead and page faults -/

theorem aheadCount (h : s.Legal) {x : Issue} {stall : BitVec 4} : (s.aheadCount x stall).Legal :=
  (h.setUnit.modCore (by intro; rfl)).withClock

theorem aheadSettle (h : s.Legal) {x : Issue} {stop : LMask} {outs : List (Nat × LaneOut)} : (s.aheadSettle x stop outs).Legal :=
  h.modUnit.settle

theorem aheadIssue (h : s.Legal) {i : Instr} {stall : BitVec 4} {x : Issue} {body : Issue → State → Res} (hb : KeepsLegal body) :
    (s.aheadIssue i stall x body).Legal := by
  have hrun : ∀ act stop badDst : LMask, (match body { x with act := act } s with
      | .wait t => ((t.modUnit x.uid fun v => v.markDsts i x.act x.act).aheadSettle x stop []).aheadCount x stall
      | .done t outs =>
        ((t.modUnit x.uid fun v => (v.markDsts i x.act (badDst ||| v.missedLanes)).modAhead fun ra =>
          { ra with missed := 0#64 }).aheadSettle x stop outs).aheadCount x stall).Legal := by
    intro act stop badDst
    split
    next e => exact ((hb h).of_wait e).modUnit.aheadSettle.aheadCount
    next e => exact ((hb h).of_done e).modUnit.aheadSettle.aheadCount
  unfold State.aheadIssue
  dsimp only
  split
  · exact hrun ..
  · exact hrun ..
  · exact hrun ..
  · exact hrun ..
  · exact h.modUnit.aheadSettle.aheadCount
  · exact hrun ..
  · exact h.modUnit

theorem aheadMiss (h : s.Legal) {uid : Nat} {m : LMask} {pages : List Nat} : (s.aheadMiss uid m pages).Legal := h.modUnit

theorem accService (h : s.Legal) {uid : Nat} {pc : W64} {pages : List Nat} : (s.accService uid pc pages).Legal :=
  h.setUnit.foldl fun ht => ht.coalEvent

theorem pageFault (h : s.Legal) {x : Issue} {i : Instr} {pages : List Nat} : (s.pageFault x i pages).Legal := by
  unfold State.pageFault
  dsimp only
  split
  · exact h.accService
  · exact h.aheadMiss
  · exact h.setUnit.settle

theorem fetchFault (h : s.Legal) {uid : Nat} {mask : LMask} {page : Nat} : (s.fetchFault uid mask page).Legal := by
  unfold State.fetchFault
  dsimp only
  split
  · exact h.accService
  · exact h.setUnit
  · exact h.setUnit

theorem endAhead (h : s.Legal) {uid : Nat} : (s.endAhead uid).Legal := by
  unfold State.endAhead
  dsimp only
  split
  · exact h
  · exact h.setUnit.foldl fun ht => ht.coalEvent

/-! ### The issue of an instruction -/

theorem runIssueThen (h : s.Legal) {hd : Hdr} {i : Instr} {body : Issue → State → Res} {post : Nat → State → State}
    (hb : KeepsLegal body) (hp : ∀ {uid : Nat} {t : State}, t.Legal → (post uid t).Legal) :
    OutcomeLegal (runIssueThen hd i body post s) := by
  unfold Machine.runIssueThen
  split
  · nofun
  next uid _ =>
    have h0 : (s.modUnit uid Unit.retire).Legal := h.modUnit
    generalize s.modUnit uid Unit.retire = s0 at h0
    dsimp only
    split
    · exact h0.next
    split
    · split
      · exact h0.modUnit.next
      · exact h0.raiseAll.next
    split
    · exact h0.pass.next
    split
    · split
      · exact h0.modUnit.next
      · exact (h0.modCore (by intro; rfl)).settle.counted.next
    split
    · exact (h0.aheadIssue hb).next
    split
    next e => exact ((hb h0).of_wait e).pass.next
    next e => exact (hp ((hb h0).of_done e).settle.counted).next

theorem runIssue (h : s.Legal) {hd : Hdr} {i : Instr} {body : Issue → State → Res} (hb : KeepsLegal body) :
    OutcomeLegal (runIssue hd i body s) :=
  h.runIssueThen hb id

theorem execPad32 (h : s.Legal) : OutcomeLegal (execPad32 s) := by
  unfold Machine.execPad32
  split
  · nofun
  · dsimp only
    split
    · exact h.next
    · exact h.setUnit.next

/-! ### Edges and frames -/

theorem raiseHeld {body : Issue → State → Res} (hb : KeepsLegal body) : KeepsLegal (raiseHeld body) := by
  intro x s h
  unfold Machine.raiseHeld
  dsimp only
  split
  · split
    · exact hb h
    · exact h.setUnit
  · exact hb h

theorem outEdge (h : s.Legal) {uid l : Nat} : (s.outEdge uid l).Legal := by
  unfold State.outEdge
  dsimp only
  split
  · exact h
  split
  · exact h.setUnit
  split
  · exact h.modUnit
  split
  · exact h
  split
  · exact h.wbAll
  split
  · exact h.wbAll.modUnit
  · exact h.wbAll

theorem strandEnd (h : s.Legal) {uid l : Nat} : (s.strandEnd uid l).Legal := h.modCtx

theorem awaitDone (h : s.Legal) {uid l : Nat} (e : s.awaitDone uid l = some t) : t.Legal := by
  unfold State.awaitDone at e
  split at e
  · cases e; exact h
  split at e
  · cases e; exact h.modUnit
  split at e
  · cases e
    exact h.withFrames.incomingEdge.modUnit
  · cases e

theorem markAwait (h : s.Legal) {uid l : Nat} : (s.markAwait uid l).Legal := by
  unfold State.markAwait
  split
  · exact h.congr rfl
  · exact h

theorem handFrame (h : s.Legal) {uid l : Nat} : (s.handFrame uid l).Legal := by
  unfold State.handFrame
  dsimp only
  split
  · exact h
  split
  · exact h.modUnit
  split
  · exact h.congr rfl
  · exact h.modUnit.withFrames.modTask

theorem pollLanes (h : s.Legal) {f : Nat → State → State × LaneOut} (hf : ∀ {l : Nat} {t : State}, t.Legal → (f l t).1.Legal)
    {ls : List Nat} : (pollLanes f ls s).1.Legal :=
  h.foldl_fst fun ht => hf ht

theorem awaitPoll (h : s.Legal) {uid l : Nat} : (awaitPoll uid l s).Legal := by
  unfold Machine.awaitPoll
  split
  next e => exact h.awaitDone e
  · exact h.markAwait

/-- What follows an outgoing edge: the wait and the fault are answered in the edge's own state. -/
theorem afterEdge {r : EdgeOut} (hr : r.Legal) {f : State → Poll} (hf : ∀ {t : State}, t.Legal → (f t).Legal) :
    (match r with
      | .wait t => Poll.wait t
      | .fault t c i => .go t (.trap c i)
      | .ok t => f t).Legal := by
  cases r with
  | wait => exact hr
  | fault => exact hr
  | ok => exact hf hr

theorem exitPoll (h : s.Legal) {uid l : Nat} : (exitPoll uid l s).Legal := by
  unfold Machine.exitPoll
  split
  · exact h.markAwait
  next e => exact afterEdge (h.awaitDone e).outEdge fun ht => ht.strandEnd.modUnit

theorem exitjPoll (h : s.Legal) {uid l : Nat} : (exitjPoll uid l s).Legal :=
  afterEdge h.outEdge fun ht => ht.handFrame.strandEnd.modUnit

/-! ### Queues -/

theorem compute {lat : Nat} {d : Reg} {f : Unit → Nat → W64} : KeepsLegal (compute lat d f) := fun h => h.modUnit

theorem computePred {lat : Nat} {p : Pred} {f : Unit → Nat → Bool} : KeepsLegal (computePred lat p f) := fun h => h.modUnit

theorem setQueue (h : s.Legal) {n : Nat} {q : QueueN} {qs : QueueSt} : (s.setQueue n q qs).Legal := h.modTask

theorem takeEntry (h : s.Legal) {n : Nat} {q : QueueN} {w : QWord} (e : s.takeEntry n q = some (w, t)) : t.Legal := by
  unfold State.takeEntry at e
  split at e
  · cases e
  split at e
  · cases e; exact h
  split at e
  · cases e
  · cases e; exact h.setQueue

theorem putEntry (h : s.Legal) {n : Nat} {q : QueueN} {w : QWord} (e : s.putEntry n q w = some t) : t.Legal := by
  unfold State.putEntry at e
  split at e
  · cases e
  split at e
  · cases e
  · cases e; exact h.setQueue.modTask

theorem qpopTry (h : s.Legal) {uid : Nat} {d : Reg} {q : QueueN} {tag : Option Reg} {m : LMask} {outs : List (Nat × LaneOut)}
    (e : qpopTry uid d q tag m s = some (t, outs)) : t.Legal := by
  unfold Machine.qpopTry at e
  split at e
  · cases e
  next e' =>
    split at e
    · cases e; exact (h.takeEntry e').modUnit
    · cases e; exact (h.takeEntry e').modUnit

theorem qpopBody {d : Reg} {q : QueueN} {tag : Option Reg} : KeepsLegal (qpopBody d q tag) := by
  intro x s h
  unfold Machine.qpopBody
  split
  · exact h
  split
  · exact h
  split
  next e => exact h.qpopTry e
  · exact h.modUnit

theorem qpushBody {fin : Bool} {a : Reg} {q : QueueN} {tag : Option Reg} : KeepsLegal (qpushBody fin a q tag) := by
  intro x s h
  unfold Machine.qpushBody
  dsimp only
  split
  · exact h
  split
  · exact h
  split
  next e => exact h.putEntry e
  · exact h

theorem qstaBody {d : Reg} {q : QueueN} : KeepsLegal (qstaBody d q) := by
  intro x s h
  unfold Machine.qstaBody
  dsimp only
  split
  · exact h
  split
  · exact h
  split
  · exact h.modUnit
  · exact h

/-! ### Loops -/

theorem nextGrant {fuel : Nat} {uid : Nat} {lp lp' : Loop} {g : Grant} (h : s.Legal)
    (e : s.nextGrant uid lp fuel = some (t, lp', g)) : t.Legal := by
  induction fuel generalizing s lp with
  | zero => cases e
  | succ fuel ih =>
    unfold State.nextGrant at e
    split at e
    · split at e <;> (cases e; exact h)
    split at e
    · cases e; exact h
    split at e
    · cases e; exact h
    split at e
    · cases e
    next e' =>
      dsimp only at e
      split at e
      · cases e; exact h.takeEntry e'
      generalize (if hasFlag _ tagEmpty = true then 0 else tagCount _) = n at e
      split at e
      · cases e; exact h.takeEntry e'
      · exact ih (h.takeEntry e') e

theorem feedLoop {fuel uid : Nat} (h : s.Legal) : (s.feedLoop uid fuel).Legal := by
  induction fuel generalizing s with
  | zero => exact h
  | succ fuel ih =>
    unfold State.feedLoop
    split
    · exact h
    split
    · exact h
    split
    · exact h
    next e => exact ih (h.nextGrant e).modUnit

theorem feedGrants (h : s.Legal) {uid : Nat} : (s.feedGrants uid).Legal := by
  unfold State.feedGrants
  split
  · exact h.feedLoop
  · exact h

theorem takeGrant (h : s.Legal) {uid l : Nat} {prio : BitVec 2} {g : Grant} : (s.takeGrant uid l prio g).1.Legal := by
  unfold State.takeGrant
  dsimp only
  split <;> exact h.modUnit

theorem grantPoll (h : s.Legal) {bp : BitVec 2} {uid l : Nat} : (grantPoll bp uid l s).Legal := by
  unfold Machine.grantPoll
  split
  · exact h.takeGrant
  · exact h

theorem rflPoll (h : s.Legal) {bp : BitVec 2} {held : LMask} {uid l : Nat} : (rflPoll bp held uid l s).Legal := by
  have hgrant : ∀ {p : Poll}, p.Legal → (match p with
      | .wait t => Poll.go t (.block (.grant bp))
      | p => p).Legal := by
    intro p hp
    cases p with
    | wait => exact hp
    | go => exact hp
  unfold Machine.rflPoll
  dsimp only
  split
  · exact h.markAwait
  next e =>
    split
    · exact afterEdge (h.awaitDone e).outEdge fun ht => hgrant ht.strandEnd.modUnit.grantPoll
    · exact hgrant (h.awaitDone e).strandEnd.modUnit.grantPoll

theorem checkDrain (h : s.Legal) {uid : Nat} : (checkDrain uid s).Legal := by
  unfold Machine.checkDrain
  dsimp only
  split
  · exact h
  split
  · exact h
  · exact h.setUnit

theorem rfliRelease (h : s.Legal) {uid : Nat} : (rfliRelease uid s).Legal := by
  unfold Machine.rfliRelease
  dsimp only
  split
  · exact h
  split
  · exact h
  split
  · exact ((h.foldl fun ht => ht.strandEnd).setUnit.feedGrants.pollLanes fun ht => ht.grantPoll.orBlock).settle.checkDrain
  · exact h

theorem syngRelease (h : s.Legal) {uid : Nat} : (syngRelease uid s).Legal := by
  unfold Machine.syngRelease
  dsimp only
  split
  · exact h
  split
  · exact h.setUnit
  · exact h

theorem groupRelease (h : s.Legal) {uid : Nat} : (groupRelease uid s).Legal := h.syngRelease.rfliRelease.checkDrain

/-! ### Control transfers -/

theorem callBody {bp : BitVec 2} {link : Reg} {f : Issue → Unit → Nat → W64} : KeepsLegal (callBody bp link f) := fun h => h.modUnit

theorem stopReport (h : s.Legal) {uid l : Nat} {pc : W64} {aux : Nat} {data : W32} : (s.stopReport uid l pc aux data).Legal :=
  h.traceLane.congr rfl

theorem brkBody {code : BitVec 8} : KeepsLegal (brkBody code) := by
  intro x s h
  unfold Machine.brkBody
  split
  · exact h.foldl fun ht => ht.stopReport
  · exact h

theorem rfliBody {i : Instr} {ord : Bool} {src : IterSrc} {lens : LoopLens} : KeepsLegal (rfliBody i ord src lens) := by
  intro x s h
  unfold Machine.rfliBody
  dsimp only
  split
  · exact h
  split
  · exact h
  · split <;> exact h

theorem rflBody {i : Instr} {ord : Bool} {bp : BitVec 2} : KeepsLegal (rflBody i ord bp) := by
  intro x s h
  unfold Machine.rflBody
  dsimp only
  split
  · exact h.setUnit.feedGrants.pollLanes fun ht => ht.rflPoll.orBlock
  · exact h

end State.Legal
end Sys2Proof.Machine
end

section
/-! Accesses of lanes and the copy engine keep the registers legal. -/

namespace Sys2Proof.Machine

/-! ### Reads of lanes and engines -/

/-- The state that a lane's reads leave is legal. -/
def Reads.Legal : Reads → Prop
  | .wait s => s.Legal
  | .done s _ _ _ => s.Legal

/-- The state that an engine's read leaves is legal. -/
def EngRead.Legal : EngRead → Prop
  | .wait s => s.Legal
  | .lost s _ => s.Legal
  | .got s _ => s.Legal

/-- The state that a version's read leaves is legal. -/
def VerRead.Legal : VerRead → Prop
  | .wait s => s.Legal
  | .lost s => s.Legal
  | .got s _ => s.Legal

/-- The state that a fill leaves is legal. -/
def FillRun.Legal : FillRun → Prop
  | .wait s => s.Legal
  | .miss s _ => s.Legal
  | .fault s _ _ _ => s.Legal
  | .done s _ _ => s.Legal

/-- The state that a descriptor's read leaves is legal. -/
def DescRead.Legal : DescRead → Prop
  | .stop r => r.Legal
  | .got s _ => s.Legal

namespace State.Legal
variable {s t : State}

/-! ### Loads, stores and scratchpad accesses -/

theorem globalAccess (h : s.Legal) {i : Instr} {x : Issue} {xs : List (Nat × LaneX)} {vas : Nat → W64}
    {perform : List (Nat × List Nat) → State → Res} (hp : ∀ {ls : List (Nat × List Nat)} {t : State}, t.Legal → (perform ls t).Legal) :
    (globalAccess i x xs vas perform s).Legal := by
  unfold Machine.globalAccess
  dsimp only
  split
  · exact h.pageFault
  · have h1 : (if (missPages xs).isEmpty = true then s else s.aheadMiss x.uid (missLanes xs) (missPages xs)).Legal := by
      split
      · exact h
      · exact h.aheadMiss
    split
    next e => exact (hp (h1.foldl fun ht => ht.fillTlb)).of_wait e
    next e => exact (hp (h1.foldl fun ht => ht.fillTlb)).of_done e

theorem sendFar (h : s.Legal) {core uid l pkg line : Nat} {mask : BitVec 128} {atomic : Bool} {ty : Nat} {payload : List Byte} :
    (s.sendFar core uid l pkg line mask atomic ty payload).Legal := by
  have h1 : s.fresh.2.Legal := h.congr rfl
  unfold State.sendFar
  dsimp only
  split
  · exact (h1.modCore (by intro; rfl)).sendFlit
  · exact h1.modCore fun _ => rfl

theorem sendReads (h : s.Legal) {core uid l : Nat} {pas : List Nat} : (s.sendReads core uid l pas).Legal := by
  refine h.foldl fun ht => ?_
  split
  · exact ht.sendFar
  · exact ht

theorem clearFar (h : s.Legal) {core uid : Nat} : (s.clearFar core uid).Legal := h.modCore fun _ => rfl

theorem readLanes (h : s.Legal) {core uid : Nat} {ls : List (Nat × List Nat)} {r : Reads} (e : s.readLanes core uid ls = r) :
    r.Legal := by
  subst e
  unfold State.readLanes
  dsimp only
  split
  · split
    · exact h
    · exact h.foldl fun ht => ht.sendReads
  split
  · exact h
  split
  · exact h
  · exact h.requestSectors.clearFar

theorem fresh (h : s.Legal) : s.fresh.2.Legal := h.congr rfl

theorem request (h : s.Legal) {core uid : Nat} {ws : List (Dst × List (Nat × W64))} {fill : List FillByte} :
    (s.request core uid ws fill).2.Legal := by
  unfold State.request
  extract_lets ws0 ahead s0 ws1
  have h0 : s0.Legal := by
    dsimp only [s0]
    split
    · exact h.modUnit
    · exact h
  split
  · exact h0
  · exact (h0.fresh.modCore (by intro; rfl)).modUnit

theorem draw (h : s.Legal) : s.draw.2.Legal := h.congr rfl

theorem writeSample (h : s.Legal) {core : Nat} {m : Sample} : (s.writeSample core m).Legal := by
  unfold State.writeSample
  dsimp only
  split
  · exact h
  · exact h.traceLane.draw.draw.draw.setDie

theorem countSample (h : s.Legal) {core : Nat} {x : Issue} {done : List (Nat × List Nat)} {req : Option Nat} :
    (s.countSample core x done req).Legal := by
  unfold State.countSample
  dsimp only
  split
  · exact h
  split
  · exact h.setCore rfl
  split
  · exact h.setCore rfl
  · exact (h.setCore (by rfl)).modCore fun _ => rfl

theorem ldPerform (h : s.Legal) {size : Size} {d : Reg} {x : Issue} {ls : List (Nat × List Nat)} {ea : Nat → W64} :
    (ldPerform size d x ls ea s).Legal := by
  unfold Machine.ldPerform
  dsimp only
  split
  next e => exact h.readLanes e
  next t _ _ _ e =>
    have ht : t.Legal := h.readLanes e
    exact ht.request.countSample

theorem ldBody {i : Instr} {size : Size} {d a : Reg} {off : Option Reg} {disp : Disp} : KeepsLegal (ldBody i size d a off disp) :=
  fun h => h.globalAccess fun ht => ht.ldPerform

theorem storeBytes (h : s.Legal) {core uid l : Nat} {pas : List Nat} {bs : List Byte} : (s.storeBytes core uid l pas bs).Legal := by
  have h1 : ((pas.zip bs).foldl (fun t p => t.l1Store core p.1 p.2) s).Legal := h.foldl fun ht => ht.l1Store
  unfold State.storeBytes
  dsimp only
  split
  · exact h1.modUnit
  · exact h1

theorem stPerform (h : s.Legal) {size : Size} {d : Reg} {x : Issue} {ls : List (Nat × List Nat)} : (stPerform size d x ls s).Legal :=
  countSample (h.foldl fun ht => ht.storeBytes)

theorem stBody {i : Instr} {size : Size} {d a : Reg} {off : Option Reg} {disp : Disp} : KeepsLegal (stBody i size d a off disp) :=
  fun h => h.globalAccess fun ht => ht.stPerform

theorem prefetch (h : s.Legal) {core uid l part asn : Nat} {l2 : Bool} {va : W64} : (s.prefetch core uid l part asn l2 va).Legal := by
  unfold State.prefetch
  split
  case h_2 => exact h.modCore fun _ => rfl
  dsimp only
  split
  · split
    · exact h.fillTlb.slicePrefetch
    · exact h.fillTlb
  split
  · split
    · exact h.fillTlb
    · exact h.fillTlb.sendFar
  split
  · exact h.fillTlb
  · exact h.fillTlb.slicePrefetch.requestSectors.request

theorem prefBody {l2 : Bool} {a : Reg} {off : Option Reg} {disp : Disp} : KeepsLegal (prefBody l2 a off disp) :=
  fun h => h.foldl fun ht => ht.prefetch

theorem writeAll (h : s.Legal) {uid : Nat} {ws : List (Dst × List (Nat × W64))} : (s.writeAll uid ws).Legal := h.modUnit

theorem spadWrite (h : s.Legal) {n a : Nat} {bs : List Byte} : (s.spadWrite n a bs).Legal := h.modTask

theorem ldsBody {size : Size} {d a : Reg} {off : Option Reg} {disp : Disp} : KeepsLegal (ldsBody size d a off disp) :=
  fun h => h.writeAll

theorem stsBody {size : Size} {d a : Reg} {off : Option Reg} {disp : Disp} : KeepsLegal (stsBody size d a off disp) :=
  fun h => h.foldl fun ht => ht.spadWrite

theorem tileAccess (h : s.Legal) {n : Nat} {load vec : Bool} {bytes : Nat} {off : Nat → Nat} {x : Issue}
    {perform : Nat → List (Nat × Nat) → State → State}
    (hp : ∀ {b : Nat} {ls : List (Nat × Nat)} {t : State}, t.Legal → (perform b ls t).Legal) :
    (tileAccess n load vec bytes off x perform s).Legal := by
  unfold Machine.tileAccess
  dsimp only
  split
  · exact h
  split
  · exact h
  · exact h
  · exact hp h

theorem ldtBody {size : Size} {d a : Reg} {tn : Tile} {imm : W32} : KeepsLegal (ldtBody size d a tn imm) := by
  intro x s h
  unfold Machine.ldtBody
  exact h.tileAccess fun ht => ht.writeAll

theorem sttBody {size : Size} {d a : Reg} {tn : Tile} {imm : W32} : KeepsLegal (sttBody size d a tn imm) := by
  intro x s h
  unfold Machine.sttBody
  exact h.tileAccess fun ht => ht.foldl fun hu => hu.spadWrite

/-! ### Atomics -/

theorem pubEdges (h : s.Legal) {uid : Nat} {ls : List Nat} (e : s.pubEdges uid ls = some t) : t.Legal := by
  unfold State.pubEdges at e
  dsimp only at e
  split at e
  · cases e
  split at e
  · cases e
  · cases e; exact h.wbAll.modUnit

theorem doAtomics (h : s.Legal) {core uid : Nat} {code : Nat → AtomCode} {ls : List (Nat × List Nat)} :
    (s.doAtomics core uid code ls).2.Legal := by
  unfold State.doAtomics
  refine h.foldl_snd fun ht => ?_
  dsimp only
  split
  · exact ht
  · exact ht.atomicN

theorem sendAtomic (h : s.Legal) {core uid l : Nat} {k : AtomCode} {pa pkg : Nat} : (s.sendAtomic core uid l k pa pkg).Legal :=
  h.flushRange.sendFar

theorem atomPerform (h : s.Legal) {pub sub : Bool} {d : Reg} {size : Size} {code : Nat → AtomCode} {addr : Nat → W64} {x : Issue}
    {ls : List (Nat × List Nat)} : (atomPerform pub sub d size code addr x ls s).Legal := by
  unfold Machine.atomPerform
  extract_lets core lost ls' edge
  have hedge : ∀ {s0 : State}, edge = some s0 → s0.Legal := by
    intro s0 e
    dsimp only [edge] at e
    split at e
    · exact h.pubEdges e
    · cases e; exact h
  clear_value edge
  split
  · exact h.wbAll
  next s0 =>
    have h0 : s0.Legal := hedge rfl
    extract_lets far new st down go
    split
    · exact h0.foldl fun ht => ht.sendAtomic
    split
    · exact h0
    split
    · exact h0
    · refine countSample (foldl ?_ fun ht => ht.modUnit)
      split
      · exact h0.doAtomics.clearFar.request.incomingEdge
      · exact h0.doAtomics.clearFar.request

theorem atomBody {i : Instr} {pub sub : Bool} {d : Reg} {size : Size} {vec : Bool} {addr : Unit → Nat → W64}
    {code : Unit → Nat → AtomCode} : KeepsLegal (atomBody i pub sub d size vec addr code) := by
  intro x s h
  unfold Machine.atomBody
  dsimp only
  split
  · exact raiseHeld (fun ht => ht.globalAccess fun hu => hu.atomPerform) h
  · exact h.globalAccess fun hu => hu.atomPerform

/-! ### The copy engine -/

theorem setCopy (h : s.Legal) {core id : Nat} {o : CopyOp} : (s.setCopy core id o).Legal := h.modCtx

theorem dropCopy (h : s.Legal) {core id : Nat} : (s.dropCopy core id).Legal := h.modCore fun _ => rfl

theorem acted (h : s.Legal) {n : Nat} : (s.acted n).Legal := h.modTask

theorem fillTlbs (h : s.Legal) {core n : Nat} {vas : List Nat} : (s.fillTlbs core n vas).Legal := h.foldl fun ht => ht.fillTlb

theorem copyMiss (h : s.Legal) {core id : Nat} {o : CopyOp} {page : Nat} : (s.copyMiss core id o page).Legal := by
  unfold State.copyMiss
  split
  · exact h
  · exact h.setCopy.coalEvent

theorem clearFarLane (h : s.Legal) {core id l : Nat} : (s.clearFarLane core id l).Legal := h.modCore fun _ => rfl

theorem aonRetry (h : s.Legal) {core id : Nat} {o : CopyOp} : (s.aonRetry core id o).Legal :=
  (h.setCopy.modCore (by intro; rfl)).clearFarLane

theorem modTile (h : s.Legal) {n k : Nat} {f : TileEnt → TileEnt} : (s.modTile n k f).Legal := h.modTask

theorem fillSlot (h : s.Legal) {n k : Nat} {hdr payload : List Byte} {fault : Option (Nat × W64)} :
    (s.fillSlot n k hdr payload fault).Legal := h.modTask.modTile

theorem writeCells (h : s.Legal) {cs : Cells} : (s.writeCells cs).Legal := h.foldl fun ht => ht.homeWrite

theorem dirtyCells (h : s.Legal) {core line : Nat} : (s.dirtyCells core line).2.Legal := h.modCore fun _ => rfl

theorem askLine (h : s.Legal) {line : Nat} {who : Nat × Nat × Nat} : (s.askLine line who).Legal := h.congr rfl

theorem releaseLine (h : s.Legal) {line : Nat} : (s.releaseLine line).Legal := h.congr rfl

theorem askLines (h : s.Legal) {who : Nat × Nat × Nat} {ls : List (Nat × Cells)} : (s.askLines who ls).2.Legal := by
  induction ls generalizing s with
  | nil => exact h
  | cons p ls ih => exact ih h.dirtyCells.askLine

theorem engineRead (h : s.Legal) {core id : Nat} {pas : List Nat} {r : EngRead} (e : s.engineRead core id pas = r) : r.Legal := by
  subst e
  unfold State.engineRead
  split
  next e => exact h.readLanes e
  next t _ _ _ e =>
    have ht : t.Legal := h.readLanes e
    split
    · exact ht.installFill
    · exact ht

theorem bypassRead (h : s.Legal) {core id : Nat} {pas : List Nat} {r : EngRead} (e : s.bypassRead core id pas = r) : r.Legal := by
  subst e
  unfold State.bypassRead
  dsimp only
  split
  · exact h.sendReads
  split
  · exact h
  split
  · exact h
  split
  · exact h
  · exact h

theorem versionOp (h : s.Legal) {core id l : Nat} {k : AtomCode} {pa : Nat} {r : VerRead} (e : s.versionOp core id l k pa = r) :
    r.Legal := by
  subst e
  unfold State.versionOp
  split
  · split
    · exact h.sendAtomic
    split
    · exact h.clearFarLane
    split
    · exact h.clearFarLane
    · exact h
  split
  · exact h
  · exact h.atomicN

theorem loadData (h : s.Legal) {rd : State → List Nat → EngRead} {o : CopyOp} {cap core version : Nat} {r : FillRun}
    (hrd : ∀ {t : State} {pas : List Nat} {q : EngRead}, t.Legal → rd t pas = q → q.Legal)
    (e : loadData rd o cap core s version = r) : r.Legal := by
  subst e
  have hread : ∀ {vas : List Nat} {hd : TileHdr} {go : State → List Byte → FillRun}, (∀ {t bs}, t.Legal → (go t bs).Legal) →
      (match s.engineXlat core o.task .r vas with
        | .miss g => FillRun.miss s g
        | .fault _ c va => .fault s c (BitVec.ofNat 64 va) hd
        | .ok pas =>
          match rd (s.fillTlbs core o.task vas) pas with
          | .wait t => .wait t
          | .lost t k => .fault t cLink (BitVec.ofNat 64 (vas.getD k 0)) hd
          | .got t bs => go t bs).Legal := by
    intro vas hd go hgo
    split
    · exact h
    · exact h
    split
    next e => exact hrd h.fillTlbs e
    next e => exact hrd h.fillTlbs e
    next e => exact hgo (hrd h.fillTlbs e)
  unfold Machine.loadData
  dsimp only
  split
  · refine hread fun _ => hread fun ht => ?_
    split
    · exact ht
    · exact ht
  · refine hread fun ht => ?_
    split
    · exact ht
    · exact ht

theorem aonLoad (h : s.Legal) {o : CopyOp} {cap core id : Nat} {r : FillRun} (e : aonLoad o cap core id s = r) : r.Legal := by
  subst e
  unfold Machine.aonLoad
  extract_lets d hd
  split
  · exact h
  · exact h
  · extract_lets pa first
    have hfirst : first.Legal := by
      dsimp only [first]
      split
      · exact h
      · exact h.versionOp rfl
    clear_value first
    cases first with
    | wait => exact hfirst
    | lost => exact hfirst
    | got t v =>
      have ht : t.Legal := hfirst
      dsimp only
      split
      · exact ht.aonRetry
      split
      next t1 _ _ e =>
        have h1 : t1.Legal := ht.setCopy.loadData (fun hu => hu.bypassRead) e
        split
        next e2 => exact h1.versionOp e2
        next e2 => exact h1.versionOp e2
        next t2 _ e2 =>
          have h2 : t2.Legal := h1.versionOp e2
          split
          · exact h2
          · exact h2.aonRetry
      · exact ht.setCopy.loadData (fun hu => hu.bypassRead) rfl

theorem runFill (h : s.Legal) {core id : Nat} {o : CopyOp} {r : FillRun} (e : s.runFill core id o = r) : r.Legal := by
  subst e
  unfold State.runFill
  dsimp only
  split
  · exact h.loadData (fun hu => hu.engineRead) rfl
  · exact h.aonLoad rfl
  · exact h
  · split <;> exact h
  · exact h

theorem storeGo (h : s.Legal) {core id : Nat} {o : CopyOp} {cs : Cells} {fault : Option (Nat × W64)} :
    (s.storeGo core id o cs fault).Legal := by
  unfold State.storeGo
  dsimp only
  split
  next e => exact h.bypassRead e
  next t _ e =>
    have ht : t.Legal := h.bypassRead e
    exact ht.setCopy
  next t _ e =>
    have ht : t.Legal := h.bypassRead e
    refine setCopy (askLines (foldl (ht.foldl fun hu => hu.foldl fun hv => hv.wbByte) fun hu => ?_))
    split
    · exact hu.remoteWrite
    · exact hu

theorem holdVersion (h : s.Legal) {core id : Nat} {o : CopyOp} {go : CopyOp → State → State}
    (hgo : ∀ {p : CopyOp} {t : State}, t.Legal → (go p t).Legal) : (s.holdVersion core id o go).Legal := by
  unfold State.holdVersion
  dsimp only
  split
  · exact hgo h
  split
  · exact h.copyMiss
  · exact h.setCopy
  split
  next e => exact h.versionOp e
  next t e =>
    have ht : t.Legal := h.versionOp e
    exact ht.setCopy
  next t _ e =>
    have ht : t.Legal := h.versionOp e
    split
    · exact ht
    · exact hgo ht.setCopy

theorem startStore (h : s.Legal) {core id : Nat} : (s.startStore core id).Legal := by
  unfold State.startStore
  split
  · exact h
  split
  case h_2 => exact h
  split
  · exact h
  next o _ _ _ _ _ _ =>
    have hgo : ∀ {p : CopyOp} {t : State} {vas : List Nat} {bs : List (Byte × Byte)}, t.Legal →
        (match t.engineXlat core o.task .w vas with
          | .miss g => t.copyMiss core id p g
          | .fault pas c va => t.storeGo core id p (pas.zip bs) (some (c, BitVec.ofNat 64 va))
          | .ok pas => (t.fillTlbs core o.task vas).storeGo core id p (pas.zip bs) none).Legal := by
      intro p t vas bs ht
      split
      · exact ht.copyMiss
      · exact ht.storeGo
      · exact ht.fillTlbs.storeGo
    dsimp only
    split
    · exact h.holdVersion hgo
    · exact hgo h

theorem startStores (h : s.Legal) {core : Nat} : (s.startStores core).Legal := h.foldl fun ht => ht.startStore

theorem storeDone (h : s.Legal) {core id : Nat} {o : CopyOp} {keep : Bool} : (s.storeDone core id o keep).Legal :=
  h.modTile.modUnit.dropCopy.acted

theorem finishStore (h : s.Legal) {core id : Nat} {o : CopyOp} {keep : Bool} : (s.finishStore core id o keep).Legal := by
  unfold State.finishStore
  split
  · exact h
  split
  · exact h.storeDone
  split
  next e => exact h.versionOp e
  next t _ e =>
    have ht : t.Legal := h.versionOp e
    exact ht.storeDone
  next t e =>
    have ht : t.Legal := h.versionOp e
    exact ht.storeDone

theorem fillDone (h : s.Legal) {core id : Nat} {o : CopyOp} {hdr payload : List Byte} : (s.fillDone core id o hdr payload).Legal :=
  h.fillSlot.dropCopy.acted

theorem copyCompletion (h : s.Legal) {core id : Nat} : (evCopyCompletion core id s).Legal := by
  unfold evCopyCompletion
  split
  · exact h
  split
  · split
    · exact h.startStore
    split
    · exact h
    · exact h.finishStore
  split
  next e => exact h.runFill e
  next t _ e =>
    have ht : t.Legal := h.runFill e
    split
    · exact ht.copyMiss
    · exact ht
  · exact h
  next t _ _ e =>
    have ht : t.Legal := h.runFill e
    exact ht.fillDone

theorem copyDataFault (h : s.Legal) {core id : Nat} : (evCopyDataFault core id s).Legal := by
  unfold evCopyDataFault
  split
  · exact h
  split
  · split
    · exact h.finishStore
    · exact h
  split
  next t _ _ _ e =>
    have ht : t.Legal := h.runFill e
    exact ht.fillSlot.dropCopy.acted
  · exact h

theorem addUndeliverable (h : s.Legal) {asn : Nat} {pages : List Nat} : (s.addUndeliverable asn pages).Legal := by
  refine h.foldl fun ht => ?_
  split
  · exact ht
  · exact ht.congr rfl

theorem copyPageFaultService (h : s.Legal) {core id : Nat} {und : List Nat} : (evCopyPageFaultService core id und s).Legal := by
  unfold evCopyPageFaultService
  split
  · exact h
  next o _ =>
    have h1 : (match s.copyPage core id o with
        | some g => if und.contains g then s.addUndeliverable (s.task o.task).asn [g] else s.copyMiss core id o g
        | none => s).Legal := by
      split
      · split
        · exact h.addUndeliverable
        · exact h.copyMiss
      · exact h
    dsimp only
    split
    · exact h1.startStores
    · exact h1

theorem aonVersionWait (h : s.Legal) {core id : Nat} : (evAonVersionWait core id s).Legal := by
  unfold evAonVersionWait
  split
  · exact h
  split
  · split
    · exact h.startStores
    · exact h
  · exact h

theorem copyLineRelease (h : s.Legal) {line core id : Nat} : (copyLineRelease line core id s).Legal := by
  unfold Machine.copyLineRelease
  split
  · exact h.releaseLine
  · exact h.writeCells.sliceAccess.releaseLine.setCopy

end State.Legal
end Sys2Proof.Machine
end

section
/-! The Understory's instructions, the copy instructions, the cross-lane ones and the placement of tasks keep the registers legal. -/

namespace Sys2Proof.Machine
namespace State.Legal
variable {s t : State}

/-! ### The Understory's instructions -/

theorem accAccess (h : s.Legal) {i : Instr} {hn : HandleN} {off : Option Reg} {disp : Disp} {n : Nat} {p : HPerm} {q : Perm}
    {perform : W64 → List (Nat × List Nat) → State → Res} {x : Issue}
    (hp : ∀ {va : W64} {ls : List (Nat × List Nat)} {t : State}, t.Legal → (perform va ls t).Legal) :
    (accAccess i hn off disp n p q perform x s).Legal := by
  unfold Machine.accAccess
  dsimp only
  split
  · exact h
  split
  · exact h
  · exact h.globalAccess fun ht => hp ht

theorem aprfBody {l2 : Bool} {hn : HandleN} {off : Option Reg} {disp : Disp} : KeepsLegal (aprfBody l2 hn off disp) := by
  intro x s h
  unfold Machine.aprfBody
  dsimp only
  split
  · exact h
  split
  · exact h.modCore fun _ => rfl
  · exact h.prefetch

/-- A meaning that only changes the unit that issues. -/
theorem ownUnit (h : s.Legal) {x : Issue} {f : Unit → Unit} :
    (if x.act == 0#64 then Res.done s [] else .done (s.modUnit x.uid f) []).Legal := by
  split
  · exact h
  · exact h.modUnit

theorem startStream (h : s.Legal) {i : Instr} {a b c d : Option Reg} {f : Stream → Stream} {x : Issue} :
    (startStream i a b c d f x s).Legal := by
  unfold Machine.startStream
  dsimp only
  split
  · exact h
  · exact h.fresh.setUnit

theorem streamBody {i : Instr} {hn : HandleN} {p : HPerm} {a b c d : Option Reg} {qs : List QueueN} {misuse : Task → Option W64} :
    KeepsLegal (streamBody i hn p a b c d qs misuse) := by
  intro x s h
  unfold Machine.streamBody
  extract_lets u o
  split
  · exact h
  split
  · exact h
  split
  · exact h
  split
  · exact h
  · exact h.startStream

theorem appendBody {i : Instr} {q : QueueN} {f : State → Unit → List (List (List W32) × W32)} : KeepsLegal (appendBody i q f) := by
  intro x s h
  unfold Machine.appendBody
  dsimp only
  split
  · exact h
  split
  · exact h
  · exact h.startStream

theorem qendXBody {i : Instr} {q : Option QueueN} : KeepsLegal (qendXBody i q) := by
  intro x s h
  unfold Machine.qendXBody
  extract_lets r
  have hr : r.Legal := by
    dsimp only [r]
    split
    · exact appendBody h
    split
    · exact h
    · exact h.startStream
  clear_value r
  split
  · exact hr
  · exact hr

theorem qtakeBody {pop : Bool} {d : Reg} {q : QueueN} {a : Reg} : KeepsLegal (qtakeBody pop d q a) := by
  intro x s h
  unfold Machine.qtakeBody
  dsimp only
  split
  · exact h
  split
  · exact h
  split
  · exact h
  split
  · exact h
  split
  next e =>
    split
    · exact h.takeEntry e
    split
    · exact (h.takeEntry e).modUnit
    · exact h.modUnit
  · exact h

theorem qclrBody {q : QueueN} : KeepsLegal (qclrBody q) := by
  intro x s h
  unfold Machine.qclrBody
  dsimp only
  split
  · exact h
  split
  · exact h
  split
  · exact h
  · exact h.setQueue

/-! ### The copy instructions -/

theorem modRing (h : s.Legal) {n : Nat} {r : Ring} {f : RingSt → RingSt} : (s.modRing n r f).Legal := h.modTask

theorem beginFill (h : s.Legal) {n k : Nat} {dest : TileRef} : (s.beginFill n dest k).Legal := by
  cases dest with
  | tile => exact h.modTile
  | ring => exact h.modTile.modRing

theorem destWait (h : s.Legal) {dest : TileRef} {e : TileEnt} {x : Issue} : (destWait dest e x s).Legal := by
  unfold Machine.destWait
  split
  · exact h
  · exact h

theorem putCopy (h : s.Legal) {x : Issue} {f : CopyOp → CopyOp} : (s.putCopy x f).2.Legal := h.draw.fresh.setCopy

theorem kickFill (h : s.Legal) {core id : Nat} : (s.kickFill core id).Legal := by
  unfold State.kickFill
  split
  · exact h
  split
  next e => exact h.runFill e
  · exact h.copyMiss
  · exact h

theorem zeroFill (h : s.Legal) {n : Nat} {dest : TileRef} {k kindw rows cols : Nat} {scales : List Byte} :
    (s.zeroFill n dest k kindw rows cols scales).Legal := h.beginFill.fillSlot

theorem readDesc (h : s.Legal) {i : Instr} {dsp : Bool} {a : W64} {x : Issue} {r : DescRead} (e : readDesc i dsp a x s = r) :
    r.Legal := by
  subst e
  unfold Machine.readDesc
  dsimp only
  split
  · split
    · exact h
    split
    · exact h
    · exact h
  split
  · exact h
  split
  · exact h
  · exact h.pageFault
  split
  next e => exact h.fillTlb.readLanes e
  next q _ _ _ e =>
    have hq : q.Legal := h.fillTlb.readLanes e
    split
    · exact hq
    · exact hq.request

theorem cplGo (h : s.Legal) {aon : Bool} {dest : TileRef} {n k : Nat} {bs : List Byte} {coords : List Int} {ext : Option Nat}
    {x : Issue} : (cplGo aon dest n k bs coords ext x s).Legal := by
  unfold Machine.cplGo
  dsimp only
  split
  · exact h
  split
  · exact h
  split
  · exact h.destWait
  split
  · exact h.zeroFill
  · exact h.beginFill.putCopy.kickFill

theorem cplBody {i : Instr} {aon dsp : Bool} {ext : Option Reg} {dest : TileRef} {a b : Reg} :
    KeepsLegal (cplBody i aon dsp ext dest a b) := by
  intro x s h
  unfold Machine.cplBody
  dsimp only
  split
  · exact h
  split
  · exact h
  split
  next e => exact h.readDesc e
  next t _ e =>
    have ht : t.Legal := h.readDesc e
    exact ht.cplGo

theorem cpsGo (h : s.Legal) {keep aon : Bool} {src : TileRef} {n k : Nat} {bs : List Byte} {coords : List Int} {x : Issue} :
    (cpsGo keep aon src n k bs coords x s).Legal := by
  unfold Machine.cpsGo
  dsimp only
  split
  · exact h
  split
  · exact h
  split
  · exact h
  · cases src with
    | tile => exact h.modTile.putCopy.startStores
    | ring => exact h.modTile.modRing.putCopy.startStores

theorem cpsSource (h : s.Legal) {keep aon dsp : Bool} {src : TileRef} {a b : Reg} {n k : Nat} {bs : List Byte} {coords : List Int}
    {x : Issue} : (cpsSource keep aon dsp src a b n k bs coords x s).Legal := by
  unfold Machine.cpsSource
  dsimp only
  split
  · exact h
  split
  · split
    · split
      · exact h.cpsGo
      · exact h
    · exact h
  split
  · exact h
  · exact h
  · exact h
  · exact h.cpsGo

theorem cpsBody {i : Instr} {keep aon dsp : Bool} {src : TileRef} {a b : Reg} : KeepsLegal (cpsBody i keep aon dsp src a b) := by
  intro x s h
  unfold Machine.cpsBody
  dsimp only
  split
  · exact h
  split
  · exact h
  split
  next e => exact h.readDesc e
  next t _ e =>
    have ht : t.Legal := h.readDesc e
    exact ht.cpsSource

theorem cpfBody {dest : TileRef} {a b : Reg} {kindw : W32} : KeepsLegal (cpfBody dest a b kindw) := by
  intro x s h
  unfold Machine.cpfBody
  dsimp only
  split
  · exact h
  split
  · exact h
  split
  · exact h
  split
  · exact h
  split
  · exact h.destWait
  split
  · exact h.zeroFill
  · exact h.beginFill.putCopy

theorem cpxGo (h : s.Legal) {tr : Bool} {dest : TileRef} {n k m j : Nat} {x : Issue} : (cpxGo tr dest n k m j x s).Legal := by
  unfold Machine.cpxGo
  dsimp only
  split
  · exact h
  split
  · exact h
  split
  · exact h
  split
  · exact h
  split
  · exact h
  split
  · exact h.destWait
  · exact h.beginFill.putCopy

theorem cpxBody {tr : Bool} {dest : TileRef} {src : Tile} : KeepsLegal (cpxBody tr dest src) := by
  intro x s h
  unfold Machine.cpxBody
  dsimp only
  split
  · exact h
  split
  · exact h
  · exact h
  · exact h.cpxGo

theorem cpwBody : KeepsLegal cpwBody := by
  intro x s h
  unfold Machine.cpwBody
  split
  · exact h
  split
  · exact h
  · refine raiseHeld (fun {x s} h => ?_) h
    unfold cpwEdge
    dsimp only
    split
    · exact h.incomingEdge.modUnit
    · exact h

theorem riniGo (h : s.Legal) {n : Nat} {r : Ring} {g : RingSt} {first count : Nat} : (riniGo n r g first count s).Legal := by
  refine modRing (foldl (h.foldl fun ht => ?_) fun ht => ht.modTile)
  exact ht.modTile

theorem riniBody {r : Ring} {tn : Tile} {count : BitVec 5} : KeepsLegal (riniBody r tn count) := by
  intro x s h
  unfold Machine.riniBody
  extract_lets u k
  split
  · exact h
  split
  · exact h
  · extract_lets n first
    split
    · exact h
    split
    · exact h
    · exact h.riniGo

theorem awfTry (h : s.Legal) {uid : Nat} {d : Option Reg} {r : Ring} {m : LMask} {outs : List (Nat × LaneOut)}
    (e : awfTry uid d r m s = some (t, outs)) : t.Legal := by
  unfold Machine.awfTry at e
  dsimp only at e
  split at e
  · cases e
  split at e
  · cases e
  split at e
  · cases e; exact h.modUnit
  · cases e; exact h.modUnit.modUnit

theorem awfBody {d : Option Reg} {r : Ring} : KeepsLegal (awfBody d r) := by
  intro x s h
  unfold Machine.awfBody
  split
  · exact h
  split
  · exact h
  split
  next e => exact h.awfTry e
  · exact h.modUnit

theorem rlsRingBody {r : Ring} : KeepsLegal (rlsRingBody r) := by
  intro x s h
  unfold Machine.rlsRingBody
  dsimp only
  split
  · exact h
  split
  · exact h
  split
  · exact h
  · exact h.modTile.modRing

theorem rlsTileBody {tn : Tile} : KeepsLegal (rlsTileBody tn) := by
  intro x s h
  unfold Machine.rlsTileBody
  dsimp only
  split
  · exact h
  split
  · exact h
  split
  · exact h
  split
  · exact h
  · exact h.modTile

theorem rstaBody {d : Reg} {r : Ring} : KeepsLegal (rstaBody d r) := by
  intro x s h
  unfold Machine.rstaBody
  dsimp only
  split
  · exact h
  split
  · exact h
  · exact h.modUnit

theorem tstaBody {sel : BitVec 3} {d : Reg} {tn : Tile} : KeepsLegal (tstaBody sel d tn) := by
  intro x s h
  unfold Machine.tstaBody
  dsimp only
  split
  · exact h
  split
  · exact h
  · exact h.modUnit

theorem tbindSpBody {tn : Tile} {a : Reg} {cap : W32} : KeepsLegal (tbindSpBody tn a cap) := by
  intro x s h
  unfold Machine.tbindSpBody
  dsimp only
  split
  · exact h
  split
  · exact h
  split
  · exact h
  split
  · exact h
  · exact h.modTile

theorem bindName (h : s.Legal) {n j k : Nat} : (s.bindName n j k).Legal := h.modTask

theorem tbindRingBody {tn : Tile} {r : Ring} {slot : RingSt → Nat} : KeepsLegal (tbindRingBody tn r slot) := by
  intro x s h
  unfold Machine.tbindRingBody
  dsimp only
  split
  · exact h
  split
  · exact h
  · exact h
  · exact h.bindName

theorem tbindSelfBody {tn : Tile} : KeepsLegal (tbindSelfBody tn) := by
  intro x s h
  unfold Machine.tbindSelfBody
  dsimp only
  split
  · exact h
  split
  · exact h
  · exact h.bindName

/-! ### Results across lanes -/

theorem voteBody {mode : VoteMode} {d p : BitVec 8} : KeepsLegal (voteBody mode d p) := by
  intro x s h
  cases mode with
  | ballot => exact compute h
  | any | all | eq => exact computePred h

theorem rducBody {op : RedOp} {rm : Rm} {z : Bool} {d a : Reg} : KeepsLegal (rducBody op rm z d a) := fun h => h.modUnit

theorem scanBody {op : RedOp} {rm : Rm} {z excl : Bool} {d a : Reg} : KeepsLegal (scanBody op rm z excl d a) := fun h => h.modUnit

/-! ### Task queues, placement and completion -/

theorem pushOverflow (h : s.Legal) {die part : Nat} {es : List QEntry} (e : s.pushOverflow die part es = some t) : t.Legal := by
  unfold State.pushOverflow at e
  dsimp only at e
  split at e
  · cases e; exact h.setPart_ok (h.part part)
  · cases e

theorem pushCanopy (h : s.Legal) {die : Nat} {q : QEntry} (e : s.pushCanopy die q = some t) : t.Legal := by
  unfold State.pushCanopy at e
  dsimp only at e
  split at e
  · cases e; exact h.setDie
  split at e
  · cases e
  · obtain ⟨u, hu, rfl⟩ := Option.map_eq_some_iff.1 e
    exact (h.pushOverflow hu).setDie

theorem pushCanopies {es : List QEntry} (h : s.Legal) {die : Nat} (e : s.pushCanopies die es = some t) : t.Legal := by
  induction es generalizing s with
  | nil => cases e; exact h
  | cons q es ih =>
    obtain ⟨u, hu, he⟩ := Option.bind_eq_some_iff.1 e
    exact ih (h.pushCanopy hu) he

theorem pushCopse (h : s.Legal) {cl : Nat} {q : QEntry} (e : s.pushCopse cl q = some t) : t.Legal := by
  unfold State.pushCopse at e
  dsimp only at e
  split at e
  · cases e; exact h.congr rfl
  · obtain ⟨u, hu, rfl⟩ := Option.map_eq_some_iff.1 e
    exact (h.pushCanopies hu).congr rfl

theorem pushCopses {es : List QEntry} (h : s.Legal) {cl : Nat} (e : s.pushCopses cl es = some t) : t.Legal := by
  induction es generalizing s with
  | nil => cases e; exact h
  | cons q es ih =>
    obtain ⟨u, hu, he⟩ := Option.bind_eq_some_iff.1 e
    exact ih (h.pushCopse hu) he

theorem pushGlade (h : s.Legal) {core : Nat} {q : QEntry} (e : s.pushGlade core q = some t) : t.Legal := by
  unfold State.pushGlade at e
  dsimp only at e
  split at e
  · cases e; exact h.modCore fun _ => rfl
  split at e
  · cases e
  · obtain ⟨u, hu, rfl⟩ := Option.map_eq_some_iff.1 e
    exact (h.pushCopses hu).modCore fun _ => rfl

theorem openFrame (h : s.Legal) {uid l : Nat} (e : s.openFrame uid l = some t) : t.Legal := by
  obtain ⟨a, -, rfl⟩ := Option.map_eq_some_iff.1 e
  exact h.withFrames.modUnit

theorem dropFrame (h : s.Legal) {uid l : Nat} : (s.dropFrame uid l).Legal := by
  unfold State.dropFrame
  split
  · exact h.withFrames.modUnit
  · exact h

theorem addUnits {us : List Unit} (h : s.Legal) : (s.addUnits us).2.Legal := by
  induction us generalizing s with
  | nil => exact h
  | cons u us ih => exact ih h.fresh.setUnit

theorem placeOn (h : s.Legal) {core : Nat} {q : QEntry} {slots : List Nat} : (s.placeOn core q slots).Legal := by
  unfold State.placeOn
  extract_lets old
  dsimp only
  split
  · exact h.addUnits.setTask.withTasks.modCtx.incomingEdge
  · exact h.addUnits.setTask.withTasks.modCtx

theorem shedGlade (h : s.Legal) {core : Nat} : (s.shedGlade core).Legal := by
  unfold State.shedGlade
  dsimp only
  split
  · exact h
  split
  next e => exact (h.pushCopses e).modCore fun _ => rfl
  · exact h

theorem placeOne (h : s.Legal) {core : Nat} : (s.placeOne core).Legal := by
  unfold State.placeOne
  dsimp only
  split
  · exact h.shedGlade.placeOn.modCore fun _ => rfl
  split
  · exact h.shedGlade.placeOn.modCore fun _ => rfl
  · exact h.shedGlade

theorem launchCont (h : s.Legal) {n : Nat} : (s.launchCont n).Legal := by
  unfold State.launchCont
  dsimp only
  split
  · exact h
  · exact h.fresh.modCore fun _ => rfl

theorem joinDown (h : s.Legal) {n : Nat} : (s.joinDown n).Legal := by
  unfold State.joinDown
  dsimp only
  split
  · exact h.setTask.launchCont
  · exact h.setTask

theorem launchDown (h : s.Legal) {n : Nat} : (s.launchDown n).Legal := by
  unfold State.launchDown
  dsimp only
  split
  · exact h
  split
  · exact h.congr rfl
  · exact h.congr rfl

theorem completeTask (h : s.Legal) {n : Nat} : (s.completeTask n).Legal := by
  unfold State.completeTask
  dsimp only
  split
  · exact h.modCtx.withUnits.setTask.modCtx
  split
  · exact h.modCtx.withUnits.setTask.joinDown
  · exact h.modCtx.withUnits.setTask.launchCont

theorem frameDown (h : s.Legal) {a : Nat} : (s.frameDown a).Legal := by
  unfold State.frameDown
  dsimp only
  split
  · exact h
  split
  · exact h.withFrames.joinDown
  · exact h.withFrames

theorem childDone (h : s.Legal) {n : Nat} : (s.childDone n).Legal := by
  unfold State.childDone
  dsimp only
  split
  · exact h.withTasks.frameDown
  · exact h.withTasks.launchDown

end State.Legal
end Sys2Proof.Machine
end

section
/-! Tasks, waits, the coalescer, the debug events and the matrix engine keep the registers legal. -/

namespace Sys2Proof.Machine

/-- The state that a record's read leaves is legal. -/
def RecRead.Legal : RecRead → Prop
  | .stop r => r.Legal
  | .got s _ => s.Legal

namespace State.Legal
variable {s t : State}

/-! ### Tasks -/

theorem readRecord (h : s.Legal) {i : Instr} {a : W64} {x : Issue} {r : RecRead} (e : readRecord i a x s = r) : r.Legal := by
  subst e
  unfold Machine.readRecord
  dsimp only
  split
  · exact h
  split
  · exact h
  · exact h.pageFault
  split
  next e => exact h.fillTlb.readLanes e
  next q _ _ _ e =>
    have hq : q.Legal := h.fillTlb.readLanes e
    split
    · exact hq
    · exact hq.request

theorem spawnOne (h : s.Legal) {r : List Byte} {addr arg : W64} {index : Nat} {x : Issue} {l : Nat} :
    (spawnOne r addr arg index x l s).1.Legal := by
  unfold Machine.spawnOne
  extract_lets u k new
  split
  · exact h
  next s1 e =>
    have h1 : s1.Legal := by
      split at e
      · exact h.openFrame e
      · cases e; exact h
    extract_lets back
    have hback : back.Legal := by
      dsimp only [back]
      split
      · exact h1.dropFrame
      · exact h1
    clear_value back
    dsimp only
    split
    · exact hback
    next e3 =>
      have h3 := h1.fresh.pushGlade e3
      split
      · exact hback.modUnit
      split
      · exact h3.modCtx.withFrames
      · exact h3.modCtx

theorem spawnAll {r : List Byte} {addr : W64} {arg : Nat → W64} {x : Issue} {ls : List Nat} {k : Nat} (h : s.Legal) :
    (spawnAll r addr arg x ls k s).1.Legal := by
  induction ls generalizing s k with
  | nil => exact h
  | cons l ls ih =>
    unfold Machine.spawnAll
    split
    · exact ih h
    · exact ih h.spawnOne

theorem spawnPerform (h : s.Legal) {group : Bool} {addr : W64} {arg : Nat → W64} {x : Issue} {r : List Byte} :
    (spawnPerform group addr arg x r s).Legal := by
  unfold Machine.spawnPerform
  extract_lets u spawners able edges s1 q others s2
  split
  · exact h.wbAll
  · have h1 : s1.Legal := by
      dsimp only [s1]
      split
      · exact h
      · exact h.wbAll
    split
    · exact h1
    · exact h1.spawnAll.modUnit

theorem spawnBody {i : Instr} {group : Bool} {a b : Reg} : KeepsLegal (spawnBody i group a b) := by
  intro x s h
  unfold Machine.spawnBody
  dsimp only
  split
  · exact h
  split
  next e => exact h.readRecord e
  next t _ e =>
    have ht : t.Legal := h.readRecord e
    exact ht.spawnPerform

theorem awaitBody : KeepsLegal awaitBody := fun h => h.pollLanes fun ht => ht.awaitPoll.orBlock

theorem exitBody : KeepsLegal exitBody := fun h => h.pollLanes fun ht => ht.exitPoll.orBlock

theorem exitjBody : KeepsLegal exitjBody := fun h => h.pollLanes fun ht => ht.exitjPoll.orBlock

theorem registerThen {i : Instr} {join : Bool} {a b : Reg} {body : Issue → State → Res} (hb : KeepsLegal body) :
    KeepsLegal (registerThen i join a b body) := by
  intro x s h
  unfold Machine.registerThen
  extract_lets u k addr joins
  split
  · exact h
  split
  · exact hb h
  split
  next e => exact h.readRecord e
  next t _ e =>
    have ht : t.Legal := h.readRecord e
    split
    · exact ht
    · exact hb ht.modTask

theorem rgrowBody {d : Reg} {n : BitVec 8} : KeepsLegal (rgrowBody d n) := by
  intro x s h
  unfold Machine.rgrowBody
  dsimp only
  split
  · exact h
  split
  · exact h.setUnit
  split
  · exact h.setUnit
  split
  · exact h
  · exact h.setUnit.modCtx

theorem rshrkBody {n : BitVec 8} : KeepsLegal (rshrkBody n) := by
  intro x s h
  unfold Machine.rshrkBody
  dsimp only
  split
  · exact h.setUnit
  · exact h

theorem yieldBody : KeepsLegal yieldBody := by
  intro x s h
  unfold Machine.yieldBody
  dsimp only
  split
  · exact h.setCore rfl
  · exact h

/-! ### Blocked lanes -/

theorem ordPoll (h : s.Legal) {e : Entry} {uid l : Nat} : (ordPoll e uid l s).Legal := by
  unfold Machine.ordPoll
  dsimp only
  split
  · split
    · exact h
    · exact h
  · exact h

theorem leaveGrants (h : s.Legal) {uid l : Nat} : (s.leaveGrants uid l).Legal := h.modUnit

theorem lanePoll (h : s.Legal) {e : Entry} {w : Wait} {uid l : Nat} {p : Poll} (hp : lanePoll e w uid l s = some p) : p.Legal := by
  cases w with
  | await => cases hp; exact h.awaitPoll
  | exit => cases hp; exact h.exitPoll
  | exitj => cases hp; exact h.exitjPoll
  | rfl => cases hp; exact h.rflPoll
  | ord => cases hp; exact h.ordPoll
  | grant bp =>
    unfold Machine.lanePoll at hp
    dsimp only at hp
    split at hp
    · cases hp; exact h.leaveGrants
    · cases hp; exact h.grantPoll
  | _ => cases hp

theorem pollEntry (h : s.Legal) {e : Entry} {w : Wait} {uid : Nat} : (pollEntry e w uid s).Legal := by
  unfold Machine.pollEntry
  extract_lets r gone
  have hr : r.1.Legal := by
    refine h.foldl_fst fun ht => ?_
    dsimp only
    split
    next e => exact ht.lanePoll e
    next e => exact ht.lanePoll e
    · exact ht
  clear_value r
  split
  · exact hr
  · exact hr.settle

theorem pollWhole (h : s.Legal) {e : Entry} {w : Wait} {uid : Nat} : (pollWhole e w uid s).Legal := by
  unfold Machine.pollWhole
  extract_lets done k slotThere
  split
  · split
    next e => exact (h.awfTry e).settle
    · exact h
  · split
    · exact h
    split
    next e => exact (cpsBody h).of_wait e
    next e =>
      split
      · exact h
      · exact ((cpsBody h).of_done e).settle
  · split
    next e => exact (h.qpopTry e).settle
    · exact h
  · split
    next e => exact (h.putEntry e).settle
    · exact h
  · exact h

theorem pollBlocked (h : s.Legal) {uid : Nat} {e : Entry} : (pollBlocked uid s e).Legal := by
  unfold Machine.pollBlocked
  split
  · exact h
  split
  · exact h.pollWhole
  · exact h.pollWhole
  · exact h.pollWhole
  · exact h.pollWhole
  · exact h.pollEntry

theorem refreshUnit (h : s.Legal) {uid : Nat} : (refreshUnit uid s).Legal := by
  unfold Machine.refreshUnit
  dsimp only
  split
  · exact h
  · exact (h.feedGrants.foldl fun ht => ht.pollBlocked).groupRelease

theorem noteAwaits (h : s.Legal) : s.noteAwaits.Legal := h.withTasks

theorem noteFails (h : s.Legal) {core : Nat} : (s.noteFails core).Legal := h.setCore rfl

theorem noteCycle (h : s.Legal) {uid : Nat} : (s.noteCycle uid).Legal := by
  unfold State.noteCycle
  dsimp only
  split
  · exact h
  · exact h.setUnit

theorem refresh (h : s.Legal) : s.refresh.Legal := by
  unfold State.refresh
  exact ((h.foldl fun ht => ht.refreshUnit).foldl fun ht => ht.noteCycle).noteAwaits.foldl fun ht => ht.noteFails

/-! ### The coalescer's events -/

theorem coalRetry (h : s.Legal) {core : Nat} : (s.coalRetry core).Legal := by
  unfold State.coalRetry
  dsimp only
  split
  · exact h
  split
  · exact h
  · exact (h.setCore (by rfl)).coalEvent

theorem coalescerRecordClose (h : s.Legal) {core : Nat} : (evCoalescerRecordClose core s).Legal := by
  unfold evCoalescerRecordClose
  dsimp only
  split
  · exact h
  split
  · exact h
  · exact (h.setCore (by rfl)).coalRetry

theorem ringWrite (h : s.Legal) {core : Nat} {r : CoalRec} : (s.ringWrite core r).Legal := h.homeWriteN.modPart fun _ => rfl

theorem faultRingWrite (h : s.Legal) {core : Nat} : (evFaultRingWrite core s).Legal := by
  unfold evFaultRingWrite
  dsimp only
  split
  · exact h
  split
  · exact (h.setCore (by rfl)).ringWrite.coalRetry
  · exact h

theorem hangRecord (h : s.Legal) {uid l : Nat} {pc : W64} {groups : BitVec 256} : (s.hangRecord uid l pc groups).Legal :=
  h.coalEvent.traceLane

theorem hangReport (h : s.Legal) {n : Nat} : (evHangReport n s).Legal := by
  unfold evHangReport
  dsimp only
  split
  · exact h
  split
  · exact h
  · exact h.hangRecord.modTask

theorem waitCycleReport (h : s.Legal) {uid : Nat} : (evWaitCycleReport uid s).Legal := by
  unfold evWaitCycleReport
  dsimp only
  split
  · split
    · exact h.hangRecord.modUnit
    · exact h
  · exact h

theorem runAheadEnd (h : s.Legal) {uid : Nat} : (evRunAheadEnd uid s).Legal := by
  unfold evRunAheadEnd
  split
  · exact h.endAhead
  · exact h

theorem pageFaultService (h : s.Legal) {uid : Nat} {und : List Nat} : (evPageFaultService uid und s).Legal := by
  unfold evPageFaultService
  dsimp only
  split
  · exact h
  · exact h.addUndeliverable.setUnit

/-! ### Debug and trace events -/

theorem breakpointStop (h : s.Legal) {uid l : Nat} : (evBreakpointStop uid l s).Legal := by
  unfold evBreakpointStop
  split
  · exact h.modUnit.stopReport
  · exact h

theorem resume (h : s.Legal) {uid l : Nat} : (evResume uid l s).Legal := by
  unfold evResume
  split
  · exact h.modUnit
  · exact h

theorem step (h : s.Legal) {uid l : Nat} : (evStep uid l s).Legal := by
  unfold evStep
  split
  · exact h.modUnit
  · exact h

theorem debugWrite (h : s.Legal) {uid l : Nat} {w : DebugWrite} : (debugWrite uid l w s).Legal := by
  unfold Machine.debugWrite
  dsimp only
  split
  · exact h
  · exact h.setUnit

theorem sample (h : s.Legal) {core : Nat} : (evSample core s).Legal := by
  unfold evSample
  split
  · exact h
  · exact (h.modCore (by intro; rfl)).writeSample

theorem segmentClose (h : s.Legal) {die : Nat} : (evSegmentClose die s).Legal := h.modDie

theorem segmentSubmit (h : s.Legal) {die : Nat} : (evSegmentSubmit die s).Legal := by
  unfold evSegmentSubmit
  dsimp only
  split
  · exact h
  split
  · exact h.setDie
  · exact h.setDie.homeWriteN

theorem segmentWriteCompletion (h : s.Legal) {die : Nat} : (evSegmentWriteCompletion die s).Legal := by
  unfold evSegmentWriteCompletion
  dsimp only
  split
  · exact h
  · exact h.setDie

theorem heartwoodFrozenClear (h : s.Legal) {die : Nat} : (evHeartwoodFrozenClear die s).Legal := h.modDie

/-! ### The matrix engine -/

theorem dropWait (h : s.Legal) {uid : Nat} : (s.dropWait uid).Legal := h.modCtx

theorem noteWait (h : s.Legal) {x : Issue} {i : Instr} {turn : Bool} : (s.noteWait x i turn).Legal := by
  unfold State.noteWait
  dsimp only
  split
  · exact h
  · exact h.modCtx

theorem acceptOp (h : s.Legal) {x : Issue} {i : Instr} {lat : Nat} {f : MatOp → MatOp} : (s.acceptOp x i lat f).2.Legal :=
  h.fresh.modCtx

theorem reservePass (h : s.Legal) {core lat : Nat} : (s.reservePass core lat).Legal := h.modCtx

theorem matBody {i : Instr} {chk : Issue → State → MChk} {go : Issue → State → Res} (hgo : KeepsLegal go) :
    KeepsLegal (matBody i chk go) := by
  intro x s h
  unfold Machine.matBody
  dsimp only
  split
  · exact h
  split
  · split
    · exact h
    · exact h.noteWait
  split
  · exact h.noteWait
  · exact h.dropWait
  · exact hgo h.dropWait

theorem takeHold (h : s.Legal) {core n : Nat} : (s.takeHold core n).Legal := h.modCtx

theorem acalGo {i32 : Bool} {names : List Nat} : KeepsLegal (acalGo i32 names) := fun h => h.modCtx.modTask

theorem acfrGo {names : List Nat} : KeepsLegal (acfrGo names) := fun h => h.modCtx.modTask

theorem acclmGo {pair : Bool} {a : BankN} {first count : Nat} : KeepsLegal (acclmGo pair a first count) := fun h => h.modCtx

theorem aczGo {i : Instr} {a : BankN} : KeepsLegal (aczGo i a) := fun h => h.acceptOp

theorem mldsGo {i : Instr} {k1 : Bool} {n : Tile} : KeepsLegal (mldsGo i k1 n) := fun h => h.takeHold.modCtx.acceptOp

theorem mswpGo : KeepsLegal mswpGo := fun h => h.takeHold.modCtx

theorem passGo (h : s.Legal) {i : Instr} {lat : Nat} {ts : List Target} {banks : List Nat} {srcs : List (List Byte × List Byte)}
    {x : Issue} : (passGo i lat ts banks srcs x s).Legal := h.reservePass.acceptOp

theorem mmaGo {i : Instr} {byHdr : Bool} {a : BankN} {n : Tile} {m : BitVec 8} : KeepsLegal (mmaGo i byHdr a n m) :=
  fun h => h.passGo

theorem mbmpGo {i : Instr} {a : BankN} {ta tb : Tile} {m : BitVec 8} : KeepsLegal (mbmpGo i a ta tb m) := fun h => h.passGo

theorem fillGo (h : s.Legal) {i : Instr} {lat k : Nat} {f : MatOp → MatOp} {x : Issue} : (fillGo i lat k f x s).2.Legal :=
  h.modTile.acceptOp

theorem mhadGo {i : Instr} {p : HadP} {n : Tile} : KeepsLegal (mhadGo i p n) := fun h => h.reservePass.fillGo

theorem mprnGo {i : Instr} {tr : Bool} {td ts : Tile} : KeepsLegal (mprnGo i tr td ts) := fun h => h.reservePass.fillGo

theorem acrdGo (h : s.Legal) {i : Instr} {a : BankN} {rows : List Nat} {ds : List Dst} {x : Issue} :
    (acrdGo i a rows ds x s).Legal := h.acceptOp.modUnit

theorem acstGo {i : Instr} {cnt : Option Reg} {n : Tile} {a : BankN} {first : BitVec 5} {rows : BitVec 6} :
    KeepsLegal (acstGo i cnt n a first rows) := fun h => h.fillGo.modUnit

theorem mstatBody {sel : MstatSel} {d : Reg} : KeepsLegal (mstatBody sel d) := by
  intro x s h
  unfold Machine.mstatBody
  split
  · exact h
  · exact h.modUnit

theorem mwaitBody : KeepsLegal mwaitBody := by
  intro x s h
  unfold Machine.mwaitBody
  split
  · exact h
  · exact h

theorem matEffect (h : s.Legal) {core : Nat} {o : MatOp} : (s.matEffect core o).Legal := by
  unfold State.matEffect
  dsimp only
  split
  · exact h.modCtx
  · exact h.modCtx
  · exact h.modCtx
  · exact h.modCtx
  · exact h.modCtx
  · exact h.modCtx
  · exact h.modTask.modTile
  · exact h.fillSlot
  · exact h.fillSlot.modUnit
  · exact h.modUnit
  · exact h.modUnit
  · exact h

theorem dropMop (h : s.Legal) {core id : Nat} : (s.dropMop core id).Legal := h.modCtx

theorem matrixOperationCompletion (h : s.Legal) {core op : Nat} : (evMatrixOperationCompletion core op s).Legal := by
  unfold evMatrixOperationCompletion
  split
  · exact h
  split
  · exact h.matEffect.dropMop.acted
  · exact h

end State.Legal
end Sys2Proof.Machine
end

section
/-! Streaming operations and the access engine's events keep the registers legal. -/

namespace Sys2Proof.Machine

/-- The state that an item's read leaves, where it leaves one, is legal. -/
def ItemRead.Legal : ItemRead → Prop
  | .wait s => s.Legal
  | .fault .. => True
  | .got s _ => s.Legal

/-- The state that a stride leaves is legal. -/
def Stride.Legal : Stride → Prop
  | .stop s => s.Legal
  | .go s => s.Legal

/-- The state that a probe leaves, where it leaves one, is legal. -/
def Probe.Legal : Probe → Prop
  | .wait s => s.Legal
  | .fault .. => True
  | .done s _ => s.Legal

namespace State.Legal
variable {s t : State}

/-! ### Streaming operations -/

theorem setStream (h : s.Legal) {uid k : Nat} {x : Stream} : (s.setStream uid k x).Legal := h.modUnit

theorem streamMiss (h : s.Legal) {uid k : Nat} {x : Stream} {page : Nat} : (s.streamMiss uid k x page).Legal := by
  unfold State.streamMiss
  split
  · exact h
  · exact h.setStream.coalEvent

theorem itemRead (h : s.Legal) {uid k : Nat} {x : Stream} {hn : HandleN} {o : Int} {n : Nat} : (s.itemRead uid k x hn o n).Legal := by
  unfold State.itemRead
  dsimp only
  split
  · trivial
  split
  · exact h.streamMiss
  · trivial
  split
  next e => exact h.fillTlb.readLanes e
  next t _ _ _ e =>
    have ht : t.Legal := h.fillTlb.readLanes e
    split
    · exact ht.installFill.clearFarLane
    · trivial

theorem onRead (h : s.Legal) {r : ItemRead} (hr : r.Legal) {uid k : Nat} {x : Stream} {f : State → List Byte → Stride}
    (hf : ∀ {t : State} {bs : List Byte}, t.Legal → (f t bs).Legal) : (onRead r s uid k x f).Legal := by
  cases r with
  | wait => exact hr
  | fault => exact h.setStream
  | got => exact hf hr

theorem onReads {rs : List (Int × Nat)} {acc : List (List Byte)} (h : s.Legal) (ht : t.Legal) {uid k : Nat} {x : Stream} {hn : HandleN}
    {f : State → List (List Byte) → Stride} (hf : ∀ {t : State} {bss : List (List Byte)}, t.Legal → (f t bss).Legal) :
    (onReads s uid k x hn rs t acc f).Legal := by
  induction rs generalizing t acc with
  | nil => exact hf ht
  | cons r rs ih => exact h.onRead ht.itemRead fun ht => ih ht

theorem takeSource (h : s.Legal) {uid k : Nat} {x : Stream} {q : QueueN} {check : QWord → Option (Cause × W64)} :
    (takeSource s uid k x q check).Legal := by
  unfold Machine.takeSource
  extract_lets u
  split
  · exact h
  split
  · exact h
  next e =>
    have ht := h.takeEntry e
    extract_lets n
    split
    · exact ht.setStream
    split
    · exact ht.setStream
    split
    · exact ht.setStream.accRaise
    split
    · exact ht.setStream
    · exact ht.setStream

theorem strmStride (h : s.Legal) {size : Size} {hn : HandleN} {uid k : Nat} {x : Stream} : (strmStride size hn s uid k x).Legal := by
  unfold Machine.strmStride
  dsimp only
  split
  · exact h.setStream
  · exact h.onRead h.itemRead fun ht => ht.setStream

theorem gthElem (h : s.Legal) (ht : t.Legal) {sx : Bool} {e : Nat} {hn : HandleN} {i : W32} {last : Bool} {uid k : Nat} {x : Stream}
    {after : Stream → Stream} : (gthElem sx e hn i last s t uid k x after).Legal := by
  unfold Machine.gthElem
  dsimp only
  split
  · exact ht.setStream
  · exact h.onRead ht.itemRead fun hu => hu.setStream

theorem gthStride (h : s.Legal) {sx : Bool} {e : Nat} {hn : HandleN} {uid k : Nat} {x : Stream} :
    (gthStride sx e hn s uid k x).Legal := by
  unfold Machine.gthStride
  split
  · exact h.setStream
  · exact h.onRead h.itemRead fun ht => h.gthElem ht

theorem gthQStride (h : s.Legal) {sx : Bool} {e : Nat} {hn : HandleN} {q : QueueN} {uid k : Nat} {x : Stream} :
    (gthQStride sx e hn q s uid k x).Legal := by
  unfold Machine.gthQStride
  split
  · exact h.takeSource
  · exact h.setStream
  · exact h.gthElem h

theorem probeSlots16 {fuel : Nat} (h : s.Legal) {uid k : Nat} {x : Stream} {hn : HandleN} {b key hash : Nat} {r : Probe}
    (e : probeSlots16 uid k x hn b key hash fuel s = r) : r.Legal := by
  subst e
  induction fuel generalizing s with
  | zero => exact h
  | succ fuel ih =>
    have hr := h.itemRead (uid := uid) (k := k) (x := x) (hn := hn)
      (o := (x.a.toNat : Int) + (16 * ((hash + (15 - fuel)) % 2 ^ b) : Nat)) (n := 16)
    unfold Machine.probeSlots16
    revert hr
    cases s.itemRead uid k x hn ((x.a.toNat : Int) + (16 * ((hash + (15 - fuel)) % 2 ^ b) : Nat)) 16 with
    | wait => exact id
    | fault => exact fun _ => trivial
    | got t bs =>
      intro ht
      dsimp only
      split
      · exact ht
      split
      · exact ht
      · exact ih ht

theorem hprbStride (h : s.Legal) {hn : HandleN} {q : QueueN} {b uid k : Nat} {x : Stream} : (hprbStride hn q b s uid k x).Legal := by
  unfold Machine.hprbStride
  split
  · exact h.takeSource
  · extract_lets key wq put kp
    have hput : ∀ {t : State} {r : W32}, t.Legal → (put t r).Legal := fun ht => ht.setStream
    clear_value put key
    split
    · exact hput h
    split
    next e => exact h.probeSlots16 e
    · exact h.setStream
    next e => exact hput (h.probeSlots16 e)
  · exact h.setStream

theorem isctStride (h : s.Legal) {hn : HandleN} {uid k : Nat} {x : Stream} : (isctStride hn s uid k x).Legal := by
  unfold Machine.isctStride
  split
  · exact h.setStream
  · exact h.onReads h fun ht => ht.setStream

theorem walkStride (h : s.Legal) {hn : HandleN} {rows uid k : Nat} {x : Stream} : (walkStride hn rows s uid k x).Legal := by
  unfold Machine.walkStride
  extract_lets put n at_
  split
  · dsimp only
    split
    · split
      · exact h.setStream
      · exact h.setStream
    · split
      · exact h.setStream
      · exact h.setStream
  · split
    · refine h.onRead h.itemRead fun ht => ?_
      extract_lets r back
      split
      · exact ht.setStream
      · exact ht.setStream
    split
    · exact h.setStream
    · split
      · exact h.setStream
      · exact h.setStream

theorem sctTake (h : s.Legal) {qv qi : QueueN} {uid k : Nat} {x : Stream} : (sctTake qv qi s uid k x).Legal := by
  unfold Machine.sctTake
  extract_lets u opc
  split
  · exact h
  split
  · exact h
  next e1 =>
    split
    · exact h
    next e2 =>
      have ht := (h.takeEntry e1).takeEntry e2
      extract_lets stop n
      split
      · exact ht.setStream.accRaise
      split
      · exact ht.setStream.accRaise
      split
      · exact ht.setStream.accRaise
      · exact ht.setStream

theorem sctStore (h : s.Legal) {hn : HandleN} {uid k : Nat} {x : Stream} : (sctStore hn s uid k x).Legal := by
  unfold Machine.sctStore
  extract_lets u r far near t q go
  have hgo : ∀ {halt : Option (Nat × W64)}, (go halt).Legal := by
    refine setStream (askLines (h.foldl fun ht => ?_))
    split
    · exact ht.wbByte.remoteWrite
    · exact ht
  clear_value go
  split
  · exact hgo
  · exact h.streamMiss
  · exact hgo

theorem sctAdd (h : s.Legal) {comb : Comb} {hn : HandleN} {i v : W32} {rest : List W32} {uid k : Nat} {x : Stream} :
    (sctAdd comb hn i v rest s uid k x).Legal := by
  unfold Machine.sctAdd
  dsimp only
  split
  · exact h.streamMiss
  · exact h.setStream
  split
  next e => exact h.versionOp e
  next t e =>
    have ht : t.Legal := h.versionOp e
    exact ht.setStream
  next t _ e =>
    have ht : t.Legal := h.versionOp e
    exact ht.setStream

theorem sctStride (h : s.Legal) {comb : Comb} {hn : HandleN} {qv qi : QueueN} {uid k : Nat} {x : Stream} :
    (sctStride comb hn qv qi s uid k x).Legal := by
  unfold Machine.sctStride
  dsimp only
  split
  · exact h.sctTake
  split
  · split
    · exact h.sctStore
    · exact h.sctAdd
  split
  · exact h
  split
  · exact h.setStream.accRaise
  · exact h.setStream

theorem streamWork (h : s.Legal) {uid k : Nat} {x : Stream} : (streamWork s uid k x).Legal := by
  unfold Machine.streamWork
  split
  · exact h.strmStride
  · exact h.gthStride
  · exact h.gthQStride
  · exact h.sctStride
  · exact h.hprbStride
  · exact h.isctStride
  · exact h.walkStride
  · exact h

theorem optionFold {α : Type} {f : State → α → Option State} (hf : ∀ {t t' : State} {a : α}, t.Legal → f t a = some t' → t'.Legal)
    {l : List α} (h : s.Legal) (e : l.foldl (fun (acc : Option State) a => acc.bind fun t => f t a) (some s) = some t) : t.Legal := by
  induction l generalizing s with
  | nil => cases e; exact h
  | cons a l ih =>
    rw [List.foldl_cons, Option.bind_some] at e
    cases ha : f s a with
    | some u => exact ih (hf h ha) (ha ▸ e)
    | none =>
      rw [ha] at e
      have hnone : ∀ l : List α, l.foldl (fun (acc : Option State) a => acc.bind fun t => f t a) none = none := by
        intro l
        induction l with
        | nil => rfl
        | cons a l ih => exact ih
      rw [hnone] at e
      cases e

theorem appendAll (h : s.Legal) {uid : Nat} {x : Stream} {w : List (List W32) × W32} (e : s.appendAll uid x w = some t) : t.Legal := by
  unfold State.appendAll at e
  dsimp only at e
  split at e
  · refine optionFold (fun {t t'} p ht he => ?_) h e
    obtain ⟨u, hu, rfl⟩ := Option.map_eq_some_iff.1 he
    exact (ht.putEntry hu).modUnit
  · cases e

theorem endContext (h : s.Legal) {uid : Nat} : (s.endContext uid).Legal := h.modUnit

theorem closeContext (h : s.Legal) {uid k : Nat} {x : Stream} : (closeContext s uid k x).Legal := by
  have hr := (h.modUnit (k := uid) (f := fun u => { u with streams := u.streams.del k })).outEdge (uid := uid) (l := 0)
  unfold Machine.closeContext
  dsimp only
  revert hr
  cases (s.modUnit uid fun u => { u with streams := u.streams.del k }).outEdge uid 0 with
  | wait t => exact fun ht : t.Legal => ht.setStream
  | fault t c i => exact fun ht : t.Legal => ht.accRaise
  | ok t => exact fun ht : t.Legal => ht.endContext

theorem streamDone (h : s.Legal) {uid k : Nat} {x : Stream} : (streamDone s uid k x).Legal := by
  unfold Machine.streamDone
  dsimp only
  split
  · split
    · exact h.closeContext
    · exact h
  · exact h.modUnit.modUnit.acted
  · exact h.modUnit.modUnit.acted
  · split
    · exact h.modUnit.acted
    · exact h
  · exact h.modUnit.acted

theorem streamStride (h : s.Legal) {uid k : Nat} {x : Stream} : (streamStride s uid k x).Legal := by
  unfold Machine.streamStride
  split
  · split
    next e => exact (h.appendAll e).setStream
    · exact h
  split
  · exact h.streamDone
  · exact h.streamWork

theorem runStream {fuel : Nat} (h : s.Legal) {uid k : Nat} : (runStream uid k fuel s).Legal := by
  induction fuel generalizing s with
  | zero => exact h
  | succ fuel ih =>
    unfold Machine.runStream
    split
    · exact h
    next x _ =>
      have hr := h.streamStride (uid := uid) (k := k) (x := x)
      revert hr
      cases Machine.streamStride s uid k x with
      | stop => exact id
      | go t => exact fun ht : t.Legal => ih ht

theorem streamingOperationCompletion (h : s.Legal) {uid k : Nat} : (evStreamingOperationCompletion uid k s).Legal := by
  unfold evStreamingOperationCompletion
  split
  · exact h.runStream
  · exact h

theorem streamLineRelease (h : s.Legal) {line uid k : Nat} : (streamLineRelease line uid k s).Legal := by
  unfold Machine.streamLineRelease
  split
  · exact h.releaseLine
  · exact h.writeCells.sliceAccess.releaseLine.setStream

theorem engineLineRelease (h : s.Legal) {line : Nat} : (evEngineLineRelease line s).Legal := by
  unfold evEngineLineRelease
  split
  · exact h
  · exact h.copyLineRelease
  · exact h.streamLineRelease

theorem accRecord (h : s.Legal) {uid : Nat} {c : Cause} {i pc : W64} : (s.accRecord uid c i pc).Legal := h.coalEvent

theorem owe (h : s.Legal) {uid : Nat} {c : Cause} {i : W64} {opc : Nat} {p : Nat × Bool} : (s.owe uid c i opc p).1.Legal := by
  unfold State.owe
  extract_lets u q fin
  have hfin : ∀ {t : State}, t.Legal → (fin t).1.Legal := by
    intro t ht
    dsimp only [fin]
    split
    next e => exact ht.putEntry e
    · exact ht
  clear_value fin
  split
  · exact hfin h
  split
  next e => exact hfin (h.putEntry e)
  · exact h

theorem endFaulted (h : s.Legal) {uid : Nat} {pc : W64} : (endFaulted s uid pc).Legal := by
  have hr := h.outEdge (uid := uid) (l := 0)
  unfold Machine.endFaulted
  revert hr
  cases s.outEdge uid 0 with
  | wait t => exact id
  | fault t c i => exact fun ht : t.Legal => ht.accRecord.endContext
  | ok t => exact fun ht : t.Legal => ht.endContext

theorem accessStrandFault (h : s.Legal) {uid : Nat} : (evAccessStrandFault uid s).Legal := by
  unfold evAccessStrandFault
  extract_lets u s0 due
  split
  · exact h
  extract_lets s1 r t
  split
  · exact h
  split
  · exact h
  · have h1 : s1.Legal := by
      dsimp only [s1]
      split
      · exact h.modUnit.accRecord
      · exact h.modUnit
    have hr : r.1.Legal := h1.foldl_fst fun ht => ht.owe
    have ht : t.Legal := hr.modUnit
    split
    · exact ht.endFaulted
    · exact ht

theorem accessPageFaultService (h : s.Legal) {uid : Nat} {und : List Nat} : (evAccessPageFaultService uid und s).Legal := by
  unfold evAccessPageFaultService
  dsimp only
  split
  · exact h
  · exact h.addUndeliverable.modUnit

end State.Legal
end Sys2Proof.Machine
end

section
/-! The task engine's events, pre-emption, translation, links and matrix resets keep the registers legal. -/

namespace Sys2Proof.Machine
namespace State.Legal
variable {s t : State}

/-! ### Launches, queues of tasks, parking -/

theorem hostLaunch (h : s.Legal) {part asn proc : Nat} {record : W64} : (evHostLaunch part asn proc record s).Legal := by
  unfold evHostLaunch
  dsimp only
  split
  · exact h.withReports
  split
  · exact h.withReports
  split
  · exact h.withReports
  · exact h.congr rfl

theorem distributorEmit (h : s.Legal) {die part : Nat} : (evDistributorEmit die part s).Legal := by
  unfold evDistributorEmit
  dsimp only
  split
  · exact h
  split
  · exact h
  split
  · exact h
  split
  · exact h
  next e => exact (h.fresh.pushCanopy e).congr rfl

theorem moveToGlade (h : s.Legal) {core : Nat} : (moveToGlade core s).Legal := by
  unfold Machine.moveToGlade
  dsimp only
  split
  · exact h
  · exact h.withCopse.modCore fun _ => rfl

theorem moveToCopse (h : s.Legal) {cl : Nat} : (moveToCopse cl s).Legal := by
  unfold Machine.moveToCopse
  dsimp only
  split
  · exact h
  split
  · exact h
  · exact h.withCopse.modDie

theorem moveToCanopy (h : s.Legal) {die part : Nat} : (moveToCanopy die part s).Legal := by
  unfold Machine.moveToCanopy
  split
  · exact h
  · exact (h.modPart (by intro; rfl)).modDie

theorem blockMove (h : s.Legal) {level idx part : Nat} : (evBlockMove level idx part s).Legal := by
  unfold evBlockMove
  split
  · exact h.moveToGlade
  · exact h.moveToCopse
  · exact h.moveToCanopy
  · exact h

theorem runDry (h : s.Legal) {die part : Nat} : (evRunDry die part s).Legal := by
  unfold evRunDry
  dsimp only
  split
  · exact h
  · exact h.setDie

theorem stealMessage (h : s.Legal) {die thief part : Nat} : (evStealMessage die thief part s).Legal := by
  unfold evStealMessage
  split
  · exact h
  split
  · exact h
  split
  · exact h.modDie
  · exact h.modDie.modDie

theorem stealReply (h : s.Legal) {die donor part : Nat} : (evStealReply die donor part s).Legal := by
  unfold evStealReply
  split
  · exact h
  split
  next e => exact (h.pushCanopies e).modDie
  · exact h

theorem park (h : s.Legal) {n : Nat} : (evPark n s).Legal := by
  unfold evPark
  dsimp only
  split
  · exact h
  split
  · exact h
  · exact (h.modPart (by intro; rfl)).setTask.modCore fun _ => rfl

theorem setStatus (h : s.Legal) {n a b : Nat} : (s.setStatus n a b).Legal := h.withFrames

theorem parkDone (h : s.Legal) {n : Nat} : (s.parkDone n).Legal := by
  unfold State.parkDone
  extract_lets k c held s1 planes
  split
  · exact h
  · exact h.modCtx.setTask.setStatus

theorem reslot (h : s.Legal) {us as : List Nat} : (s.reslot us as).Legal := by
  fun_induction State.reslot s us as with
  | case1 s uid us a as hg ih => exact ih h.modUnit
  | case2 s uid us a as hg ih => exact ih h
  | case3 => exact h

theorem parkResume (h : s.Legal) {n : Nat} : (evParkResume n s).Legal := by
  unfold evParkResume
  dsimp only
  split
  · exact h
  · exact (h.setTask.modCtx.foldl fun ht => ht.modUnit).reslot.setStatus

theorem spillRestore (h : s.Legal) {n : Nat} : (evSpillRestore n s).Legal := by
  unfold evSpillRestore
  dsimp only
  split
  · exact h
  split
  · exact (h.modPart (by intro; rfl)).setTask
  · exact h.setTask

theorem inheritanceSpill (h : s.Legal) {n : Nat} : (evInheritanceSpill n s).Legal := by
  unfold evInheritanceSpill
  dsimp only
  split
  · exact h
  split
  · exact h
  split
  · exact h
  · exact (h.modPart (by intro; rfl)).setTask.modCtx.modCore fun _ => rfl

theorem placement (h : s.Legal) {core : Nat} : (evPlacement core s).Legal := by
  unfold evPlacement
  split
  · exact h
  split
  · exact h.parkResume
  · exact h.placeOne

theorem childCompletion (h : s.Legal) {n : Nat} : (evChildCompletion n s).Legal := by
  unfold evChildCompletion
  split
  · split
    · exact h.childDone
    · exact h
  · exact h

theorem taskCompletion (h : s.Legal) {n : Nat} : (evTaskCompletion n s).Legal := by
  unfold evTaskCompletion
  split
  · exact h.completeTask
  · exact h

theorem answerGrow (h : s.Legal) {core : Nat} {g : Nat × Nat × Reg × W64} {v : Nat} {grow : Bool} :
    (s.answerGrow core g v grow).Legal := h.modCtx.modUnit

theorem rgrowGrant (h : s.Legal) {core : Nat} : (evRgrowGrant core s).Legal := by
  unfold evRgrowGrant
  split
  · split
    · exact h.answerGrow
    · exact h
  · exact h

theorem rgrowDenial (h : s.Legal) {core : Nat} : (evRgrowDenial core s).Legal := by
  unfold evRgrowDenial
  dsimp only
  split
  · split
    · exact h.answerGrow
    · exact h
  · exact h

theorem agedEntry (h : s.Legal) {uid : Nat} : (evAgedEntry uid s).Legal := h.modUnit

theorem outgoingEdge (h : s.Legal) {uid l : Nat} : (evOutgoingEdge uid l s).Legal := by
  unfold evOutgoingEdge
  extract_lets u s1
  have h1 : s1.Legal := by
    dsimp only [s1]
    split
    · exact h.wbAll
    · exact h
  clear_value s1
  split
  · exact h
  split
  · exact h1.pollBlocked
  · exact h1

/-! ### Pre-emption -/

theorem clearShadow (h : s.Legal) {core : Nat} : (s.clearShadow core).Legal := h.modCore fun _ => rfl

theorem load (h : s.Legal) {core : Nat} : (evLoad core s).Legal := h.modCore (by intro; split <;> [rfl; split <;> rfl])

theorem clear (h : s.Legal) {core : Nat} : (evClear core s).Legal := by
  unfold evClear
  dsimp only
  split
  · exact h
  split
  · exact h.setCore rfl
  · exact h.clearShadow

theorem soft (h : s.Legal) {core : Nat} : (evSoft core s).Legal := h.modCore fun _ => rfl

theorem force (h : s.Legal) {core : Nat} : (evForce core s).Legal := h.modCore fun _ => rfl

theorem setTasks (h : s.Legal) {ns : List Nat} {st : TaskSt} : (s.setTasks ns st).Legal := h.withTasks

theorem fillCompletion (h : s.Legal) {core : Nat} : (evFillCompletion core s).Legal := by
  unfold evFillCompletion
  dsimp only
  split
  · exact h
  split
  · split
    · exact h.setCore rfl
    · exact ((h.setCore (by rfl)).modPart (by intro; rfl)).setTasks
  · exact h.setCore rfl

theorem yieldLines (h : s.Legal) {p : Nat × Nat × Nat → Bool} : (s.yieldLines p).Legal := by
  refine h.withLines.foldl fun ht => ?_
  split
  · split
    · exact ht.engineLineRelease
    · exact ht
  · exact ht

theorem askAgain (h : s.Legal) {core : Nat} : (s.askAgain core).Legal := by
  unfold State.askAgain
  dsimp only
  exact (h.foldl fun ht => ht.foldl fun hu => hu.askLine).foldl fun ht => ht.foldl fun hu => hu.foldl fun hv => hv.askLine

theorem wakeUnit (h : s.Legal) {cyc : W64} {uid : Nat} : (s.wakeUnit cyc uid).Legal := h.modUnit

theorem wakeTask (h : s.Legal) {cyc : W64} {n : Nat} : (s.wakeTask cyc n).Legal := h.modTask.foldl fun ht => ht.wakeUnit

theorem exchange (h : s.Legal) {core : Nat} {x : CtxSet} : (s.exchange core x).Legal := by
  have h1 := (h.foldl (l := s.residentUnits core) (f := State.endAhead) fun ht => ht.endAhead).yieldLines (p := fun w => w.1 == core)
  unfold State.exchange
  dsimp only
  exact (((h1.setCore (by rfl)).modPart (by intro; rfl)).setTasks.setTasks.foldl fun ht => ht.wakeTask).askAgain

theorem swap (h : s.Legal) {core : Nat} : (evSwap core s).Legal := by
  unfold evSwap
  dsimp only
  split
  · split
    · exact h.exchange
    · exact h
  · exact h

theorem spillOver (h : s.Legal) {core : Nat} : (s.spillOver core).Legal := by
  unfold State.spillOver
  dsimp only
  split
  · split
    · exact (h.modCore (by intro; rfl)).clear.load
    · exact (h.modCore (by intro; rfl)).load
  · split
    · exact (h.modCore (by intro; rfl)).clear
    · exact h.modCore fun _ => rfl

theorem spillCompletion (h : s.Legal) {core : Nat} : (evSpillCompletion core s).Legal := by
  unfold evSpillCompletion
  dsimp only
  split
  · exact h
  split
  · split
    · exact h
    · exact h.setTasks.spillOver
  · exact (h.foldl fun ht => ht.parkDone).spillOver

/-! ### Translation and migration -/

theorem keepTlb (h : s.Legal) {f : TlbEntry → Bool} {core : Nat} : (s.keepTlb f core).Legal := h.modCore fun _ => rfl

theorem dropTlb (h : s.Legal) {part : Nat} {scope : BitVec 2} {arg : W64} : (s.dropTlb part scope arg).Legal :=
  h.foldl fun ht => ht.keepTlb

theorem invalidate (h : s.Legal) {part : Nat} {scope : BitVec 2} {arg : W64} : (s.invalidate part scope arg).Legal :=
  (h.modPart (by intro; rfl)).dropTlb

theorem wbPart (h : s.Legal) {part : Nat} : (s.wbPart part).Legal := h.foldl fun ht => ht.wbAll

theorem invalidateCompletion (h : s.Legal) {part : Nat} : (evInvalidateCompletion part s).Legal := by
  unfold evInvalidateCompletion
  dsimp only
  split
  · exact h
  split
  · exact h.wbPart
  · exact h.wbPart.dropTlb.modPart fun _ => rfl

theorem putEntryWord (h : s.Legal) {a v : Nat} : (s.putEntryWord a v).Legal := h.homeWriteN

theorem askPage (h : s.Legal) {size base : Nat} : (s.askPage size base).Legal := by
  refine h.foldl fun ht => ?_
  split
  · exact ht.sendFar
  · exact ht

theorem withMigration (h : s.Legal) {m : Option Migration} : ({ s with migration := m } : State).Legal := h.congr rfl

theorem migrationCommand (h : s.Legal) {asn size : Nat} {va : W64} {pfn : Nat} : (evMigrationCommand asn size va pfn s).Legal := by
  unfold evMigrationCommand
  dsimp only
  split
  · exact h
  split
  · exact h.withReports
  split
  · exact h.withReports
  · exact (h.putEntryWord.foldl fun ht => ht.dropTlb).askPage.withMigration

theorem putPage (h : s.Legal) {base : Nat} {bs : List Byte} : (s.putPage base bs).Legal := by
  unfold State.putPage
  split
  · exact h.homeWriteN
  · exact h.foldl fun ht => ht.remoteWrite

theorem migrationCompletion (h : s.Legal) : (evMigrationCompletion s).Legal := by
  unfold evMigrationCompletion
  split
  · exact h
  split
  · exact h
  extract_lets s0 w1 old
  have h0 : s0.Legal := h.foldl fun ht => ht.wbPart
  clear_value s0
  split
  · exact h0
  split
  · exact h0
  · dsimp only
    split
    · exact h0.putPage.putEntryWord.clearFarLane.withMigration.trace
    · exact h0.putPage.putEntryWord.clearFarLane.withMigration

/-! ### Responses, links and the host -/

theorem memoryResponse (h : s.Legal) {core req : Nat} : (evMemoryResponse core req s).Legal := by
  unfold evMemoryResponse
  dsimp only
  split
  · exact h
  split
  · exact (h.modCore (by intro; rfl)).installFill.modUnit
  · exact (h.modCore (by intro; rfl)).installFill

theorem loseAt (h : s.Legal) {pkg port core : Nat} : (s.loseAt pkg port core).Legal := (h.keepTlb.modCore (by intro; rfl)).trace

theorem loseTarget (h : s.Legal) {pkg port : Nat} : (s.loseTarget pkg port).Legal := by
  unfold State.loseTarget
  dsimp only
  split
  · exact h
  · refine foldl ?_ fun ht => ht.loseAt
    exact h.congr rfl

theorem checkRoutes (h : s.Legal) {port : Nat} : (s.checkRoutes port).Legal := h.foldl fun ht => ht.loseTarget

theorem linkDownTimeout (h : s.Legal) {core req : Nat} : (evLinkDownTimeout core req s).Legal := h.modCore fun _ => rfl

theorem routeReturn (h : s.Legal) {pkg : Nat} : (evRouteReturn pkg s).Legal := h.congr rfl

theorem modPort (h : s.Legal) {n : Nat} {f : Port → Port} : (s.modPort n f).Legal := h.congr rfl

theorem sendNext (h : s.Legal) {port : Nat} : (sendNext port s).Legal := h.modPort

theorem idleFlitTimer (h : s.Legal) {port : Nat} : (evIdleFlitTimer port s).Legal := by
  unfold evIdleFlitTimer
  dsimp only
  split
  · exact h
  · exact h.modPort

theorem portDown (h : s.Legal) {port : Nat} : (s.portDown port).Legal := h.modPort.checkRoutes

theorem flitCrcFailure (h : s.Legal) {port : Nat} : (evFlitCrcFailure port s).Legal := by
  unfold evFlitCrcFailure
  dsimp only
  split
  · exact h
  split
  · exact h.portDown
  · exact h.modPort

theorem portDownEvent (h : s.Legal) {port : Nat} : (evPortDown port s).Legal := by
  unfold evPortDown
  split
  · exact h
  · exact h.portDown

theorem answer (h : s.Legal) {port ty : Nat} {m : Flit} {payload : List Byte} : (s.answer port ty m payload).Legal := h.sendFlit

theorem read (h : s.Legal) {port : Nat} {m : Flit} : (evRead port m s).Legal := by
  unfold evRead
  dsimp only
  split
  · exact h
  · exact h.sliceAccess.answer

theorem farInstall_fieldsOk (f : Far) (m : Flit) (c : Core) : (f.install m c).fieldsOk = c.fieldsOk := by
  unfold Far.install
  split
  · rfl
  · exact foldl_fieldsOk (fun c _ => install_fieldsOk c _) _ c

theorem readData (h : s.Legal) {port : Nat} {m : Flit} : (evReadData port m s).Legal := by
  unfold evReadData
  split
  · exact h
  split
  · exact h
  · refine h.modCore fun c => ?_
    split
    · rfl
    · dsimp only
      split
      · exact farInstall_fieldsOk ..
      · exact farInstall_fieldsOk ..

theorem write (h : s.Legal) {port : Nat} {m : Flit} : (evWrite port m s).Legal := by
  unfold evWrite
  dsimp only
  split
  · exact h
  · exact (h.foldl fun ht => ht.homeWrite).sliceAccess.answer

theorem atomic (h : s.Legal) {port : Nat} {m : Flit} : (evAtomic port m s).Legal := by
  unfold evAtomic
  dsimp only
  split
  · exact h
  split
  · exact h
  split
  · exact h.homeWriteN.sliceAccess.answer
  · exact h.sliceAccess.answer

theorem atomicResult (h : s.Legal) {port : Nat} {m : Flit} : (evAtomicResult port m s).Legal := by
  unfold evAtomicResult
  split
  · exact h
  split
  · exact h
  · exact h.modCore fun _ => rfl

theorem acknowledgement (h : s.Legal) {port : Nat} {m : Flit} : (evAcknowledgement port m s).Legal := by
  unfold evAcknowledgement
  split
  · exact h
  · exact h.congr rfl

theorem lossNotice (h : s.Legal) {port : Nat} {m : Flit} : (evLossNotice port m s).Legal := by
  unfold evLossNotice
  split
  · exact h
  · exact h.loseTarget

theorem checkpointData (h : s.Legal) {port : Nat} {m : Flit} : (evCheckpointData port m s).Legal := by
  unfold evCheckpointData
  split
  · exact h
  · exact h.foldl fun ht => ht.homeWrite

theorem hostBar2Read (h : s.Legal) {pa n : Nat} : (evHostBar2Read pa n s).Legal := by
  unfold evHostBar2Read
  split
  · exact h
  · exact h.sliceAccess.withReports

theorem hostBar2Write (h : s.Legal) {pa : Nat} {bs : List Byte} : (evHostBar2Write pa bs s).Legal := by
  unfold evHostBar2Write
  split
  · exact h
  · exact h.homeWriteN.sliceAccess

/-! ### A matrix reset -/

theorem emptyDest (h : s.Legal) {o : MatOp} : (s.emptyDest o).Legal := by
  unfold State.emptyDest
  split
  · exact h
  split
  · exact h.modTile
  split
  · exact h.modTile
  · exact h

theorem discardOp (h : s.Legal) {o : MatOp} : (s.discardOp o).Legal := by
  unfold State.discardOp
  dsimp only
  split
  · exact h.emptyDest.modUnit
  · exact h.emptyDest

theorem cutContext (h : s.Legal) {uid : Nat} : (s.cutContext uid).Legal := h.yieldLines.endContext

theorem resetUnit (h : s.Legal) {uid : Nat} : (s.resetUnit uid).Legal := by
  unfold State.resetUnit
  split
  · exact h.cutContext
  · exact h.modUnit

theorem resetTask (h : s.Legal) {n : Nat} : (s.resetTask n).Legal := modCtx (h.modTask.foldl fun ht => ht.resetUnit)

theorem resetEntry (h : s.Legal) {core n : Nat} : (s.resetEntry core n).Legal := by
  unfold State.resetEntry
  split
  · exact h
  dsimp only
  split
  · exact (h.modCore (by intro; rfl)).frameDown
  · exact (h.modCore (by intro; rfl)).launchDown

theorem reset (h : s.Legal) {core : Nat} : (evReset core s).Legal := by
  unfold evReset
  dsimp only
  split
  · exact h
  · refine modCore (foldl (modCtx (h.foldl fun ht => ht.discardOp)) fun ht => ?_) fun _ => rfl
    split
    · exact ht.resetTask
    · exact ht.resetEntry

theorem matrixResetCompletion (h : s.Legal) {core : Nat} : (evMatrixResetCompletion core s).Legal := by
  unfold evMatrixResetCompletion
  dsimp only
  split
  · exact h
  · exact (h.setCore (by rfl)).trace

end State.Legal
end Sys2Proof.Machine
end

section
/-! Writes of the bounded registers are legal (R18, R23, R253, R393); the kernel's events and power keep the registers legal. -/

namespace Sys2Proof.Machine

/-! ### Writes of the bounded registers -/

theorem Core.fieldsOk_iff (c : Core) :
    c.fieldsOk = true ↔ c.l1sz ≠ 0b111#3 ∧ c.l1next ≠ 0b111#3 ∧ 16 ≤ c.hangLim.toNat ∧ 10 ≤ nbits c.traceCtl.toNat 0 5 := by
  simp [Core.fieldsOk, and_assoc]

/-- WAYS and SAMPLE as R23 bounds them. -/
def Resid.Legal (r : Resid) : Prop := r.ways ≤ 12 ∧ r.sample ≤ 16

theorem Part.fieldsOk_iff (p : Part) : p.fieldsOk = true ↔ ∀ r ∈ p.resid.vals, r.Legal := by
  simp [Part.fieldsOk, Resid.Legal]

theorem Resid.Legal.written {r : Resid} (h : r.Legal) (v : W32) : (r.written v).Legal := by
  obtain ⟨hw, hs⟩ := h
  unfold Resid.written Resid.Legal
  dsimp only
  constructor <;> split <;> assumption

theorem Part.clipped_fieldsOk {p : Part} (h : p.fieldsOk = true) : p.clipped.fieldsOk = true := by
  rw [Part.fieldsOk_iff] at h ⊢
  unfold Part.clipped
  extract_lets g clip
  exact SMap.forall_vals_mapVal (f := fun n (r : Resid) => { r with clip := clip n }) h fun _ _ hr => hr

/-- LIMIT after a write (R253). -/
theorem hangLimit_le {old : BitVec 5} (h : 16 ≤ old.toNat) (v : W64) :
    16 ≤ (if nbits v.toNat 0 5 < 16 then old else v.setWidth 5).toNat := by
  split
  · exact h
  next hv => simpa [nbits] using hv

namespace State.Legal
variable {s t : State}

theorem partResid (h : s.Legal) {part n : Nat} : (((s.part part).resid.get n).getD .reset).Legal :=
  SMap.of_get_getD ((Part.fieldsOk_iff _).1 (h.part part)) ⟨Nat.zero_le _, Nat.zero_le _⟩ n

theorem modResid (h : s.Legal) {part n : Nat} {f : Resid → Resid} (hf : ∀ r : Resid, r.Legal → (f r).Legal) :
    (s.modResid part n f).Legal :=
  h.setPart_ok ((Part.fieldsOk_iff _).2 (SMap.forall_vals_set ((Part.fieldsOk_iff _).1 (h.part part)) (hf _ h.partResid)))

/-- A core whose bounded registers are written keeps them legal. -/
theorem modCore_ok (h : s.Legal) {k : Nat} {f : Core → Core} (hf : ∀ c : Core, c.fieldsOk = true → (f c).fieldsOk = true) :
    (s.modCore k f).Legal :=
  h.setCore_ok (hf _ (h.core k))

theorem coreSramSplitWrite (h : s.Legal) {core : Nat} {v : W32} : (evCoreSramSplitWrite core v s).Legal := by
  unfold evCoreSramSplitWrite
  dsimp only
  split
  · exact h
  next hn =>
    refine h.modCore_ok fun c hc => ?_
    rw [Core.fieldsOk_iff] at hc ⊢
    obtain ⟨hsz, -, hrest⟩ := hc
    exact ⟨hsz, by simpa using hn, hrest⟩

theorem sramSplitChange (h : s.Legal) {core : Nat} : (evSramSplitChange core s).Legal := by
  unfold evSramSplitChange
  dsimp only
  split
  · exact h
  · refine h.wbAll.modCore_ok fun c hc => ?_
    rw [Core.fieldsOk_iff] at hc ⊢
    obtain ⟨-, hrest⟩ := hc
    exact ⟨hrest.1, hrest⟩

theorem zeroSampling (h : s.Legal) {part : Nat} : (s.zeroSampling part).Legal := h.congr rfl

theorem residCtlWrite (h : s.Legal) {part n : Nat} {v : W32} : (evResidCtlWrite part n v s).Legal := by
  refine (h.setPart_ok (Part.clipped_fieldsOk ?_)).zeroSampling
  rw [Part.fieldsOk_iff]
  exact SMap.forall_vals_set ((Part.fieldsOk_iff _).1 (h.part part)) (h.partResid.written v)

theorem prefetchFillDrop (h : s.Legal) {slice : Nat} : (evPrefetchFillDrop slice s).Legal := h.congr rfl

theorem writePreempt (h : s.Legal) {core : Nat} {v : W64} : (writePreempt core v s).Legal := by
  unfold Machine.writePreempt
  extract_lets s1 s2 s3
  have h1 : s1.Legal := h.modCore fun _ => rfl
  have h2 : s2.Legal := by
    dsimp only [s2]
    split
    · exact h1.clear
    · exact h1
  have h3 : s3.Legal := by
    dsimp only [s3]
    split
    · exact h2.load
    · exact h2
  split
  · exact h3.force
  · exact h3

theorem registerWrite (h : s.Legal) {r : KReg} {v : W64} : (evRegisterWrite r v s).Legal := by
  unfold evRegisterWrite
  split
  case h_1 => exact h.modResid fun _ hr => hr
  case h_2 => exact h.modResid fun _ hr => hr
  case h_3 => exact h.writePreempt
  case h_4 =>
    refine h.modCore_ok fun c hc => ?_
    rw [Core.fieldsOk_iff] at hc ⊢
    obtain ⟨hsz, hnext, hlim, hflush⟩ := hc
    exact ⟨hsz, hnext, hangLimit_le hlim v, hflush⟩
  case h_5 =>
    refine h.modCore_ok fun c hc => ?_
    rw [Core.fieldsOk_iff] at hc ⊢
    obtain ⟨hsz, hnext, hlim, hflush⟩ := hc
    refine ⟨hsz, hnext, hlim, ?_⟩
    rw [traceWritten_flush]
    split
    · exact hflush
    · omega
  case h_6 => exact h.modCore fun _ => rfl
  case h_7 => exact h.modCore fun _ => rfl
  case h_8 => exact h.modPart fun _ => rfl
  case h_9 =>
    split
    · exact h.modDie
    · exact h
  case h_10 => exact h.congr rfl
  case h_11 =>
    split
    · exact h.congr rfl
    · exact h
  case h_12 => exact h.congr rfl
  case h_13 => exact h.modDie

/-! ### Processes, partitions and checkpoints -/

theorem dropEntries (h : s.Legal) {proc : Nat} : (s.dropEntries proc).Legal := by
  unfold State.dropEntries
  extract_lets cut gone ends core die part
  exact ((h.mapCores (f := fun _ c => core c) fun _ _ => rfl).mapParts (f := fun _ p => part p) fun _ _ => rfl).congr rfl

theorem cutUnit (h : s.Legal) {uid : Nat} : (s.cutUnit uid).Legal := by
  unfold State.cutUnit
  split
  · exact h.cutContext
  · exact h.modUnit

theorem dropTasks (h : s.Legal) {ts : List Nat} : (s.dropTasks ts).Legal := h.congr rfl

theorem dropSaved (h : s.Legal) {ts : List Nat} : (s.dropSaved ts).Legal := by
  unfold State.dropSaved
  extract_lets us core part
  exact (h.mapCores (f := fun _ c => core c) fun _ _ => rfl).mapParts fun _ _ => rfl

theorem dropRecords (h : s.Legal) {proc : Nat} : (s.dropRecords proc).Legal := h.mapCores fun _ _ => rfl

theorem cutProcess (h : s.Legal) {proc : Nat} : (s.cutProcess proc).Legal := by
  unfold State.cutProcess
  extract_lets s1 here us s2 core noReg s3 away purge saved s4 kept
  have h2 : s2.Legal := h.dropEntries.dropRecords.foldl fun ht => ht.cutUnit
  clear_value s2
  have h3 : s3.Legal := (h2.mapCores (f := fun _ c => core c) fun _ _ => rfl).withTasks
  clear_value s3
  have h4 : s4.Legal := (h3.dropSaved (ts := away)).mapCores (f := fun _ c => purge c) fun _ _ => rfl
  have h5 : kept.Legal := h4.dropTasks
  exact h5.congr rfl

theorem freeProcess (h : s.Legal) {proc : Nat} : (s.freeProcess proc).Legal := by
  unfold State.freeProcess
  extract_lets ts us cs t core t1
  have ht : t.Legal := h.foldl fun ht => ht.wbAll
  split
  · exact h
  split
  · exact ht
  · have h1 : t1.Legal := ht.dropSaved
    exact (h1.mapCores (f := fun _ c => core c) fun _ _ => rfl).congr rfl

theorem processEnd (h : s.Legal) {proc : Nat} : (evProcessEnd proc s).Legal := by
  unfold evProcessEnd
  split
  · exact h.freeProcess
  · exact h.cutProcess.freeProcess

theorem zeroGranules (h : s.Legal) {gs : List Nat} : (s.zeroGranules gs).Legal := h.congr rfl

theorem residMade (h : s.Legal) {p : Part} : (s.residMade p).fieldsOk = true :=
  Part.clipped_fieldsOk ((Part.fieldsOk_iff _).2 h.2.2.1)

theorem partitionMake (h : s.Legal) {part : Nat} {clusters granules : List (Nat × Nat)} {arena : List (Nat × W64)} :
    (evPartitionMake part clusters granules arena s).Legal := by
  unfold evPartitionMake
  extract_lets cls free open' s1 s2 p
  have h2 : s2.Legal := (h.foldl fun ht => ht.modDie).zeroGranules
  split
  · exact h
  · exact h2.setPart_ok h2.residMade

theorem partitionTeardown (h : s.Legal) {part : Nat} : (evPartitionTeardown part s).Legal := by
  unfold evPartitionTeardown
  extract_lets s1 p s2 s3
  have h1 : s1.Legal := h.foldl fun ht => ht.processEnd
  have h2 : s2.Legal := h1.zeroGranules.foldl fun ht => ht.modDie
  have h3 : s3.Legal := h2.foldl fun ht => ht.modCore fun _ => rfl
  split
  · exact h1
  · exact h3.withParts (SMap.forall_vals_filter h3.2.1)

theorem emptyCore (h : s.Legal) {core : Nat} : (s.emptyCore core).Legal :=
  (h.foldl fun ht => ht.memoryResponse).clear.force.swap.spillCompletion

theorem flushCore (h : s.Legal) {core : Nat} (e : s.flushCore core = some t) : t.Legal := by
  unfold State.flushCore at e
  exact optionFold (fun ht e => ht.pushOverflow e) (h.withCopse.modCore (by intro; rfl)).modDie e

theorem closeRecords (h : s.Legal) {core : Nat} : (s.closeRecords core).Legal :=
  (h.modCore (by intro; rfl)).foldl fun ht => ht.faultRingWrite

/-- An image of a legal state is legal. -/
theorem withImage (h : s.Legal) : ({ s with image := some s.toImage } : State).Legal := by
  refine ⟨h.1, h.2.1, h.2.2.1, ?_⟩
  rintro _ ⟨⟩
  exact h.2.1

theorem checkpoint (h : s.Legal) : (evCheckpoint s).Legal := by
  unfold evCheckpoint
  extract_lets cs s1
  have h1 : s1.Legal := h.foldl fun ht => ht.emptyCore
  split
  · exact h
  split
  · exact h1
  next s2 e =>
    have h2 : s2.Legal := optionFold (fun ht e => ht.flushCore e) h1 e
    exact ((h2.foldl fun ht => ht.closeRecords).foldl fun ht => ht.wbAll).withImage

theorem restored_fieldsOk (c : Core) (slot : Option (BitVec 16)) (held : List QEntry) :
    (c.restored slot held).fieldsOk = c.fieldsOk := by
  cases slot with
  | none => rfl
  | some => rfl

theorem restore (h : s.Legal) : (evRestore s).Legal := by
  unfold evRestore
  split
  · exact h
  next m e =>
    have hi : ({ s with parts := m.parts } : State).Legal := h.withParts (h.2.2.2 m e)
    have hp : ({ s with parts := m.parts.mapVal fun _ p => { p with vf := true } } : State).Legal := hi.mapParts fun _ _ => rfl
    exact (hp.mapCores (fun k c => restored_fieldsOk c (SMap.get m.cores k) ((m.held.get k).getD []))).congr rfl

/-! ### Power -/

theorem ofReset : State.reset.Legal := by
  refine ⟨fun c hc => ?_, nofun, nofun, nofun⟩
  obtain ⟨p, hp, rfl⟩ := List.mem_map.1 hc
  obtain ⟨k, -, rfl⟩ := List.mem_map.1 hp
  exact (by decide : Core.reset.fieldsOk = true)

theorem bootDie (h : s.Legal) {images : List (List Byte × List Byte)} {die : Nat} : (bootDie images s die).Legal := by
  unfold Machine.bootDie
  extract_lets im hold
  split
  · exact h.modDie
  · refine (h.mapCores (f := hold) fun k c => ?_).withReports
    dsimp only [hold]
    split <;> rfl

theorem residOf_legal (x : Nat × W64 × W64 × W32) : (residOf x).2.Legal :=
  Resid.Legal.written ⟨Nat.zero_le _, Nat.zero_le _⟩ _

theorem configure (h : s.Legal) {pkg : Nat} {image : List Byte} : (s.configure pkg image).Legal := by
  refine ⟨h.1, h.2.1, ?_, h.2.2.2⟩
  refine List.foldlRecOn (motive := fun m : SMap Resid => ∀ r ∈ m.vals, r.Legal) _ _ nofun fun m hm x hx => ?_
  obtain ⟨y, -, rfl⟩ := List.mem_map.1 hx
  exact SMap.forall_vals_set hm (residOf_legal y)

theorem bringUp (h : s.Legal) {images : List (List Byte × List Byte)} {pkg : Nat} : (bringUp images pkg s).Legal := by
  unfold Machine.bringUp
  extract_lets s1 im
  have h1 : s1.Legal := h.foldl fun ht => ht.bootDie
  split
  · exact h1.configure
  · exact h1

theorem powerOn {images : List (List Byte × List Byte)} {pkg : Nat} : (evPowerOn images pkg s).Legal :=
  (ofReset.congr rfl : s.afresh.Legal).bringUp

theorem packageReset {images : List (List Byte × List Byte)} {pkg : Nat} : (evPackageReset images pkg s).Legal :=
  bringUp (ofReset.congr (by rfl))

theorem powerLoss : (evPowerLoss s).Legal := by
  unfold evPowerLoss
  extract_lets off
  exact (ofReset.mapCores (f := fun _ c => off c) fun _ _ => rfl).congr rfl

theorem powerOrTemperatureLimit (h : s.Legal) {on : Bool} : (evPowerOrTemperatureLimit on s).Legal := h.congr rfl

end State.Legal
end Sys2Proof.Machine
end

section
/-! Every instruction, event and move keeps the registers legal, and so does a step (O58). -/

namespace Sys2Proof.Machine

/-- What a fetch leaves of the state, where it goes on from one, is legal. -/
def Fetched.Legal : Fetched → Prop
  | .wait t => t.Legal
  | .pad t => t.Legal
  | .instr t _ => t.Legal
  | _ => True

namespace State.Legal
variable {s t : State}

/-! ### Special registers, traps and trace marks -/

theorem mtsBody {hi : Bool} {a : Reg} {r : BitVec 8} : KeepsLegal (mtsBody hi a r) := by
  intro x s h
  unfold Machine.mtsBody
  dsimp only
  split
  · exact h.setUnit
  · exact h

theorem tretBody {i : Instr} {target : Nat → W64} {x : Issue} (h : s.Legal) : (tretBody i target x s).Legal := h.setUnit

theorem tretSkipBody {i : Instr} : KeepsLegal (tretSkipBody i) := by
  intro x s h
  unfold Machine.tretSkipBody
  extract_lets u back xs pages bad
  split
  · exact h.pageFault
  split
  next e => exact h.tretBody.of_wait e
  next e => exact (h.tretBody.of_done e).foldl fun ht => ht.modUnit

theorem tmarkBody {id : BitVec 8} {val : Option Reg} : KeepsLegal (tmarkBody id val) := fun h => h.foldl fun ht => ht.traceLane

/-! ### An instruction of the table -/

theorem exec_issues (h : s.Legal) (i : Instr) (hi : i.issues = true) : OutcomeLegal (exec i s) := by
  cases i with
  | nop | bra | jmp | jmpIndexed | ret | trap | trapK => exact h.runIssue fun ht => ht
  | mov | movi | moviHi | add | sub | mul | mulh | mad | lea | min | max | abs | neg | sat | and | or | xor | andn | not
  | shl | shr | sha | rot | clz | popc | brev | bfx | bfi | bytx | sel | shfl | mfs
  | fadd | fsub | fmul | ffma | fdiv | frcp | fsqrt | frsq | frnd | fscl | fmin | fmax | fexp2 | flog2 | hxadd
  | hxmul | hxfma | bxadd | bxmul | bxfma | cvt | pack | unpk => exact h.runIssue compute
  | cmp | pset | fcmp | fcls => exact h.runIssue computePred
  | call | callR => exact h.runIssue callBody
  | brk => exact h.runIssue brkBody
  | rfli | rfliOrd => exact h.runIssueThen rfliBody fun ht => ht.rfliRelease
  | rfl | rflOrd => exact h.runIssueThen (raiseHeld rflBody) fun ht => ht.groupRelease
  | syng => exact h.runIssueThen (fun ht => ht) fun ht => ht.syngRelease
  | vote => exact h.runIssue voteBody
  | rduc => exact h.runIssue rducBody
  | scan => exact h.runIssue scanBody
  | mts => exact h.runIssue mtsBody
  | tret => exact h.runIssueThen tretBody fun ht => ht.groupRelease
  | tretSkip => exact h.runIssueThen tretSkipBody fun ht => ht.groupRelease
  | tmark => exact h.runIssue tmarkBody
  | ld => exact h.runIssue ldBody
  | st => exact h.runIssue stBody
  | pref => exact h.runIssue prefBody
  | lds => exact h.runIssue ldsBody
  | sts => exact h.runIssue stsBody
  | ldt => exact h.runIssue ldtBody
  | stt => exact h.runIssue sttBody
  | atom | atomf | cas => exact h.runIssue atomBody
  | qpop => exact h.runIssue qpopBody
  | qpush => exact h.runIssue qpushBody
  | qsta => exact h.runIssue qstaBody
  | spawn | spawnU => exact h.runIssue (raiseHeld spawnBody)
  | await => exact h.runIssue awaitBody
  | exit => exact h.runIssueThen (raiseHeld exitBody) fun ht => ht.groupRelease
  | exitS => exact h.runIssueThen (raiseHeld (registerThen exitBody)) fun ht => ht.groupRelease
  | exitJ => exact h.runIssueThen (raiseHeld (registerThen exitjBody)) fun ht => ht.groupRelease
  | rgrow => exact h.runIssue rgrowBody
  | rshrk => exact h.runIssue rshrkBody
  | yield => exact h.runIssue yieldBody
  | ald => exact h.runIssue fun ht => ht.accAccess fun hu => hu.ldPerform
  | ast => exact h.runIssue fun ht => ht.accAccess fun hu => hu.stPerform
  | aprf => exact h.runIssue aprfBody
  | ahq => exact h.runIssue fun ht => ht.ownUnit
  | strm | gth | gthQ | sct | hprb | isct | walk => exact h.runIssue streamBody
  | qput | qend => exact h.runIssue appendBody
  | qtake => exact h.runIssue qtakeBody
  | qendX => exact h.runIssue qendXBody
  | qclr => exact h.runIssue qclrBody
  | acal => exact h.runIssue (matBody acalGo)
  | acfr => exact h.runIssue (matBody acfrGo)
  | acclm => exact h.runIssue (matBody acclmGo)
  | acz => exact h.runIssue (matBody aczGo)
  | mlds | mldsK1 => exact h.runIssue (matBody mldsGo)
  | mswp => exact h.runIssue (matBody mswpGo)
  | mma | mmas => exact h.runIssue (matBody mmaGo)
  | mbmp => exact h.runIssue (matBody mbmpGo)
  | mhad => exact h.runIssue (matBody mhadGo)
  | mprn => exact h.runIssue (matBody mprnGo)
  | acrdVector | acrdScalar => exact h.runIssue (matBody fun ht => ht.acrdGo)
  | acst => exact h.runIssue (matBody acstGo)
  | mstat => exact h.runIssue mstatBody
  | mwait => exact h.runIssue mwaitBody
  | cpl => exact h.runIssue cplBody
  | cps => exact h.runIssue cpsBody
  | cpf => exact h.runIssue cpfBody
  | cpx => exact h.runIssue cpxBody
  | cpw => exact h.runIssue cpwBody
  | rini => exact h.runIssue riniBody
  | awf => exact h.runIssue awfBody
  | rlsRing => exact h.runIssue rlsRingBody
  | rlsTile => exact h.runIssue rlsTileBody
  | rsta => exact h.runIssue rstaBody
  | tsta => exact h.runIssue tstaBody
  | tbindSp => exact h.runIssue tbindSpBody
  | tbindRd | tbindWr => exact h.runIssue tbindRingBody
  | tbindSelf => exact h.runIssue tbindSelfBody
  | _ => cases hi

theorem issuePass (h : s.Legal) {i : Instr} : OutcomeLegal (issuePass i s) := by
  unfold Machine.issuePass
  split
  · exact h.exec_issues (.mma ..) rfl
  · exact h.exec_issues (.mmas ..) rfl
  · exact h.exec_issues (.mbmp ..) rfl
  · exact h.exec_issues (.mhad ..) rfl
  · exact h.exec_issues (.mprn ..) rfl
  · exact h.next

theorem withCur (h : s.Legal) {c : Option Nat} : ({ s with cur := c } : State).Legal := h.congr rfl

theorem matrixAcceptance (h : s.Legal) {core : Nat} : OutcomeLegal (execMatrixAcceptance core s) := by
  unfold execMatrixAcceptance
  extract_lets c
  split
  · exact h.next
  next o _ =>
    have hpass : OutcomeLegal (Machine.issuePass o.instr { s with cur := some o.unit }) := h.withCur.issuePass
    extract_lets here
    split
    · exact h.next
    split
    next t e => exact (hpass t e).withCur.next
    · exact hpass

theorem exec_event (h : s.Legal) (i : Instr) (hi : i.issues = false) (hp : i ≠ .pad32) : OutcomeLegal (exec i s) := by
  cases i with
  | pad32 => exact absurd rfl hp
  | matrixAcceptance core => exact h.matrixAcceptance
  | outgoingEdge => exact h.outgoingEdge.next
  | runAheadEnd => exact h.runAheadEnd.next
  | pageFaultService => exact h.pageFaultService.next
  | coalescerRecordClose => exact h.coalescerRecordClose.next
  | faultRingWrite => exact h.faultRingWrite.next
  | hangReport => exact h.hangReport.next
  | waitCycleReport => exact h.waitCycleReport.next
  | hostLaunch => exact h.hostLaunch.next
  | distributorEmit => exact h.distributorEmit.next
  | blockMove => exact h.blockMove.next
  | stealMessage => exact h.stealMessage.next
  | stealReply => exact h.stealReply.next
  | runDry => exact h.runDry.next
  | placement => exact h.placement.next
  | spillRestore => exact h.spillRestore.next
  | childCompletion => exact h.childCompletion.next
  | taskCompletion => exact h.taskCompletion.next
  | inheritanceSpill => exact h.inheritanceSpill.next
  | park => exact h.park.next
  | parkResume => exact h.parkResume.next
  | rgrowGrant => exact h.rgrowGrant.next
  | rgrowDenial => exact h.rgrowDenial.next
  | refillGrant => exact h.refreshUnit.next
  | agedEntry => exact h.agedEntry.next
  | breakpointStop => exact h.breakpointStop.next
  | resume => exact h.resume.next
  | step => exact h.step.next
  | sample => exact h.sample.next
  | copyCompletion => exact h.copyCompletion.next
  | copyDataFault => exact h.copyDataFault.next
  | copyPageFaultService => exact h.copyPageFaultService.next
  | aonVersionWait => exact h.aonVersionWait.next
  | streamingOperationCompletion => exact h.streamingOperationCompletion.next
  | accessStrandFault => exact h.accessStrandFault.next
  | matrixOperationCompletion => exact h.matrixOperationCompletion.next
  | coreSramSplitWrite => exact h.coreSramSplitWrite.next
  | sramSplitChange => exact h.sramSplitChange.next
  | residCtlWrite => exact h.residCtlWrite.next
  | prefetchFillDrop => exact h.prefetchFillDrop.next
  | load => exact h.load.next
  | clear => exact h.clear.next
  | soft => exact h.soft.next
  | force => exact h.force.next
  | swap => exact h.swap.next
  | fillCompletion => exact h.fillCompletion.next
  | spillCompletion => exact h.spillCompletion.next
  | reset => exact h.reset.next
  | matrixResetCompletion => exact h.matrixResetCompletion.next
  | invalidatePage | invalidateAddressSpace | invalidatePartition | invalidateRemoteTarget => exact h.invalidate.next
  | invalidateCompletion => exact h.invalidateCompletion.next
  | heartwoodFrozenClear => exact h.heartwoodFrozenClear.next
  | registerWrite => exact h.registerWrite.next
  | segmentClose => exact h.segmentClose.next
  | segmentSubmit => exact h.segmentSubmit.next
  | migrationCommand => exact h.migrationCommand.next
  | processEnd => exact h.processEnd.next
  | partitionMake => exact h.partitionMake.next
  | partitionTeardown => exact h.partitionTeardown.next
  | checkpoint => exact h.checkpoint.next
  | restore => exact h.restore.next
  | hostBar2Read => exact h.hostBar2Read.next
  | hostBar2Write => exact h.hostBar2Write.next
  | read => exact h.read.next
  | readData => exact h.readData.next
  | write => exact h.write.next
  | atomic => exact h.atomic.next
  | atomicResult => exact h.atomicResult.next
  | acknowledgement => exact h.acknowledgement.next
  | lossNotice => exact h.lossNotice.next
  | checkpointData => exact h.checkpointData.next
  | idle => exact h.next
  | idleFlitTimer => exact h.idleFlitTimer.next
  | flitCrcFailure => exact h.flitCrcFailure.next
  | portDown => exact h.portDownEvent.next
  | linkDownTimeout => exact h.linkDownTimeout.next
  | powerOn => exact powerOn.next
  | packageReset => exact packageReset.next
  | memoryResponse => exact h.memoryResponse.next
  | engineLineRelease => exact h.engineLineRelease.next
  | accessPageFaultService => exact h.accessPageFaultService.next
  | routeReturn => exact h.routeReturn.next
  | powerLoss => exact powerLoss.next
  | powerOrTemperatureLimit => exact h.powerOrTemperatureLimit.next
  | segmentWriteCompletion => exact h.segmentWriteCompletion.next
  | migrationCompletion => exact h.migrationCompletion.next
  | add | sub | mul | mulh | min | max | and | or | xor | andn | shl | shr | sha | rot | cmp | shfl | fadd | fsub | fmul | fdiv |
  fscl | fmin | fmax | fcmp | ld | st | lds | sts | atom | atomf | cas | pref | ald | ast | aprf | cpl | cps | cpf | cpx =>
    simp [Instr.issues, Instr.toRaw] at hi
  | pset _ _ src => cases src <;> cases hi
  | qendX _ q => cases q <;> cases hi
  | mstat _ sel _ => cases sel <;> cases hi
  | _ => cases hi

theorem exec (h : s.Legal) (i : Instr) : OutcomeLegal (exec i s) := by
  by_cases hp : i = .pad32
  · subst hp
    exact h.execPad32
  cases hi : i.issues with
  | true => exact h.exec_issues i hi
  | false => exact h.exec_event i hi hp

/-! ### A step -/

theorem takeReset (h : s.Legal) {uid : Nat} {e : Entry} {ls : List Nat} : (s.takeReset uid e ls).Legal := h.setUnit.raiseAll

theorem beforeIssue (h : s.Legal) {uid : Nat} {e : Entry} (he : s.beforeIssue uid e = some t) : t.Legal := by
  unfold State.beforeIssue at he
  extract_lets u ords resets stops at he
  clear_value stops
  split at he
  · split at he
    · cases he
    · cases he
      exact h.modUnit
  split at he
  · cases he
    exact h.takeReset
  split at he
  · cases he
    exact h.foldl fun ht => ht.breakpointStop
  split at he
  · cases he
  · cases he
    exact h.modUnit

theorem fetchRaise (h : s.Legal) {uid : Nat} {e : Entry} {cause : Cause} {info : W64} {opc : Nat} :
    (s.fetchRaise uid e cause info opc).Legal := by
  unfold State.fetchRaise
  split
  · exact h.modUnit
  · exact h.raiseAll

theorem dropFetch (h : s.Legal) {uid : Nat} {old : List Entry} : (s.dropFetch uid old).Legal := by
  unfold State.dropFetch
  dsimp only
  split
  · exact h
  · exact h.modCore fun _ => rfl

theorem settled {uid : Nat} {old : List Entry} {o : Host.Outcome State Fault Refusal} (ho : OutcomeLegal o) :
    OutcomeLegal (settled uid old o) := by
  cases o with
  | next t => exact (ho t rfl).withCur.dropFetch.next
  | fault => nofun
  | refused => nofun

theorem readParcels (h : s.Legal) {uid : Nat} {pc : W64} {pa : Nat} : (s.readParcels uid pc pa).Legal := by
  unfold State.readParcels
  dsimp only
  split
  · trivial
  · exact h
  · trivial
  split
  · trivial
  split
  · trivial
  split
  · exact h
  · trivial

theorem fetch (h : s.Legal) {uid : Nat} {pc : W64} : (s.fetch uid pc).Legal := by
  unfold State.fetch
  dsimp only
  split
  · trivial
  split
  · split <;> trivial
  · trivial
  · trivial
  split
  · exact h.fillTlb.readParcels
  · trivial
  split
  · exact h.fillTlb
  · exact h.fillTlb.sendReads

theorem fetchIssue (h : s.Legal) {uid : Nat} {e : Entry} : OutcomeLegal (fetchIssue uid e s) := by
  unfold Machine.fetchIssue
  dsimp only
  have hf : (s.fetch uid e.pc).Legal := h.fetch
  split
  next hw =>
    rw [hw] at hf
    exact (pass hf).next
  · exact h.fetchFault.next
  · exact h.fetchRaise.next
  next hw =>
    rw [hw] at hf
    exact settled (exec (withCur hf) _)
  next hw =>
    rw [hw] at hf
    exact settled (exec (withCur hf) _)

theorem issueUnit (h : s.Legal) {uid : Nat} : OutcomeLegal (issueUnit uid s) := by
  unfold Machine.issueUnit
  split
  · exact h.next
  split
  · exact h.next
  split
  next he => exact (h.beforeIssue he).next
  · exact h.fetchIssue

theorem applyMove (h : s.Legal) {m : Move} : OutcomeLegal (applyMove m s) := by
  cases m with
  | ev i =>
    unfold Machine.applyMove
    dsimp only
    split
    · exact h.next
    · exact h.exec i
  | issue => exact h.issueUnit
  | tick => exact h.pass.next
  | evict => exact h.evictByte.next
  | kstore => exact h.hostBar2Write.next
  | flit => exact h.sendNext.next
  | debug => exact h.debugWrite.next

theorem firstEvent (h : s.Legal) {view : State → State} {is : List Instr} (e : firstEvent view s is = some t) : t.Legal := by
  induction is with
  | nil => cases e
  | cons i is ih =>
    unfold Machine.firstEvent at e
    split at e
    next u hu =>
      split at e
      · exact ih e
      · cases e
        exact h.exec i _ hu
    · exact ih e

theorem tryUnits (h : s.Legal) {us : List Nat} : OutcomeLegal (tryUnits us s) := by
  induction us generalizing s with
  | nil => exact h.next
  | cons uid us ih =>
    have hi : OutcomeLegal (Machine.issueUnit uid s) := h.issueUnit
    unfold Machine.tryUnits
    split
    next t ht =>
      split
      · exact (hi t ht).next
      · exact ih (hi t ht)
    · exact hi

theorem autoStep (h : s.Legal) : OutcomeLegal (autoStep s) := by
  unfold Machine.autoStep
  extract_lets s1 able idle
  have h1 : s1.Legal := h.refresh
  split
  next he => exact (h1.firstEvent he).next
  split
  · have hd : ((Machine.firstEvent id s1 s1.autoMoves).getD s1).Legal := by
      cases he : Machine.firstEvent id s1 s1.autoMoves with
      | none => exact h1
      | some => exact h1.firstEvent he
    exact (hd.foldl fun ht => ht.pass).next
  · exact (h1.foldl fun ht => ht.pass).tryUnits

theorem runStep (h : s.Legal) : OutcomeLegal (runStep s) := by
  unfold Machine.runStep
  split
  · exact applyMove (h.congr (by rfl))
  · exact h.autoStep

end State.Legal

/-- Settles O58: every operation of the model keeps the bounded registers, so every instruction, event and move of the schedule does. -/
theorem registersStayLegal : Obligations.RegistersStayLegal := fun _ t h e => State.Legal.runStep h t e

end Sys2Proof.Machine
end

section
/-! Right after reset the invariants hold and the registers stand at the values of their rules (O59). -/

namespace Sys2Proof.Machine

/-- Each core is the core of the Reset columns. -/
theorem core_reset (k : Nat) : State.reset.core k = Core.reset :=
  SMap.of_get_getD (P := fun c => c = Core.reset) (by
    intro c hc
    obtain ⟨p, hp, rfl⟩ := List.mem_map.1 hc
    obtain ⟨j, -, rfl⟩ := List.mem_map.1 hp
    rfl) rfl k

/-- Each die is the die of the Reset columns. -/
theorem die_reset (d : Nat) : State.reset.die d = Die.reset :=
  SMap.of_get_getD (P := fun x => x = Die.reset) (by
    intro x hx
    obtain ⟨p, hp, rfl⟩ := List.mem_map.1 hx
    obtain ⟨j, -, rfl⟩ := List.mem_map.1 hp
    rfl) rfl d

/-- No comparator is enabled. -/
theorem comparators_reset (n : Nat) (x : Comparator) (h : Core.reset.comparators.get n = some x) : x.en = false := by
  have hall : ∀ y ∈ SMap.vals Core.reset.comparators, y.en = false := by decide
  exact hall x (List.mem_map_of_mem (SMap.mem_of_get h))

/-- Memory reads zero. -/
theorem homeByte_reset (a : Nat) : State.reset.homeByte a = 0#8 := by
  unfold State.homeByte
  split
  · rfl
  · split <;> rfl

/-- No memory holds a byte, and there is no image. -/
theorem memoriesCanonical_reset : Claim.MemoriesCanonical State.reset := ⟨by decide, nofun⟩

/-- Settles O59: every core and every die of the reset state is the one of the Reset columns. -/
theorem resetStands : Obligations.ResetStands := by
  refine ⟨memoriesCanonical_reset, State.Legal.ofReset, fun k => ?_, fun d => ?_, homeByte_reset, rfl, rfl, rfl⟩
  · rw [core_reset]
    exact ⟨rfl, rfl, rfl, rfl, rfl, rfl, rfl, rfl, rfl, rfl, comparators_reset, rfl, rfl⟩
  · rw [die_reset]
    exact ⟨rfl, rfl, rfl⟩

end Sys2Proof.Machine
end

section
/-! The SRAM split, residency and dropped prefetch fills (R18, R23 to R25). -/

namespace Sys2Proof.Machine

/-! ### Writeback of own memory, byte by byte -/

theorem ownAddr {pa : Nat} (h : pa < 2 ^ 39) : (pa / 2 ^ 39 == 0) = true := beq_iff_eq.2 (Nat.div_eq_of_lt h)

theorem remotePkg_own (s : State) {pa : Nat} (h : pa < 2 ^ 39) : remotePkg s pa = none := by
  unfold remotePkg placeOf
  rw [if_pos (ownAddr h)]

theorem homeWrite_own (s : State) {pa : Nat} (h : pa < 2 ^ 39) (b : Byte) : s.homeWrite pa b = { s with mem := s.mem.write pa b } :=
  if_pos (ownAddr h)

theorem homeByte_write_same (s : State) {pa : Nat} (h : pa < 2 ^ 39) (b : Byte) (x : SMap Slice) :
    ({ s with mem := s.mem.write pa b, slices := x } : State).homeByte pa = b :=
  (if_pos (ownAddr h)).trans (Memory.read_write_same s.mem pa b)

theorem homeByte_write_other (s : State) {pa a : Nat} (h : a ≠ pa) (b : Byte) (x : SMap Slice) :
    ({ s with mem := s.mem.write pa b, slices := x } : State).homeByte a = s.homeByte a := by
  unfold State.homeByte
  dsimp only
  rw [Memory.read_write_other _ _ _ _ h]

/-- What a writeback of one core does: each byte stays where it is, or is written home from the dirty one of the L1; the split to come and
every other core stay (R45). -/
structure State.Flushes (core : Nat) (s t : State) : Prop where
  units : t.units = s.units
  others : ∀ c, c ≠ core → t.core c = s.core c
  split : (t.core core).l1next = (s.core core).l1next
  bytes : ∀ a, ((t.core core).l1.get a = (s.core core).l1.get a ∧ t.homeByte a = s.homeByte a) ∨
    ∃ b, (s.core core).l1.get a = some b ∧ b.dirty = true ∧ t.homeByte a = b.val ∧ (t.core core).CleanAt a

theorem State.Flushes.refl (core : Nat) (s : State) : s.Flushes core s := ⟨rfl, fun _ _ => rfl, rfl, fun _ => .inl ⟨rfl, rfl⟩⟩

theorem State.Flushes.trans {core : Nat} {s t u : State} (h : s.Flushes core t) (k : t.Flushes core u) : s.Flushes core u where
  units := k.units.trans h.units
  others c hc := (k.others c hc).trans (h.others c hc)
  split := k.split.trans h.split
  bytes a := by
    rcases h.bytes a with ⟨hl, hh⟩ | ⟨b, hb, hd, hh, hc⟩
    · rw [← hl, ← hh]
      exact k.bytes a
    · rcases k.bytes a with ⟨kl, kh⟩ | ⟨b', hb', hd', -⟩
      · exact .inr ⟨b, hb, hd, kh.trans hh, fun x hx => hc x (kl ▸ hx)⟩
      · rw [hc b' hb'] at hd'
        cases hd'

theorem wbByte_flushes (s : State) (core : Nat) {pa : Nat} (hpa : pa < 2 ^ 39) : s.Flushes core (s.wbByte core pa) := by
  unfold State.wbByte
  split
  next b hb =>
    split
    · exact .refl core s
    next hd =>
      rw [remotePkg_own s hpa, homeWrite_own s hpa]
      obtain ⟨x, e⟩ := sliceAccess_eq { s with mem := s.mem.write pa b.val } pa
      rw [e]
      refine ⟨rfl, fun c hc => State.core_modCore_other _ _ _ _ hc, ?_, fun a => ?_⟩
      · rw [State.core_modCore_same]
        rfl
      rw [State.core_modCore_same]
      by_cases ha : a = pa
      · subst ha
        exact .inr ⟨b, hb, by simpa using hd, homeByte_write_same s hpa _ x, Core.cleanAt_setL1_same (s.core core) a rfl⟩
      · exact .inl ⟨SMap.get_set_other _ _ _ _ ha, homeByte_write_other s ha _ x⟩
  · exact .refl core s

/-- After a writeback of a core whose dirty bytes are of own memory, home holds what the core held (R45). -/
theorem wbAll_flushes (s : State) (core : Nat) (hown : ∀ a ∈ (s.core core).dirtyAddrs, a < 2 ^ 39) :
    s.Flushes core (s.wbAll core) ∧
      (∀ a b, (s.core core).l1.get a = some b → b.dirty = true → (s.wbAll core).homeByte a = b.val) ∧
      ∀ a, (s.core core).CleanAt a → (s.wbAll core).homeByte a = s.homeByte a := by
  have hf : s.Flushes core (s.wbAll core) :=
    foldl_rel (State.Flushes.refl core) .trans _ _ s fun t _ a ha => wbByte_flushes t core (hown a ha)
  refine ⟨hf, fun a b hb hd => ?_, fun a hc => ?_⟩
  · have hclean := (wbAll_writesBack s core fun a ha => remotePkg_own s (hown a ha)).2 a
    rcases hf.bytes a with ⟨hl, -⟩ | ⟨b', hb', -, hh, -⟩
    · rw [hclean b (hl.trans hb)] at hd
      cases hd
    · rw [hb] at hb'
      cases hb'
      exact hh
  · rcases hf.bytes a with ⟨-, hh⟩ | ⟨b, hb, hd, -⟩
    · exact hh
    · rw [hc b hb] at hd
      cases hd

/-! ### The split (R18) -/

theorem coreSramSplitWrite_spec (s : State) (core : Nat) (v : W32) : let n : BitVec 3 := v.extractLsb' 4 3
    (n = 7#3 → exec (.coreSramSplitWrite core v) s = .next s) ∧
    (n ≠ 7#3 → exec (.coreSramSplitWrite core v) s =
      .next (s.setCore core { s.core core with l1next := n, l1pend := decide (n ≠ (s.core core).l1sz) })) := by
  intro n
  refine ⟨fun hn => congrArg Host.Outcome.next (if_pos (beq_iff_eq.2 hn)), fun hn => ?_⟩
  have hx : evCoreSramSplitWrite core v s = s.modCore core fun c => { c with l1next := n, l1pend := n != c.l1sz } :=
    if_neg fun h => hn (beq_iff_eq.1 h)
  have hpend : (n != (s.core core).l1sz) = decide (n ≠ (s.core core).l1sz) := by
    rw [bne, beq_eq_decide, decide_not]
  exact congrArg Host.Outcome.next (hx.trans (by rw [← hpend]; rfl))

theorem sramSplitChange_spec (s : State) (core : Nat) (hp : (s.core core).l1pend = true) (ht : (s.core core).ctx.tasks = [])
    (hs : (s.core core).spill = false) (hl : s.linesDue core = false)
    (hd : ∀ a ∈ (s.core core).dirtyAddrs, s.owned a = false ∧ a < 2 ^ 39) :
    ∃ t, exec (.sramSplitChange core) s = .next t ∧ (t.core core).l1sz = (s.core core).l1next ∧ (t.core core).l1pend = false ∧
      (t.core core).l1 = [] ∧ (∀ a b, (s.core core).l1.get a = some b → b.dirty = true → t.homeByte a = b.val) ∧
      (∀ a, (∀ b, (s.core core).l1.get a = some b → b.dirty = false) → t.homeByte a = s.homeByte a) ∧
      (∀ c, c ≠ core → t.core c = s.core c) ∧ t.units = s.units := by
  obtain ⟨hf, hdirty, hclean⟩ := wbAll_flushes s core fun a ha => (hd a ha).2
  have hfree : s.wbFree core = true := by
    simp only [State.wbFree, hl, Bool.not_false, Bool.and_true, List.all_eq_true, Bool.not_eq_true']
    exact fun a ha => (hd a ha).1
  refine ⟨_, rfl, ?_⟩
  unfold evSramSplitChange
  simp only [hp, ht, hs, hfree, Bool.not_true, List.isEmpty_nil, Bool.or_self, Bool.false_eq_true, if_false, State.core_modCore_same]
  exact ⟨hf.split, trivial, trivial, hdirty, hclean, fun c hc => (State.core_modCore_other _ _ _ _ hc).trans (hf.others c hc), hf.units⟩

/-! ### Residency (R23, R24) -/

/-- The registers of a partition keep all but CLIP where the ways are granted afresh (R24). -/
theorem Part.get_clipped (p : Part) (n : Nat) :
    ∃ f : Resid → Bool, p.clipped.resid.get n = (p.resid.get n).map fun r => { r with clip := f r } := by
  unfold Part.clipped
  dsimp only
  rw [SMap.get_mapVal]
  exact ⟨_, rfl⟩

theorem residCtlWrite_spec (s : State) (part n : Nat) (v : W32) : let r : Resid := ((s.part part).resid.get n).getD .reset
    ∃ t x, exec (.residCtlWrite part n v) s = .next t ∧ (t.part part).resid.get n = some x ∧ x.base = r.base ∧ x.lim = r.lim ∧
      x.en = v.getLsbD 31 ∧ x.ways = (if nbits v.toNat 8 4 ≤ 12 then nbits v.toNat 8 4 else r.ways) ∧
      x.sample = (if nbits v.toNat 0 5 ≤ 16 then nbits v.toNat 0 5 else r.sample) ∧
      (∀ m y, m ≠ n → (s.part part).resid.get m = some y →
        ∃ z, (t.part part).resid.get m = some z ∧ { z with clip := y.clip } = y) ∧
      (∀ k y, s.slices.get k = some y →
        t.slices.get k = some (if (s.part part).clusters.contains (k / 16) then { y with ctrs := [] } else y)) ∧
      t.mem = s.mem ∧ t.cores = s.cores ∧ t.units = s.units := by
  intro r
  set p : Part := { s.part part with resid := (s.part part).resid.set n (r.written v) } with hp
  set t : State := (s.setPart part p.clipped).zeroSampling part with ht
  have hpart : t.part part = p.clipped := State.part_setPart_same s part p.clipped
  obtain ⟨f, hf⟩ := p.get_clipped n
  refine ⟨t, { r.written v with clip := f (r.written v) }, rfl, ?_, rfl, rfl, rfl, rfl, rfl, fun m y hm hy => ?_, fun k y hy => ?_,
    rfl, rfl, rfl⟩
  · rw [hpart, hf, hp, SMap.get_set_same]
    rfl
  · obtain ⟨g, hg⟩ := p.get_clipped m
    refine ⟨{ y with clip := g y }, ?_, rfl⟩
    rw [hpart, hg, hp, SMap.get_set_other _ _ _ _ hm, hy]
    rfl
  · have hcl : ((s.setPart part p.clipped).part part).clusters = (s.part part).clusters := by
      rw [State.part_setPart_same]
      rfl
    rw [ht]
    unfold State.zeroSampling
    dsimp only
    rw [SMap.get_mapVal, hcl, State.slices_setPart, hy]
    rfl

/-! ### Prefetch fills (R25) -/

theorem SMap.get_adjust_other {α : Type} (f : α → α) (m : SMap α) (k : Nat) {j : Nat} (h : j ≠ k) :
    SMap.get (SMap.adjust f m k) j = SMap.get m j := by
  induction m with
  | nil => rfl
  | cons p m ih =>
    obtain ⟨i, w⟩ := p
    by_cases e : i = k
    · subst e
      simp [SMap.adjust, SMap.get, h.symm]
    · simp only [SMap.adjust, e, if_false, SMap.get, ih]

theorem SMap.get_adjust_same {α : Type} (f : α → α) (m : SMap α) (k : Nat) :
    SMap.get (SMap.adjust f m k) k = (SMap.get m k).map f := by
  induction m with
  | nil => rfl
  | cons p m ih =>
    obtain ⟨i, w⟩ := p
    by_cases e : i = k
    · simp [SMap.adjust, SMap.get, e]
    · simp only [SMap.adjust, e, if_false, SMap.get, ih]

theorem prefetchFillDrop_spec (s : State) (k : Nat) (x : Slice) (key way line : Nat) (hx : s.slices.get k = some x)
    (hd : x.fillDue = some (key, way, line)) :
    ∃ t y, exec (.prefetchFillDrop k) s = .next t ∧ t.slices.get k = some y ∧ y.drops = x.drops + 1 ∧ y.fillDue = none ∧
      (∀ ls, y.sets.get key = some ls → ∀ z ∈ ls, z.line ≠ line ∨ z.way ≠ way) ∧ (∀ j, j ≠ key → y.sets.get j = x.sets.get j) ∧
      (∀ j, j ≠ k → t.slices.get j = s.slices.get j) ∧ t.mem = s.mem := by
  refine ⟨_, x.dropFill, rfl, SMap.get_adjust Slice.dropFill _ k hx, ?_⟩
  have hdrop : x.dropFill = { x with
      sets := x.sets.adjust (fun ls => ls.filter fun y => y.line != line || y.way != way) key, drops := x.drops + 1,
      fillDue := none } := by
    rw [Slice.dropFill, hd]
  rw [hdrop]
  refine ⟨rfl, rfl, fun ls hls z hz => ?_, fun j hj => SMap.get_adjust_other _ _ _ hj,
    fun j hj => SMap.get_adjust_other _ _ _ hj, rfl⟩
  rw [SMap.get_adjust_same, Option.map_eq_some_iff] at hls
  obtain ⟨ls0, -, rfl⟩ := hls
  simpa using (List.mem_filter.1 hz).2

theorem sramAndResidency : Claim.SramAndResidency :=
  ⟨coreSramSplitWrite_spec, sramSplitChange_spec, residCtlWrite_spec, prefetchFillDrop_spec⟩

end Sys2Proof.Machine
end

section
/-! The two register sets of a core: the pre-emption commands, the fill, the swap and the spill (R151, R152, R337). -/

namespace Sys2Proof.Machine

/-! ### Commands (R151) -/

theorem evClear_ready {s : State} {core : Nat} (h : (s.core core).ready = true ∨ (s.core core).fill = true) : evClear core s = s :=
  if_pos (by simpa using h)

theorem evClear_spill {s : State} {core : Nat} (hr : (s.core core).ready = false) (hf : (s.core core).fill = false)
    (hs : (s.core core).spill = true) : evClear core s = s.setCore core { s.core core with clearWait := true } :=
  (if_neg (by simp [hr, hf])).trans (if_pos hs)

theorem evClear_empties {s : State} {core : Nat} (hr : (s.core core).ready = false) (hf : (s.core core).fill = false)
    (hs : (s.core core).spill = false) :
    evClear core s = s.setCore core { s.core core with shadow := some { core := core, ctx := .none }, ready := true } :=
  (if_neg (by simp [hr, hf])).trans (if_neg (by simp [hs]))

/-! ### Changes of many entries -/

/-- A change that a second one leaves alone, made at every key of a list. -/
theorem SMap.get_foldl_adjust {α : Type} {f : α → α} (hf : ∀ x, f (f x) = f x) (ks : List Nat) (m : SMap α) (n : Nat) :
    SMap.get (ks.foldl (fun m k => SMap.adjust f m k) m) n = if n ∈ ks then (SMap.get m n).map f else SMap.get m n := by
  induction ks generalizing m with
  | nil => rfl
  | cons k ks ih =>
    rw [List.foldl_cons, ih]
    by_cases hn : n = k
    · subst hn
      rw [SMap.get_adjust_same]
      cases SMap.get m n <;> simp [hf]
    · rw [SMap.get_adjust_other _ _ _ hn]
      simp [hn]

/-- A task given a state: one that still waits to be restored keeps its own. -/
def Task.given (st : TaskSt) (k : Task) : Task := if k.st == .pending then k else { k with st := st }

theorem Task.given_eq (st : TaskSt) (k : Task) : k.given st = if k.st ≠ .pending then { k with st := st } else k := by
  by_cases h : k.st = .pending <;> simp [Task.given, h]

theorem Task.given_given (st : TaskSt) (k : Task) : (k.given st).given st = k.given st := by
  by_cases h : k.st = .pending <;> by_cases h' : st = .pending <;> simp [Task.given, h, h']

/-- A state given to tasks. -/
theorem get_setTasks (s : State) (ts : List Nat) (st : TaskSt) {n : Nat} {k : Task} (hk : s.tasks.get n = some k) :
    (s.setTasks ts st).tasks.get n = some (if n ∈ ts ∧ k.st ≠ .pending then { k with st := st } else k) := by
  refine (SMap.get_foldl_adjust (Task.given_given st) ts s.tasks n).trans ?_
  rw [hk, Option.map_some, Task.given_eq]
  by_cases hn : n ∈ ts <;> simp [hn]

/-! ### The fill (R152) -/

theorem fillCompletion_spec (s : State) (core : Nat) (x : CtxSet) (hf : (s.core core).fill = true)
    (hs : (s.part (s.corePart core)).slots.get (s.core core).fslot.toNat = some (.set x)) (hx : x.core = core) :
    ∃ t, exec (.fillCompletion core) s = .next t ∧
      t.core core = { s.core core with fill := false, ready := true, shadow := some x } ∧
      (t.part (s.corePart core)).slots.get (s.core core).fslot.toNat = none ∧ (∀ d, d ≠ core → t.core d = s.core d) ∧
      t.units = s.units ∧ ∀ n k, s.tasks.get n = some k → t.tasks.get n =
        some (if n ∈ x.ctx.tasks ∧ k.st ≠ .pending then { k with st := .shadowed } else k) := by
  set s1 : State := (s.setCore core { s.core core with fill := false, ready := true, shadow := some x }).modPart (s.corePart core)
    fun p => { p with slots := p.slots.del (s.core core).fslot.toNat } with hs1
  have he : evFillCompletion core s = s1.setTasks x.ctx.tasks .shadowed := by
    simp [evFillCompletion, hf, hs, hx, hs1]
  refine ⟨_, congrArg Host.Outcome.next he, State.core_setCore_same .., ?_, fun d hd => State.core_setCore_other _ _ _ _ hd, rfl,
    fun n k hk => get_setTasks s1 _ _ hk⟩
  have hp : (s1.part (s.corePart core)).slots = (s.part (s.corePart core)).slots.del (s.core core).fslot.toNat := by
    rw [hs1, State.part_modPart_same]
    rfl
  exact (congrArg (SMap.get · _) hp).trans (SMap.get_del_same _ _)

theorem fillCompletion_fails (s : State) (core : Nat) (hf : (s.core core).fill = true)
    (hs : ∀ x, (s.part (s.corePart core)).slots.get (s.core core).fslot.toNat = some (.set x) → x.core ≠ core) :
    exec (.fillCompletion core) s = .next (s.setCore core { s.core core with fill := false, err := true }) := by
  refine congrArg Host.Outcome.next ?_
  unfold evFillCompletion
  dsimp only
  rw [if_neg (by simp [hf])]
  split
  next x hx => exact if_pos (by simpa using hs x hx)
  · rfl

/-! ### The swap (R152, R337) -/

/-- What the exchange of the sets reads of a core. -/
def Core.swapView (c : Core) : List Nat × SMap Bank × Option Nat × List Claim × W64 × BitVec 16 :=
  (c.ctx.tasks, c.ctx.banks, c.ctx.hold, c.ctx.claims, c.cyc, c.sslot)

/-- What the end of run-ahead and the release of lines leave alone: the tasks, and what the exchange reads of cores. -/
structure State.Settles (s t : State) : Prop where
  tasks : t.tasks = s.tasks
  cores : ∀ c, (t.core c).swapView = (s.core c).swapView

theorem State.Settles.refl (s : State) : s.Settles s := ⟨rfl, fun _ => rfl⟩

theorem State.Settles.trans {s t u : State} (h : s.Settles t) (k : t.Settles u) : s.Settles u :=
  ⟨k.tasks.trans h.tasks, fun c => (k.cores c).trans (h.cores c)⟩

theorem State.Settles.of_eq {s t : State} (ht : t.tasks = s.tasks) (hc : t.cores = s.cores) : s.Settles t :=
  ⟨ht, fun c => by rw [State.core, hc]; rfl⟩

theorem State.settles_setCore (s : State) (k : Nat) {x : Core} (hx : x.swapView = (s.core k).swapView) : s.Settles (s.setCore k x) := by
  refine ⟨rfl, fun c => ?_⟩
  by_cases hc : c = k
  · subst hc
    rw [State.core_setCore_same, hx]
  · rw [State.core_setCore_other _ _ _ _ hc]

theorem coalEvent_settles (s : State) (core : Nat) (r : CoalRec) : s.Settles (s.coalEvent core r) := by
  unfold State.coalEvent
  dsimp only
  split
  · exact s.settles_setCore core rfl
  split
  · exact s.settles_setCore core rfl
  split
  · split <;> exact s.settles_setCore core rfl
  · exact s.settles_setCore core rfl

theorem endAhead_settles (s : State) (uid : Nat) : s.Settles (s.endAhead uid) := by
  unfold State.endAhead
  dsimp only
  split
  · exact .refl s
  · refine State.Settles.trans ?_ (foldl_rel State.Settles.refl .trans _ _ _ fun t _ p _ => coalEvent_settles t _ _)
    exact .of_eq rfl rfl

/-- A line finished and released, before its engine strikes it. -/
theorem finishLine_settles (s : State) (line : Nat) (cs : Cells) (a : Nat) :
    s.Settles (((s.writeCells cs).sliceAccess a).releaseLine line) := by
  obtain ⟨m, h, e1⟩ := writeCells_eq s cs
  obtain ⟨x, e2⟩ := sliceAccess_eq (s.writeCells cs) a
  rw [e2, e1]
  exact .of_eq rfl rfl

theorem engineLineRelease_settles (s : State) (line : Nat) : s.Settles (evEngineLineRelease line s) := by
  unfold evEngineLineRelease
  split
  · exact .refl s
  · unfold copyLineRelease
    split
    · exact .of_eq rfl rfl
    · exact (finishLine_settles s line _ _).trans (State.settles_setCore _ _ rfl)
  · unfold streamLineRelease
    split
    · exact .of_eq rfl rfl
    · exact (finishLine_settles s line _ _).trans (.of_eq rfl rfl)

theorem yieldLines_settles (s : State) (p : Nat × Nat × Nat → Bool) : s.Settles (s.yieldLines p) := by
  unfold State.yieldLines
  refine State.Settles.trans ?_ (foldl_rel State.Settles.refl .trans _ _ _ fun t _ line _ => ?_)
  · exact .of_eq rfl rfl
  split
  · split
    · exact engineLineRelease_settles t line
    · exact .refl t
  · exact .refl t

/-- What waking tasks and asking for lines again leave alone: cores and partitions, and of a task its state, units and scratchpad. -/
structure State.Wakes (s t : State) : Prop where
  cores : t.cores = s.cores
  parts : t.parts = s.parts
  st : ∀ n, (t.task n).st = (s.task n).st
  units : ∀ n, (t.task n).units = (s.task n).units
  spad : ∀ n, (t.task n).spad = (s.task n).spad

theorem State.Wakes.refl (s : State) : s.Wakes s := ⟨rfl, rfl, fun _ => rfl, fun _ => rfl, fun _ => rfl⟩

theorem State.Wakes.trans {s t u : State} (h : s.Wakes t) (k : t.Wakes u) : s.Wakes u :=
  ⟨k.cores.trans h.cores, k.parts.trans h.parts, fun n => (k.st n).trans (h.st n), fun n => (k.units n).trans (h.units n),
    fun n => (k.spad n).trans (h.spad n)⟩

theorem State.Wakes.of_eq {s t : State} (hc : t.cores = s.cores) (hp : t.parts = s.parts) (ht : t.tasks = s.tasks) : s.Wakes t := by
  refine ⟨hc, hp, fun n => ?_, fun n => ?_, fun n => ?_⟩ <;> (rw [State.task, ht]; rfl)

theorem wakeTask_wakes (s : State) (cyc : W64) (n : Nat) : s.Wakes (s.wakeTask cyc n) := by
  have h1 : s.Wakes (s.modTask n fun k => { k with lastAct := cyc, awaitSince := none }) := by
    refine ⟨rfl, rfl, fun m => ?_, fun m => ?_, fun m => ?_⟩ <;>
      (by_cases hm : m = n
       · subst hm
         rw [State.task_modTask_same]
       · rw [State.task_modTask_other _ _ _ _ hm])
  exact h1.trans (foldl_rel State.Wakes.refl .trans _ _ _ fun t _ uid _ => .of_eq rfl rfl rfl)

theorem askLines_wakes (s : State) (who : Nat × Nat × Nat) (ls : List (Nat × Cells)) :
    s.Wakes (ls.foldl (fun u p => u.askLine p.1 who) s) :=
  foldl_rel State.Wakes.refl .trans _ _ _ fun _ _ _ _ => .of_eq rfl rfl rfl

theorem askAgain_wakes (s : State) (core : Nat) : s.Wakes (s.askAgain core) := by
  unfold State.askAgain
  exact (foldl_rel State.Wakes.refl .trans _ _ _ fun t _ p _ => askLines_wakes t _ _).trans
    (foldl_rel State.Wakes.refl .trans _ _ _ fun t _ uid _ =>
      foldl_rel State.Wakes.refl .trans _ _ _ fun u _ p _ => askLines_wakes u _ _)

/-- What the exchange makes of the tasks of both sets. -/
theorem get_exchangedTasks (s : State) (out new : List Nat) {n : Nat} {k : Task} (hk : s.tasks.get n = some k) (hp : k.st ≠ .pending) :
    ((s.setTasks out .shadowed).setTasks new .resident).tasks.get n =
      some { k with st := if n ∈ new then .resident else if n ∈ out then .shadowed else k.st } := by
  rw [get_setTasks _ _ _ (get_setTasks s _ _ hk)]
  by_cases hn : n ∈ new <;> by_cases ho : n ∈ out <;> simp [hn, ho, hp]

theorem task_of_get {s : State} {n : Nat} {k : Task} (h : s.tasks.get n = some k) : s.task n = k := by
  rw [State.task, h]
  rfl

/-- A state before the exchange: run-ahead over, and the lines of the core's engines yielded. -/
def State.settled (s : State) (core : Nat) : State :=
  ((s.residentUnits core).foldl State.endAhead s).yieldLines fun w => w.1 == core

theorem settled_settles (s : State) (core : Nat) : s.Settles (s.settled core) :=
  (foldl_rel State.Settles.refl .trans _ _ _ fun t _ uid _ => endAhead_settles t uid).trans (yieldLines_settles _ _)

/-- A core whose sets are exchanged, `out` the one that leaves (R152). -/
def Core.exchanged (c : Core) (x out : CtxSet) : Core :=
  { c with
    cyc := c.cyc + BitVec.ofNat 64 swapCycles, ctx := x.ctx.resumed (c.cyc + BitVec.ofNat 64 swapCycles), shadow := none,
    spillSet := some out, spill := true, ready := false, softSwap := false, forceSwap := false, yielded := false, failSince := [] }

/-- The exchange without what wakes the new set. -/
def State.exchanged (s : State) (core part : Nat) (x out : CtxSet) : State :=
  (((s.setCore core ((s.core core).exchanged x out)).modPart part fun p =>
    { p with slots := p.slots.set (s.core core).sslot.toNat (.set out) }).setTasks out.ctx.tasks .shadowed).setTasks x.ctx.tasks .resident

/-- The set that leaves a core (R152). -/
def Core.leaving (c : Core) (core : Nat) : CtxSet := { core := core, ctx := c.ctx.paused c.cyc }

theorem slots_exchanged (s : State) (core part : Nat) (x out : CtxSet) :
    ((s.exchanged core part x out).part part).slots = (s.part part).slots.set (s.core core).sslot.toNat (.set out) :=
  congrArg Part.slots (State.part_modPart_same (s.setCore core ((s.core core).exchanged x out)) part fun p =>
    { p with slots := p.slots.set (s.core core).sslot.toNat (.set out) })

theorem exchange_wakes (s : State) (core : Nat) (x : CtxSet) : ((s.settled core).exchanged core (s.corePart core) x
    (((s.settled core).core core).leaving core)).Wakes (s.exchange core x) := by
  unfold State.exchange
  refine State.Wakes.trans ?_ (askAgain_wakes _ core)
  exact foldl_rel State.Wakes.refl .trans _ _ _ fun t _ n _ => wakeTask_wakes t _ n

theorem swap_spec (s : State) (core : Nat) (x : CtxSet) (hsh : (s.core core).shadow = some x) (hr : (s.core core).ready = true)
    (hsp : (s.core core).spill = false)
    (hsw : (s.core core).forceSwap = true ∨ ((s.core core).softSwap = true ∧ (s.core core).yielded = true)) :
    ∃ t out, exec (.swap core) s = .next t ∧ (t.core core).ctx.tasks = x.ctx.tasks ∧ (t.core core).ctx.banks = x.ctx.banks ∧
      (t.core core).ctx.hold = x.ctx.hold ∧ (t.core core).ctx.active = x.ctx.active ∧ (t.core core).ctx.claims = x.ctx.claims ∧
      (t.core core).shadow = none ∧ (t.core core).ready = false ∧ (t.core core).forceSwap = false ∧ (t.core core).softSwap = false ∧
      (t.core core).spill = true ∧ (t.core core).spillSet = some out ∧ (t.core core).cyc = (s.core core).cyc + 64#64 ∧
      (t.part (s.corePart core)).slots.get (s.core core).sslot.toNat = some (.set out) ∧ out.core = core ∧
      out.ctx.tasks = (s.core core).ctx.tasks ∧ out.ctx.banks = (s.core core).ctx.banks ∧ out.ctx.hold = (s.core core).ctx.hold ∧
      out.ctx.claims = (s.core core).ctx.claims ∧
      ∀ n k, s.tasks.get n = some k → k.st ≠ .pending →
        (n ∈ x.ctx.tasks → (t.task n).st = .resident) ∧
          (n ∉ x.ctx.tasks → n ∈ (s.core core).ctx.tasks → (t.task n).st = .shadowed) ∧
          (t.task n).units = k.units ∧ (t.task n).spad = k.spad := by
  have hs := settled_settles s core
  have hw := exchange_wakes s core x
  generalize s.settled core = s1 at hs hw
  set out := (s1.core core).leaving core
  set s2 := s1.exchanged core (s.corePart core) x out with hs2
  have hv := hs.cores core
  simp only [Core.swapView, Prod.mk.injEq] at hv
  obtain ⟨htasks, hbanks, hhold, hclaims, hcyc, hslot⟩ := hv
  have he : evSwap core s = s.exchange core x := by
    simp [evSwap, hsh, Core.swapDue, hr, hsp, hsw]
  have hcore : (s.exchange core x).core core = (s1.core core).exchanged x out := by
    rw [State.core, hw.cores]
    exact State.core_setCore_same ..
  have hpart : ((s.exchange core x).part (s.corePart core)).slots.get (s.core core).sslot.toNat = some (.set out) := by
    rw [State.part, hw.parts, ← hslot]
    exact (congrArg (SMap.get · _) (slots_exchanged s1 core _ x out)).trans (SMap.get_set_same _ _ _)
  refine ⟨s.exchange core x, out, congrArg Host.Outcome.next he, ?_⟩
  rw [hcore]
  refine ⟨rfl, rfl, rfl, rfl, rfl, rfl, rfl, rfl, rfl, rfl, rfl, congrArg (· + 64#64) hcyc, hpart, rfl, htasks, hbanks, hhold, hclaims,
    fun n k hk hp => ?_⟩
  have ht : s2.task n = { k with st := if n ∈ x.ctx.tasks then .resident else if n ∈ out.ctx.tasks then .shadowed else k.st } :=
    task_of_get (get_exchangedTasks _ _ _ ((congrArg (SMap.get · n) hs.tasks).trans hk) hp)
  rw [hw.st, hw.units, hw.spad, ht]
  refine ⟨fun hn => if_pos hn, fun hn ho => (if_neg hn).trans (if_pos (htasks ▸ ho)), rfl, rfl⟩

/-! ### The spill (R152) -/

/-- A spill over with no command that waits for it (R151). -/
theorem spillOver_idle (s : State) (core : Nat) (hl : (s.core core).loadWait = false) (hc : (s.core core).clearWait = false) :
    s.spillOver core = s.modCore core fun c =>
      { c with spill := false, spillWork := [], spillSet := none, clearWait := false, loadWait := false } := by
  simp [State.spillOver, hl, hc]

theorem spillCompletion_set (s : State) (core : Nat) (x : CtxSet) (hsp : (s.core core).spill = true)
    (hset : (s.core core).spillSet = some x) (hd : s.awaitsData core x.ctx.tasks = false) (hl : (s.core core).loadWait = false)
    (hc : (s.core core).clearWait = false) :
    ∃ t, exec (.spillCompletion core) s = .next t ∧ (t.core core).spill = false ∧ (t.core core).spillSet = none ∧
      (t.core core).ctx = (s.core core).ctx ∧ t.units = s.units ∧
      ∀ n k, s.tasks.get n = some k →
        t.tasks.get n = some (if n ∈ x.ctx.tasks ∧ k.st ≠ .pending then { k with st := .spilled } else k) := by
  have he : evSpillCompletion core s = (s.setTasks x.ctx.tasks .spilled).spillOver core := by
    simp [evSpillCompletion, hsp, hset, hd]
  refine ⟨_, congrArg Host.Outcome.next (he.trans (spillOver_idle _ core hl hc)), ?_⟩
  rw [State.core_modCore_same]
  exact ⟨rfl, rfl, rfl, rfl, fun n k hk => get_setTasks s _ _ hk⟩

/-- A frame's state followed from `a` to `b`. -/
def Frame.moved (a b : Nat) (f : Frame) : Frame := if f.status == a then { f with status := b } else f

theorem Frame.moved_moved {a b : Nat} (h : b ≠ a) (f : Frame) : (f.moved a b).moved a b = f.moved a b := by
  by_cases hf : f.status = a <;> simp [Frame.moved, hf, h]

theorem get_setStatus (s : State) (n : Nat) {a b : Nat} (h : b ≠ a) {x : Nat} {f : Frame} (hf : s.frames.get x = some f)
    (hx : x ∈ s.framesOf n) : (s.setStatus n a b).frames.get x = some (f.moved a b) := by
  refine (SMap.get_foldl_adjust (Frame.moved_moved h) (s.framesOf n) s.frames x).trans ?_
  rw [if_pos hx, hf]
  rfl

/-- A task on its core parked: what it holds of the engine leaves with it, and its frames wait in memory (R148, R337). -/
theorem parkDone_spec (s : State) {n : Nat} {k : Task} (hk : s.tasks.get n = some k) :
    n ∉ ((s.parkDone n).core k.core).ctx.tasks ∧
      ((s.parkDone n).core k.core).loadWait = (s.core k.core).loadWait ∧
      ((s.parkDone n).core k.core).clearWait = (s.core k.core).clearWait ∧
      ((s.parkDone n).task n).st = .parked ∧ ((s.parkDone n).task n).units = k.units ∧ (s.parkDone n).units = s.units ∧
      (if (s.core k.core).ctx.hold = some n then ((s.parkDone n).core k.core).ctx.hold = none ∧
          ((s.parkDone n).task n).planes = some ((s.core k.core).ctx.active, (s.core k.core).ctx.shadow)
        else ((s.parkDone n).core k.core).ctx.hold = (s.core k.core).ctx.hold ∧ ((s.parkDone n).task n).planes = none) ∧
      ∀ a f, s.frames.get a = some f → a ∈ s.framesOf n → f.status = 2 →
        (s.parkDone n).frames.get a = some { f with status := 4 } := by
  have htask : s.task n = k := task_of_get hk
  unfold State.parkDone
  rw [htask, hk]
  extract_lets k' c held s1 planes
  rw [if_neg (by simp)]
  set s2 := s1.setTask n { k with st := .parked, awaitSince := none, planes := planes } with hs2
  have hcore : (s2.setStatus n 2 4).core k.core = s1.core k.core := rfl
  have ht : (s2.setStatus n 2 4).task n = { k with st := .parked, awaitSince := none, planes := planes } :=
    State.task_setTask_same s1 n _
  have hfs : s2.framesOf n = s.framesOf n := by
    unfold State.framesOf
    rw [hs2, State.task_setTask_same, htask]
    rfl
  have hs1 : s1.core k.core = _ := State.core_modCore_same s k.core _
  rw [hcore, ht, hs1]
  refine ⟨by simp, rfl, rfl, rfl, rfl, rfl, ?_, fun a f hf ha hst => ?_⟩
  · by_cases hh : c.hold = some n
    · have hheld : held = true := beq_iff_eq.2 hh
      rw [if_pos hh]
      exact ⟨if_pos hheld, if_pos hheld⟩
    · have hheld : ¬ held = true := fun h => hh (beq_iff_eq.1 h)
      rw [if_neg hh]
      exact ⟨if_neg hheld, if_neg hheld⟩
  · have hmoved : f.moved 2 4 = { f with status := 4 } := if_pos (beq_iff_eq.2 hst)
    rw [← hmoved]
    exact get_setStatus s2 n (by decide) hf (hfs ▸ ha)

theorem spillCompletion_task (s : State) (core n : Nat) (k : Task) (hsp : (s.core core).spill = true)
    (hset : (s.core core).spillSet = none) (hw : (s.core core).spillWork = [n]) (hl : (s.core core).loadWait = false)
    (hc : (s.core core).clearWait = false) (hk : s.tasks.get n = some k) (hcore : k.core = core) :
    ∃ t, exec (.spillCompletion core) s = .next t ∧ (t.core core).spill = false ∧ n ∉ (t.core core).ctx.tasks ∧
      (t.task n).st = .parked ∧ (t.task n).units = k.units ∧ t.units = s.units ∧
      (if (s.core core).ctx.hold = some n then (t.core core).ctx.hold = none ∧
          (t.task n).planes = some ((s.core core).ctx.active, (s.core core).ctx.shadow)
        else (t.core core).ctx.hold = (s.core core).ctx.hold ∧ (t.task n).planes = none) ∧
      ∀ a f, s.frames.get a = some f → a ∈ s.framesOf n → f.status = 2 → t.frames.get a = some { f with status := 4 } := by
  subst hcore
  obtain ⟨htasks, hlw, hcw, hst, hunits, hus, hhold, hframes⟩ := parkDone_spec s hk
  have he : evSpillCompletion k.core s = (s.parkDone n).spillOver k.core := by
    simp [evSpillCompletion, hsp, hset, hw]
  refine ⟨_, congrArg Host.Outcome.next (he.trans (spillOver_idle _ _ (hlw.trans hl) (hcw.trans hc))), ?_⟩
  rw [State.core_modCore_same]
  exact ⟨rfl, htasks, hst, hunits, hus, hhold, hframes⟩

theorem setsSwap : Claim.SetsSwap :=
  ⟨fun _ _ => ⟨rfl, rfl, rfl, fun h => congrArg Host.Outcome.next (evClear_ready h),
      fun hr hf hs => congrArg Host.Outcome.next (evClear_spill hr hf hs),
      fun hr hf hs => congrArg Host.Outcome.next (evClear_empties hr hf hs)⟩,
    fillCompletion_spec, fillCompletion_fails, swap_spec, spillCompletion_set, spillCompletion_task⟩

/-- Settles O44: a writeback is followed byte by byte, and the exchange of the sets under what settling before it and waking after it
leave alone. -/
theorem splitsAndSwaps : Obligations.SplitsAndSwaps := ⟨sramAndResidency, setsSwap⟩

end Sys2Proof.Machine
end
